-- ==== Sys2Proof/Word.lean ====
section
/-! DEFINITION. The word types and the fixed quantities of the manual's notation (00_scope, Numbers and bytes; Time units). -/

namespace Sys2Proof

/-- A 64-bit register or data word. -/
abbrev Word := BitVec 64

/-- A byte of HBM, MRAM or a record. -/
abbrev Byte := BitVec 8

/-- Fine ticks in one coarse tick: 1 ft is 1/512 ns (Time units). -/
def ftPerNs : Nat := 512

/-- Femtoseconds in one coarse tick of 1 ns; true instants of edges inside a cycle are given in fs. -/
def fsPerNs : Nat := 1000000

/-- The coarse count is 52 bits wide (R47, R49). -/
def coarseMod : Nat := 2 ^ 52

/-- Stamp times are 61 bits wide, in ft (R48). -/
def ftMod : Nat := 2 ^ 61

/-- The modulus of the 48-bit counters (R66, R248, R286). -/
def ctrMod : Nat := 2 ^ 48

/-- The signed reading of the low `w` bits of `n` (two's complement). -/
def toSigned (w n : Nat) : Int :=
  let m := n % 2 ^ w
  if m < 2 ^ (w - 1) then (m : Int) else (m : Int) - (2 ^ w : Nat)

/-- The low `w` bits of an integer, as a natural number (two's complement). -/
def ofSigned (w : Nat) (i : Int) : Nat := (i % ((2 ^ w : Nat) : Int)).toNat

/-- Clamp of an integer to a range. -/
def clampInt (lo hi i : Int) : Int := max lo (min hi i)

end Sys2Proof
end

