-- ==== Sys2Proof/Syntax.lean ====
section
/-! DEFINITION. The commands of the ST512: one constructor of `Instr` for each row of spec/opcode_table.json, with
the operands that come from outside the device (a written value, a packet's fields, an analog observation). -/

namespace Sys2Proof

/-- The four views of R366. -/
inductive View where
  | normal | set | clear | toggle
  deriving DecidableEq, Repr

/-- The two comparators of a channel (R7, R26). -/
inductive Comp where
  | cl | ch
  deriving DecidableEq, Repr

/-- The blocks that hold an UNLOCK register (R363, R379). -/
inductive Blk where
  | ctl | tb | thm | cal | mem | lnk | hif
  deriving DecidableEq, Repr

/-- The operand fields of a TYM instruction word (R155). `form` is the low bit of the opcode where a mnemonic has
two opcodes (register form false, immediate form true; R167, R171, R191, R200). -/
structure TymOps where
  form : Bool
  cond : BitVec 4
  dst : BitVec 4
  srca : BitVec 4
  srcb : BitVec 4
  imm : BitVec 40
  deriving DecidableEq, Repr

/-- A unit that applies a hitch commit at a safe boundary of its own (R374, R376). -/
inductive HUnit where
  | levels (g : Fin 512)          -- PECFG and CMPCFG of a channel
  | echo (g : Fin 512)            -- EPCFG of a channel
  | epsk (k : Fin 32)             -- EPSK of a skein
  | slot (k : Fin 32) (s : Fin 64)
  | engine (k : Fin 32)           -- ECFG except HGRP, ECODE, EBRAID, VCFG
  | cond (i : Fin 16)
  | stream (s : Fin 64)
  | tb
  | mem
  deriving DecidableEq, Repr

/-- The comparator outputs over one compare window: their values at the open and whether each changed up to the
close, inclusive (R88). -/
structure WinObs where
  ch : Bool
  cl : Bool
  chChanged : Bool
  clChanged : Bool
  deriving DecidableEq, Repr

/-- What the ECC check of a read unit finds (R283, R284): nothing, words in each of which one bit is corrected, with the
syndromes, or an uncorrectable word. -/
inductive EccObs where
  | clean
  | corrected (words : List (Fin 16 × Fin 72 × BitVec 8))
  | uncorrectable (word : Fin 16) (synd : BitVec 8)
  deriving DecidableEq, Repr

/-- The safety sets held in three copies (R389). -/
inductive VoteSet where
  | thresh | band | unlock | pden
  deriving DecidableEq, Repr

/-- The fields of a host ring entry that a host write can reach (R236). -/
inductive RingField where
  | base | ctrl | wr | rd | wbaddr
  deriving DecidableEq, Repr

/-- The result of calibrating one comparator of an inactive path (R327, R328): the offsets of the 8 input pairs and
the residual after trim in 2^-5 mV, the trim DAC code, the measured delay trim in ft, and the threshold errors at
the 17 codes in 2^-4 DAC code. -/
structure CmpCal where
  pairOfs : List Int
  residual : Int
  delayTrim : Int
  thrErr : List Int
  deriving DecidableEq, Repr

/-- A 16-byte packet header's routing fields (R306) as a received packet carries them, and the port it came in on
(0 for A, 1 for B). -/
structure PktHdr where
  port : Fin 2
  tag : BitVec 32
  lseq : BitVec 16
  vc : Fin 4
  src : Fin 64
  dst : Fin 64
  bcast : Bool
  dir : Bool
  len : Fin 128
  deriving DecidableEq, Repr

/-- One command: a row of the opcode table with its operands. -/
inductive Instr where
  -- power, thermal, supplies
  | porRelease (head refsel addrLock : Bool)
  | porAssert
  | pwrgood
  | powerDomainOn (d : Fin 96)
  | powerGood (d : Fin 96)
  | powerDomainOff (d : Fin 96)
  | pdenWrite (one : Bool) (view : View) (w : Word)
  | threshWrite (view : View) (w : BitVec 32)
  | thmSample (readings : List (Option Int))
  | shutdownDomainsOff
  | avsStep (slacks : List Int) (vout iout : Nat) (rtemp : Int) (fails version : Nat)
  -- pin front end
  | settleTimerExpiry (k : Fin 32) (c : Fin 16)
  | pmuStart (k : Fin 32) (c : Fin 16)
  | pmuConversionComplete (m : Fin 8) (codes : List Int) (clamped overrange : Bool)
  | safeRelease (k : Fin 32) (c : Fin 16)
  | safeConditionReached (k : Fin 32) (c : Fin 16)
  | pathSwap (k : Fin 32) (c : Fin 16) (agreedNs : Nat)
  -- time capture
  | edge (k : Fin 32) (c : Fin 16) (comp : Comp) (rising : Bool) (fs : Nat)
  | vernierConversionComplete (k : Fin 32) (u : Fin 52) (q : Fin 16)
  | vernierUnitRelease (k : Fin 32) (u : Fin 52)
  | stampDelivery (k : Fin 32)
  | cntSnap (k : Fin 32) (alsoClr : Bool)
  | cntClr (k : Fin 32)
  | dllUpdate (k : Fin 32) (err : Int) (ctrl : BitVec 16)
  | vernierWithdraw (k : Fin 32)
  | vernierCalComplete (k : Fin 32) (u : Fin 52) (h : List Nat)
  -- edge placement
  | vectorIssue (k : Fin 32)
  | driveEvent (k : Fin 32) (c : Fin 16)
  | compareJudgement (k : Fin 32) (c : Fin 16) (w0 w1 : WinObs)
  | echoMiss (k : Fin 32) (c : Fin 16)
  -- measurement
  | timedGateBoundary (k : Fin 32) (s : Fin 64)
  | armedGateClose (k : Fin 32) (s : Fin 64)
  | deferredClose (k : Fin 32) (s : Fin 64)
  | waitWindowEnd (k : Fin 32) (s : Fin 64)
  | pairingTimeout (k : Fin 32) (s : Fin 64)
  | divideJobStart (k : Fin 32)
  | divideJobComplete (k : Fin 32)
  | totHistPublish (k : Fin 32) (s : Fin 64)
  | mauclr (k : Fin 32) (mask : Word)
  -- engine control
  | ectlStart (k : Fin 32) (timed : Bool)
  | timedStart (k : Fin 32)
  | pinLoadComplete (k : Fin 32)
  | ectlAbort (k : Fin 32)
  | ectlEngreset (k : Fin 32)
  | engineRegWrite (k : Fin 32) (off : BitVec 12) (w : Word)
  | ehostsigWrite (k : Fin 32) (view : View) (m : BitVec 16)
  | cacheLineFill (k : Fin 32)
  -- TYM control instructions and their events
  | tymNop (k : Fin 32) (o : TymOps)
  | tymJmp (k : Fin 32) (o : TymOps)
  | tymJcc (k : Fin 32) (o : TymOps)
  | tymCall (k : Fin 32) (o : TymOps)
  | tymRet (k : Fin 32) (o : TymOps)
  | tymLoop (k : Fin 32) (o : TymOps)
  | tymEndl (k : Fin 32) (o : TymOps)
  | tymRpt (k : Fin 32) (o : TymOps)
  | tymHalt (k : Fin 32) (o : TymOps)
  | tymWaitt (k : Fin 32) (o : TymOps)
  | waittExpiry (k : Fin 32)
  | tymWaite (k : Fin 32) (o : TymOps)
  | waiteEvent (k : Fin 32)
  | waiteTimeout (k : Fin 32)
  | tymSyncb (k : Fin 32) (o : TymOps)
  | barrierRelease (k : Fin 32)
  | drainComplete (k : Fin 32)
  -- TYM arithmetic
  | tymAdd (k : Fin 32) (o : TymOps)
  | tymSub (k : Fin 32) (o : TymOps)
  | tymMul (k : Fin 32) (o : TymOps)
  | tymMulh (k : Fin 32) (o : TymOps)
  | tymAnd (k : Fin 32) (o : TymOps)
  | tymOr (k : Fin 32) (o : TymOps)
  | tymXor (k : Fin 32) (o : TymOps)
  | tymShl (k : Fin 32) (o : TymOps)
  | tymShr (k : Fin 32) (o : TymOps)
  | tymCmp (k : Fin 32) (o : TymOps)
  | tymMov (k : Fin 32) (o : TymOps)
  | tymMovi (k : Fin 32) (o : TymOps)
  -- TYM lane instructions
  | tymLadd (k : Fin 32) (o : TymOps)
  | tymLsub (k : Fin 32) (o : TymOps)
  | tymLsel (k : Fin 32) (o : TymOps)
  | tymLcmp (k : Fin 32) (o : TymOps)
  | tymLmov (k : Fin 32) (o : TymOps)
  | tymPset (k : Fin 32) (o : TymOps)
  | tymPand (k : Fin 32) (o : TymOps)
  -- TYM vector instructions
  | tymVec (k : Fin 32) (o : TymOps)
  | tymVeci (k : Fin 32) (o : TymOps)
  | tymVsub (k : Fin 32) (o : TymOps)
  | tymTset (k : Fin 32) (o : TymOps)
  | tymLevel (k : Fin 32) (o : TymOps)
  | tymMatch (k : Fin 32) (o : TymOps)
  | matchRelease (k : Fin 32)
  | tymFailm (k : Fin 32) (o : TymOps)
  -- TYM measurement instructions
  | tymMset (k : Fin 32) (o : TymOps)
  | tymGate (k : Fin 32) (o : TymOps)
  | tymMwait (k : Fin 32) (o : TymOps)
  | mwaitRelease (k : Fin 32)
  | mwaitTimeout (k : Fin 32)
  | tymMget (k : Fin 32) (o : TymOps)
  | tymMgetLane (k : Fin 32) (o : TymOps)
  | tymMclr (k : Fin 32) (o : TymOps)
  -- TYM stream and trigger instructions
  | tymMark (k : Fin 32) (o : TymOps)
  | tymEmit (k : Fin 32) (o : TymOps)
  | tymArm (k : Fin 32) (o : TymOps)
  | tymFire (k : Fin 32) (o : TymOps)
  | tymTwait (k : Fin 32) (o : TymOps)
  | twaitRelease (k : Fin 32)
  | twaitTimeout (k : Fin 32)
  | tymSignal (k : Fin 32) (o : TymOps)
  -- vector unit
  | vqItemAttach (k : Fin 32)
  | vectorLineRequest (k : Fin 32)
  | vectorLineArrival (k : Fin 32)
  | runOpen (k : Fin 32)
  | underrun (k : Fin 32)
  -- triggers
  | tswfire (mask : BitVec 16)
  | dcfgWrite (d : Fin 4) (view : View) (w : Word)
  | dctlArm (d : Fin 4)
  | dctlDisarm (d : Fin 4)
  | armreq (hdr : PktHdr) (d : Fin 4) (a : Nat) (disarm : Bool)
  | firePulseEnd (d : Fin 4)
  | fireLineEdge (d : Fin 4) (fine : Fin 512)
  | holdoffEnd (d : Fin 4)
  | schedArm (d : Fin 4)
  | schedDisarm (d : Fin 4)
  -- streams and host rings
  | rawRecordTimeout (s : Fin 64) (c : Fin 16)
  | recordCommit (s : Fin 64)
  | gapEnd (s : Fin 64)
  | rateLevelRise (s : Fin 64)
  | rateLevelFall (s : Fin 64)
  | recordTransport (s : Fin 64)
  | hostRingWrite (h : Fin 4096)
  | hostRingEntryWrite (h : Fin 4096) (f : RingField) (w : Word)
  | hostRingIrq (h : Fin 4096)
  | streamEnable (s : Fin 64)
  | streamDisable (s : Fin 64)
  | streamDeferredEnable (s : Fin 64)
  | sctlSnap (s : Fin 64)
  | sctlClr (s : Fin 64)
  -- memory controller
  | memRequestAccept (n : Fin 77)
  | activateIssue (p : Fin 32)
  | neighbourRefresh (p : Fin 32)
  | refresh (p : Fin 32)
  | memRequestComplete (n : Fin 77) (ecc : EccObs)
  | scrubRead
  | caparError (p : Fin 32)
  | bandChange
  | mfreqReq
  | mfreqCancel
  | selfRefreshEntry
  | rateChangeComplete
  | mctlForcefrz
  | mfrzRelease
  | stackReinitComplete
  | mctlSnap
  | mctlCntclr
  | mctlEn
  | memInitComplete
  | memoryFillComplete
  | writePattern
  | readCompare
  | mrw
  | mtrainDone
  -- timebase
  | refinMissingEdge (lastEdgeAgoNs : Nat)
  | refinWindowEnd (count : Nat) (ferr : Int)
  | frequencyReacquired (phaseErrFs : Int)
  | slewComplete
  | firstLock
  | freerunTimeout
  | refselWrite (v : Bool)
  | tbctlAlign
  | tbctlAligncan
  | tbctlSplice
  | tsyncEdge (fine : Fin 512)
  | coarseLoad
  | epochTick
  -- LANYARD ring
  | portUp (q : Fin 2) (credits : List Nat)
  | portDown (q : Fin 2)
  | linkctl (q : Fin 2) (ackseq : BitVec 16) (nak : Bool) (vc : Fin 4) (units : Nat)
  | rread (hdr : PktHdr) (off : BitVec 23) (wide : Bool)
  | rwrite (hdr : PktHdr) (off : BitVec 23) (wide : Bool) (w : Word)
  | rresp (hdr : PktHdr) (w : Word) (status : Fin 4)
  | sched (hdr : PktHdr) (at52 : Nat) (action : Nat) (arg : BitVec 8) (sender48 : Nat)
  | schedHitchCommit
  | signalPacket (hdr : PktHdr) (mask : BitVec 32)
  | irqPacket (hdr : PktHdr)
  | streamPacket (hdr : PktHdr) (seq : BitVec 32) (items : Nat) (bytes : List Byte)
  | strack (hdr : PktHdr) (seq : BitVec 32)
  | disc (hdr : PktHdr) (count : Nat) (provisional isEnd fromOtherHead : Bool)
  | fixup (hdr : PktHdr) (n : Nat)
  | verify (hdr : PktHdr) (n senderPos : Nat)
  | done (hdr : PktHdr) (n mode : Nat)
  | unknownPacket (hdr : PktHdr) (kind : BitVec 8)
  | tunnelAccess (p : Fin 64) (off : BitVec 23) (wide write : Bool) (w : Word)
  | tunnelTimeout
  | breakDeclare (q : Fin 2)
  | noheadTimeout
  | lctlRedisc
  | lctlShitch
  | lctlSalign
  -- calibration
  | calcmdRun
  | calcmdStore
  | calcmdDeskew
  | calcmdAbort
  | deskewListenEnd (k : Fin 32) (c : Fin 16)
  | deskewRelisten (k : Fin 32) (c : Fin 16)
  | deskewPulseEnd (k : Fin 32) (c : Fin 16)
  | dlcellPass (k : Fin 32) (h : List Nat)
  | dlcellTrimStep (k : Fin 32)
  | cmppathCalComplete (k : Fin 32) (c : Fin 16) (ch cl : CmpCal)
  | lvldacTrimStep (k : Fin 32) (c : Fin 16) (dac : Fin 4) (err : Int)
  | tbpllCal (gainPct : Int) (code : BitVec 16)
  | calTriggeredRun (k : Fin 32)
  | mramBlockWritten (good : Bool)
  | calRecordLoad
  | mramWindowWrite (off : BitVec 16) (w : BitVec 32)
  -- control path and host interface
  | hitchFire (mask : BitVec 8)
  | hitchApply (u : HUnit)
  | unlockWrite (b : Blk) (view : View) (w : BitVec 32)
  | unlockExpiry (b : Blk)
  | sealWrite (view : View) (w : BitVec 32)
  | registerWrite (off : BitVec 23) (w : BitVec 32) (be : BitVec 4)
  | cfgCheck
  | voteRepair (set : VoteSet) (copy : Fin 3) (upset : BitVec 128)
  | irqSourceReport (i : Fin 64)
  | irqRepeat
  | dmaGo (n : Fin 8)
  | dmaAbort (n : Fin 8)
  | dmaEnd (n : Fin 8) (pcieError : Bool)
  | pcieHotReset
  | d3hotToD0
  -- JTAG
  | extest
  | idcode
  | samplePreload (cells : BitVec 1168)
  | clamp
  | highz
  | extestPulse
  | extestTrain
  | bypass
  -- engine faults and link events with rows of their own
  | illegalOpcode (k : Fin 32) (w : Word)
  | pinmiss (k : Fin 32)
  | blockLockLoss (q : Fin 2) (lane : Fin 8)
  | blockLockRegain (q : Fin 2) (lane : Fin 8)
  | packetCrcError (q : Fin 2)
  | pcieLinkUp (speed width mps mrrs : Nat) (bme : Bool)
  | supplyLoss
  deriving DecidableEq, Repr

end Sys2Proof
end

