-- ==== Sys2Proof/Decode.lean ====
section
/-! DEFINITION. The command a table word spells, and the encoding of TYM instruction words (R155, R158, R161, R167,
R171, R191, R200, R206). -/

namespace Sys2Proof

/-- No row of the table gives its command a word (every row's fields are empty), so a word spells no command. -/
def decodeTableWord (_nbits _w : Nat) : Option Instr := none

/-- The operand fields of a TYM word (R155). -/
def tymOps (form : Bool) (w : Word) : TymOps :=
  { form := form, cond := w.extractLsb' 52 4, dst := w.extractLsb' 48 4, srca := w.extractLsb' 44 4,
    srcb := w.extractLsb' 40 4, imm := w.extractLsb' 0 40 }

/-- The word of an opcode and operand fields (R155). -/
def tymWord (op : BitVec 8) (o : TymOps) : Word := op ++ o.cond ++ o.dst ++ o.srca ++ o.srcb ++ o.imm

/-- The TYM instruction that a word holds for engine k; none for an opcode that no table assigns (R157). -/
def tymDecode (k : Fin 32) (w : Word) : Option Instr :=
  match (w.extractLsb' 56 8).toNat with
  | 0x00 => some (.tymNop k (tymOps false w))
  | 0x01 => some (.tymJmp k (tymOps false w))
  | 0x02 => some (.tymJcc k (tymOps false w))
  | 0x03 => some (.tymCall k (tymOps false w))
  | 0x04 => some (.tymRet k (tymOps false w))
  | 0x05 => some (.tymLoop k (tymOps false w))
  | 0x06 => some (.tymEndl k (tymOps false w))
  | 0x07 => some (.tymRpt k (tymOps false w))
  | 0x08 => some (.tymHalt k (tymOps false w))
  | 0x09 => some (.tymWaitt k (tymOps false w))
  | 0x0a => some (.tymWaite k (tymOps false w))
  | 0x0b => some (.tymSyncb k (tymOps false w))
  | 0x20 => some (.tymVec k (tymOps false w))
  | 0x21 => some (.tymVec k (tymOps true w))
  | 0x22 => some (.tymVeci k (tymOps false w))
  | 0x23 => some (.tymVsub k (tymOps false w))
  | 0x24 => some (.tymTset k (tymOps false w))
  | 0x25 => some (.tymTset k (tymOps true w))
  | 0x26 => some (.tymLevel k (tymOps false w))
  | 0x27 => some (.tymMatch k (tymOps false w))
  | 0x28 => some (.tymFailm k (tymOps false w))
  | 0x40 => some (.tymMset k (tymOps false w))
  | 0x41 => some (.tymMset k (tymOps true w))
  | 0x42 => some (.tymGate k (tymOps false w))
  | 0x43 => some (.tymMwait k (tymOps false w))
  | 0x44 => some (.tymMget k (tymOps false w))
  | 0x45 => some (.tymMgetLane k (tymOps false w))
  | 0x46 => some (.tymMclr k (tymOps false w))
  | 0x60 => some (.tymAdd k (tymOps false w))
  | 0x61 => some (.tymAdd k (tymOps true w))
  | 0x62 => some (.tymSub k (tymOps false w))
  | 0x63 => some (.tymSub k (tymOps true w))
  | 0x64 => some (.tymMul k (tymOps false w))
  | 0x65 => some (.tymMul k (tymOps true w))
  | 0x66 => some (.tymMulh k (tymOps false w))
  | 0x67 => some (.tymMulh k (tymOps true w))
  | 0x68 => some (.tymAnd k (tymOps false w))
  | 0x69 => some (.tymAnd k (tymOps true w))
  | 0x6a => some (.tymOr k (tymOps false w))
  | 0x6b => some (.tymOr k (tymOps true w))
  | 0x6c => some (.tymXor k (tymOps false w))
  | 0x6d => some (.tymXor k (tymOps true w))
  | 0x6e => some (.tymShl k (tymOps false w))
  | 0x6f => some (.tymShl k (tymOps true w))
  | 0x70 => some (.tymShr k (tymOps false w))
  | 0x71 => some (.tymShr k (tymOps true w))
  | 0x72 => some (.tymCmp k (tymOps false w))
  | 0x73 => some (.tymCmp k (tymOps true w))
  | 0x74 => some (.tymMov k (tymOps false w))
  | 0x75 => some (.tymMovi k (tymOps false w))
  | 0x76 => some (.tymLadd k (tymOps false w))
  | 0x77 => some (.tymLadd k (tymOps true w))
  | 0x78 => some (.tymLsub k (tymOps false w))
  | 0x79 => some (.tymLsub k (tymOps true w))
  | 0x7a => some (.tymLsel k (tymOps false w))
  | 0x7b => some (.tymLcmp k (tymOps false w))
  | 0x7c => some (.tymLcmp k (tymOps true w))
  | 0x7d => some (.tymLmov k (tymOps false w))
  | 0x7e => some (.tymPset k (tymOps false w))
  | 0x7f => some (.tymPand k (tymOps false w))
  | 0x80 => some (.tymMark k (tymOps false w))
  | 0x81 => some (.tymEmit k (tymOps false w))
  | 0x82 => some (.tymArm k (tymOps false w))
  | 0x83 => some (.tymFire k (tymOps false w))
  | 0x84 => some (.tymTwait k (tymOps false w))
  | 0x85 => some (.tymSignal k (tymOps false w))
  | _ => none

/-- The engine, opcode and operands of a TYM instruction; none for the other commands. -/
def tymParts : Instr → Option (Fin 32 × BitVec 8 × TymOps)
  | .tymNop k o => some (k, 0x00#8, o)
  | .tymJmp k o => some (k, 0x01#8, o)
  | .tymJcc k o => some (k, 0x02#8, o)
  | .tymCall k o => some (k, 0x03#8, o)
  | .tymRet k o => some (k, 0x04#8, o)
  | .tymLoop k o => some (k, 0x05#8, o)
  | .tymEndl k o => some (k, 0x06#8, o)
  | .tymRpt k o => some (k, 0x07#8, o)
  | .tymHalt k o => some (k, 0x08#8, o)
  | .tymWaitt k o => some (k, 0x09#8, o)
  | .tymWaite k o => some (k, 0x0a#8, o)
  | .tymSyncb k o => some (k, 0x0b#8, o)
  | .tymVec k o => some (k, if o.form then 0x21#8 else 0x20#8, o)
  | .tymVeci k o => some (k, 0x22#8, o)
  | .tymVsub k o => some (k, 0x23#8, o)
  | .tymTset k o => some (k, if o.form then 0x25#8 else 0x24#8, o)
  | .tymLevel k o => some (k, 0x26#8, o)
  | .tymMatch k o => some (k, 0x27#8, o)
  | .tymFailm k o => some (k, 0x28#8, o)
  | .tymMset k o => some (k, if o.form then 0x41#8 else 0x40#8, o)
  | .tymGate k o => some (k, 0x42#8, o)
  | .tymMwait k o => some (k, 0x43#8, o)
  | .tymMget k o => some (k, 0x44#8, o)
  | .tymMgetLane k o => some (k, 0x45#8, o)
  | .tymMclr k o => some (k, 0x46#8, o)
  | .tymAdd k o => some (k, if o.form then 0x61#8 else 0x60#8, o)
  | .tymSub k o => some (k, if o.form then 0x63#8 else 0x62#8, o)
  | .tymMul k o => some (k, if o.form then 0x65#8 else 0x64#8, o)
  | .tymMulh k o => some (k, if o.form then 0x67#8 else 0x66#8, o)
  | .tymAnd k o => some (k, if o.form then 0x69#8 else 0x68#8, o)
  | .tymOr k o => some (k, if o.form then 0x6b#8 else 0x6a#8, o)
  | .tymXor k o => some (k, if o.form then 0x6d#8 else 0x6c#8, o)
  | .tymShl k o => some (k, if o.form then 0x6f#8 else 0x6e#8, o)
  | .tymShr k o => some (k, if o.form then 0x71#8 else 0x70#8, o)
  | .tymCmp k o => some (k, if o.form then 0x73#8 else 0x72#8, o)
  | .tymMov k o => some (k, 0x74#8, o)
  | .tymMovi k o => some (k, 0x75#8, o)
  | .tymLadd k o => some (k, if o.form then 0x77#8 else 0x76#8, o)
  | .tymLsub k o => some (k, if o.form then 0x79#8 else 0x78#8, o)
  | .tymLsel k o => some (k, 0x7a#8, o)
  | .tymLcmp k o => some (k, if o.form then 0x7c#8 else 0x7b#8, o)
  | .tymLmov k o => some (k, 0x7d#8, o)
  | .tymPset k o => some (k, 0x7e#8, o)
  | .tymPand k o => some (k, 0x7f#8, o)
  | .tymMark k o => some (k, 0x80#8, o)
  | .tymEmit k o => some (k, 0x81#8, o)
  | .tymArm k o => some (k, 0x82#8, o)
  | .tymFire k o => some (k, 0x83#8, o)
  | .tymTwait k o => some (k, 0x84#8, o)
  | .tymSignal k o => some (k, 0x85#8, o)
  | _ => none

/-- Whether a TYM mnemonic has one opcode only, so that its operands carry no form bit. -/
def tymOneForm : Instr → Bool
  | .tymNop _ _ | .tymJmp _ _ | .tymJcc _ _ | .tymCall _ _ | .tymRet _ _ | .tymLoop _ _ | .tymEndl _ _ | .tymRpt _ _ | .tymHalt _ _ | .tymWaitt _ _ | .tymWaite _ _ | .tymSyncb _ _ | .tymVeci _ _ | .tymVsub _ _ | .tymLevel _ _ | .tymMatch _ _ | .tymFailm _ _ | .tymGate _ _ | .tymMwait _ _ | .tymMget _ _ | .tymMgetLane _ _ | .tymMclr _ _ | .tymMov _ _ | .tymMovi _ _ | .tymLsel _ _ | .tymLmov _ _ | .tymPset _ _ | .tymPand _ _ | .tymMark _ _ | .tymEmit _ _ | .tymArm _ _ | .tymFire _ _ | .tymTwait _ _ | .tymSignal _ _ => true
  | _ => false

/-- The word of a TYM instruction; none for the other commands. -/
def tymEncode (i : Instr) : Option Word := (tymParts i).map (fun p => tymWord p.2.1 p.2.2)

end Sys2Proof
end

