-- ==== Sys2Proof/Machine/Sparse.lean ====
section
/-! DEFINITION. Sparse tables of plain data: a list of (key, value) pairs in one canonical form (keys strictly rising,
no entry equal to what an unlisted key reads as), with the one read and the one write every store of the model uses. -/

namespace Sys2Proof.Machine

/-- A sparse table; a key that is not listed reads as the default function's value. -/
abbrev Table (α : Type) := List (Nat × α)

/-- The value at key `k`. -/
def tget {α : Type} (d : Nat → α) : Table α → Nat → α
  | [], k => d k
  | (a, v) :: t, k => if k = a then v else tget d t k

/-- Insertion of a pair before the first larger key. -/
def tins {α : Type} (k : Nat) (v : α) : Table α → Table α
  | [] => [(k, v)]
  | (a, w) :: t => if k < a then (k, v) :: (a, w) :: t else (a, w) :: tins k v t

/-- The table without key `k`. -/
def tdel {α : Type} (k : Nat) : Table α → Table α
  | [] => []
  | (a, w) :: t => if a = k then tdel k t else (a, w) :: tdel k t

/-- The table with value `v` at key `k`; writing the default removes the entry. -/
def tput {α : Type} [DecidableEq α] (d : Nat → α) (t : Table α) (k : Nat) (v : α) : Table α :=
  if v = d k then tdel k t else tins k v (tdel k t)

/-- Keys strictly rising from above `lo`, and no default entry. -/
def twfFrom {α : Type} [DecidableEq α] (d : Nat → α) : Option Nat → Table α → Bool
  | _, [] => true
  | lo, (a, v) :: t => (match lo with | none => true | some l => decide (l < a)) && decide (v ≠ d a) &&
      twfFrom d (some a) t

/-- The canonical form. -/
def twf {α : Type} [DecidableEq α] (d : Nat → α) (t : Table α) : Bool := twfFrom d none t

/-- Bits [hi:lo] of a word. -/
def fget (w : Word) (hi lo : Nat) : Nat := w.toNat / 2 ^ lo % 2 ^ (hi + 1 - lo)

/-- The mask of bits [hi:lo]. -/
def fmask (hi lo : Nat) : Word := BitVec.ofNat 64 ((2 ^ (hi + 1 - lo) - 1) * 2 ^ lo)

/-- The word with bits [hi:lo] replaced by the low bits of `v`. -/
def fset (w : Word) (hi lo : Nat) (v : Nat) : Word :=
  (w &&& ~~~ fmask hi lo) ||| BitVec.ofNat 64 (v % 2 ^ (hi + 1 - lo) * 2 ^ lo)

/-- A Bool as a number. -/
def b2n (b : Bool) : Nat := if b then 1 else 0

/-- `n` bytes of a number, little-endian (R6). -/
def leBytes : Nat → Nat → List Byte
  | 0, _ => []
  | n + 1, v => BitVec.ofNat 8 v :: leBytes n (v / 256)

/-- The number that a list of bytes spells, little-endian (R6). -/
def leNat : List Byte → Nat
  | [] => 0
  | b :: t => b.toNat + 256 * leNat t

/-- The first position of a list's element that satisfies a test. -/
def firstIdx {α : Type} (p : α → Bool) : List α → Nat → Option Nat
  | [], _ => none
  | a :: t, i => if p a then some i else firstIdx p t (i + 1)

/-- The list with position `i` changed. -/
def updAt {α : Type} (i : Nat) (f : α → α) (l : List α) : List α :=
  match l, i with
  | [], _ => []
  | a :: t, 0 => f a :: t
  | a :: t, j + 1 => a :: updAt j f t

/-- The element at position `i`, or a given one. -/
def atD {α : Type} (l : List α) (i : Nat) (d : α) : α := (l[i]?).getD d

/-- Exact rounding of a quotient to the nearest integer, halves away from zero (R111). -/
def roundDiv (a b : Int) : Int :=
  if b = 0 then 0 else
  let n := if b < 0 then -a else a
  let m := if b < 0 then -b else b
  if 0 ≤ n then (2 * n + m) / (2 * m) else -((2 * (-n) + m) / (2 * m))

/-- Integer square root by bisection on bits: the largest r with r*r ≤ n, over `b` bits. -/
def isqrtBits : Nat → Nat → Nat → Nat
  | 0, _, r => r
  | b + 1, n, r => let c := r + 2 ^ b
                   if c * c ≤ n then isqrtBits b n c else isqrtBits b n r

/-- The integer nearest to the square root of p/q, halves away from zero: the r with (2r-1)^2 q ≤ 4p < (2r+1)^2 q. -/
def roundSqrt (p q : Nat) : Nat :=
  if q = 0 then 0 else
  let r2 := isqrtBits 200 (4 * p / q) 0
  (r2 + 1) / 2

end Sys2Proof.Machine
end

