-- ==== Sys2Proof/Machine/Parts.lean ====
section
/-! DEFINITION. The state of each part of the device beside its registers: what the chapters give the pin channels,
the skeins, the slots, the engines, the streams and the other parts that no register holds. Every field without a
register of its own is named here with the rule that gives it. Plain data throughout. -/

namespace Sys2Proof.Machine

/-- What a driver puts on the pin (R21, R43). -/
inductive Drive where
  | hiZ | vih | vil | vterm
  deriving DecidableEq, Repr

/-- A placed drive event of R84: its placed time and intended time in elapsed ft, the S of its vector, whether it is
E1, the level it names, and the echo comparator (true: CH) and ECHO_OFS in force where TRK_EN was 1 at its placement
(R95). -/
structure DriveEv where
  at_ : Nat
  intended : Nat
  s : Nat
  isE1 : Bool
  level : Drive
  echo : Option (Bool × Int) := none
  pulse : Bool := false                   -- an edge of a deskew pulse (R331)
  deriving DecidableEq, Repr

/-- One placed compare window: open and close in elapsed ft (R81, R88). `fate` tells, once a levels boundary has come
after its close, whether the settle mask covered the close and whether the channel was enabled at it (R24, R46, R89). -/
structure Win where
  opn : Nat
  cls : Nat
  fate : Option (Bool × Bool) := none
  deriving DecidableEq, Repr

/-- A compare vector of a channel that waits for its judgement (R88, R197). -/
structure Cmp where
  vec : Nat                -- its number, as VCOUNT held it
  idx : Nat                -- its number from START, which does not wrap
  s : Nat                  -- its S, elapsed ft
  final : Nat              -- S + P + 24 ns, elapsed ft
  state : Nat              -- 3, 4, 5 or 6
  w0 : Option Win
  w1 : Option Win
  latchable : Bool         -- NOLATCH = 0 and the mask bit in force (R197)
  ftrg : Bool
  cleared : Bool           -- a FAILM CLR queued after it has taken effect (R199)
  deriving DecidableEq, Repr

/-- The kinds of edge a slot sees (R100). -/
inductive EvKind where
  | fine | shed | crowd
  deriving DecidableEq, Repr

/-- An expected echo (R91): its expected time on the local scale, its direction, the comparator it is expected from
(true: CH), and the earliest edge seen so far that lies in its window while an earlier one was still outstanding. -/
structure Echo where
  x : Nat
  rising : Bool
  ch : Bool
  cand : Option (Nat × EvKind) := none
  code : Option Nat := none               -- of a deskew pulse: the interpolator code it is placed with (R331)
  got : Bool := false                     -- of a deskew pulse: its echo is found or missed
  deriving DecidableEq, Repr

/-- What a channel holds beside its registers (Pin front end, Time capture, Edge placement). (DESIGN CHOICE, log 22.) -/
structure Chan where
  settleFrom : Nat := 0                   -- the settle timer runs from this elapsed ft (R24)
  settleEnd : Nat := 0                    -- to this one
  safe : Bool := true                     -- in safe state: codes, LEVEL items and PMU modes are ignored (R44)
  rel : Bool := false                     -- a restarted engine releases it at the first S (R44, R176)
  safeBy : Option Nat := none             -- the safe command has come, the pin has yet to reach its condition (R42)
  dac : BitVec 128 := 0x00000000300030003000300030003000#128   -- the level set in the DACs (R20, R22)
  drive : Drive := .hiZ                   -- the driver now
  loadOn : Bool := false                  -- the state or safe condition in effect has the load on (R21, R43)
  thrCh : Int := 0x3000 * 2 ^ 32          -- the thresholds in force, in 2^-32 code (R32-R34)
  thrCl : Int := 0x3000 * 2 ^ 32
  lastState : Nat := 2                    -- the previous vector's code, for state 7
  outCh : Bool := false                   -- the comparator outputs of the active path (R26)
  outCl : Bool := false
  lastCh : Option Nat := none             -- true instant of the last stamped edge, elapsed fs (R64)
  lastCl : Option Nat := none
  lastChT : Option Nat := none            -- the stamp time of that edge, once assembled (R100)
  lastClT : Option Nat := none
  lastChEp : Nat := 0                     -- the coarse-count loads before that stamp: the scale of its time
  lastClEp : Nat := 0
  enAt : Nat := 0                         -- elapsed ft at which CH_EN last applied, and what it was before (R46)
  enWas : Bool := false
  evs : List DriveEv := []                -- drive events placed and not yet applied (R85)
  lastEv : Option Nat := none             -- the time of the last drive event placed, elapsed ft (R86)
  cmps : List Cmp := []                   -- compare vectors not yet judged
  echoes : List Echo := []                -- expected echoes (R91)
  sumR : Int := 0                         -- the loop's sums and counts (R92)
  cntR : Nat := 0
  sumF : Int := 0
  cntF : Nat := 0
  echoR : Bool := false                   -- the direction has had an echo since the start, or TRK_EN applied as 1
  echoF : Bool := false
  smallR : Bool := true                   -- its last residual is under 0.5 ft
  smallF : Bool := true
  vecN : Nat := 0                         -- the loop's vector number n (R92)
  sub : Word := 0#64                      -- substitution register (R193)
  subPtr : Nat := 64                      -- its bit pointer; 64 is past bit 63
  calReady : Bool := false                -- the incoming path has an accepted calibration that waits for the swap (R327)
  calAt : List Nat := [0, 0]              -- elapsed ns of the last accepted calibration of path A and of path B
  swapAt : Nat := 0                       -- elapsed ns of the last swap
  swapNow : Bool := false                 -- calibrated in a run: it swaps without waiting for CMPPER (R334)
  rejects : List Nat := [0, 0]            -- consecutive rejections of path A and of path B (R328)
  lvlTrim : List Int := [0, 0, 0, 0]      -- level DAC trims, 2^-4 mV: VIH, VIL, VTERM, VCOM (R329)
  lvlMark : List Int := [0, 0, 0, 0]      -- the trims at the last CAL_APPLIED mark (R336)
  lvlAt : List Nat := [0, 0, 0, 0]        -- elapsed ns of the last trim step
  deriving DecidableEq, Repr

/-- A stamp on its way (R47) with what travels beside it (R50). -/
structure Stamp where
  g : Nat                -- global channel
  ch : Bool              -- COMP
  rising : Bool
  shed : Bool
  t : Nat                -- R48, 61-bit ft
  hold : Bool            -- taken in holdover
  unlk : Bool            -- taken with DLL_LOCK = 0
  ep : Nat := 0          -- coarse-count loads before it: the scale of its time (R108)
  tap : Nat := 0         -- the absolute tap it lies in, on the elapsed scale (R57, R59)
  deriving DecidableEq, Repr

/-- The stamp word of R47. -/
def Stamp.word (x : Stamp) : Word :=
  BitVec.ofNat 64 (x.t % ftMod * 8 + b2n x.shed * 4 + b2n x.ch * 2 + b2n x.rising)

/-- What the stamp bus carries: a stamp, or a crowded notice (R100). -/
inductive BusItem where
  | stamp (x : Stamp)
  | notice (x : Stamp)
  deriving DecidableEq, Repr

/-- The states of a vernier unit (R58). -/
inductive UState where
  | inService | inCal | failed
  deriving DecidableEq, Repr

/-- One vernier unit (R55, R56, R58, R324). `busy` is the edge it converts, `freeAt` the first absolute tap for which it
is free, `table` its 16 linearisation entries. -/
structure VUnit where
  st : UState := .inService
  busy : Option Stamp := none
  notices : List Stamp := []   -- crowded notices that stand behind its stamp (R100)
  tap : Nat := 0
  freeAt : Nat := 0
  backAt : Nat := 0            -- the first absolute tap for which it may be granted after its return (R60)
  outAt : Option Nat := none   -- the absolute tap in which it was withdrawn: an edge of that tap still takes it (R60)
  table : List Nat := [0, 1, 2, 3, 4, 5, 6, 7, 8, 9, 10, 11, 12, 13, 14, 15]
  rejects : Nat := 0
  calAt : Nat := 0             -- elapsed ns of its last accepted calibration (R335)
  calStart : Nat := 0          -- elapsed ns of its withdrawal
  inl : Nat := 0               -- corrected INL and DNL of its last accepted pass, 2^-4 ft (R323)
  dnl : Nat := 0
  deriving DecidableEq, Repr

/-- The echoes of one channel in a deskew pulse phase (R331): for each interpolator code 0 to 15 the skews of its rising
and of its falling fine echoes, in ft. -/
structure DeskewObs where
  rising : List (List Int)
  falling : List (List Int)
  deriving DecidableEq, Repr

/-- A triggered or host calibration run of a skein (R334): the items still to do, DLCELL 1, CMPPATH 2, THRDAC 4,
LVLDAC 8, the next channel of CMPPATH, and the level DACs done (bit 4c + j for DAC j of channel c). -/
structure CalRun where
  trig : Bool
  first : Bool             -- the run after power-up
  items : Nat
  ch : Nat
  lvl : Nat := 0
  deriving DecidableEq, Repr

/-- What a skein's time capture holds beside its registers. (DESIGN CHOICE, log 22.) -/
structure Skein where
  units : List VUnit := (List.range 52).map (fun u => if u = 12 ∨ u = 13 ∨ u = 14 ∨ u = 15 then { st := .inCal } else {})
  bus : List BusItem := []
  asm : List (Stamp × List Stamp) := []   -- stamps converted while an earlier edge of their comparator still converts (R57),
                                          -- with the crowded notices behind them
  dllBad : Nat := 0            -- consecutive updates above 8 ft (R53)
  dllGood : Nat := 0           -- consecutive updates of 4 ft or less
  dllErrs : List Int := []     -- phase errors of the last updates, newest first (DLLRES)
  dllNext : Nat := 0           -- elapsed ns of the next update
  lockSince : Nat := 0         -- elapsed ns at which DLL_LOCK last set or cleared (R325)
  trimAt : Nat := 0            -- elapsed ns of the last trim step, and the vector count at it (R326)
  trimVec : Nat := 0
  passAt : Nat := 0            -- elapsed ns of the last delay-line pass
  cmpNext : Nat := 0           -- the channel whose inactive path is calibrated next (R327)
  cmpAt : Nat := 0             -- elapsed ns of the last path calibration's end
  run : Option CalRun := none  -- the triggered or host run in progress (R334)
  heldTrig : Bool := false     -- a run that follows it
  heldHost : Nat := 0          -- the items of a host run that follows it
  trigAt : Option Nat := none  -- elapsed ns of the last triggered run's start
  firstDue : Bool := false     -- the run after power-up has yet to start (R340)
  cells : List Nat := List.replicate 32 8     -- each tap's cell in [5:4] and trim in [3:0] (R54, R326)
  cellTarget : List Nat := List.replicate 32 8
  calDone : Bool := false      -- holds CAL's values (R340, R396)
  divQ : List Nat := []        -- slots whose jobs wait for the divide unit (R134)
  divAt : Option Nat := none   -- elapsed ns of the last job start
  divBusy : List (Nat × Nat) := []   -- slots in the divide unit with the elapsed ns of their completion
  fabFree : Nat := 0           -- half ns at which FAB's copies into the skein have passed (R98)
  deriving DecidableEq, Repr

/-- An edge of a slot's source: stamp or crowded notice, in ft of the local scale. -/
structure Ev where
  t : Nat
  kind : EvKind
  rising : Bool
  late : Bool := false       -- a copy that came after its wait window: not used (R98)
  deriving DecidableEq, Repr

/-- An ARM stamp of a slot (R103): its time, comparator and slope, and the coarse-count loads before it. -/
structure Arm where
  t : Nat
  g : Nat
  ch : Bool
  rising : Bool
  ep : Nat
  deriving DecidableEq, Repr

/-- The running totals of one source over a gate (R109), with the extremes and counts other types use. -/
structure Sums where
  n : Nat := 0
  sn : Nat := 0
  sn2 : Nat := 0
  st : Nat := 0
  snt : Nat := 0
  st2 : Nat := 0
  deriving DecidableEq, Repr

/-- A closed gate that is finishing: its instants, its flags so far, the configuration it ran under. -/
structure Fin_ where
  o : Nat
  c : Nat
  gen : Nat                  -- the sources it ran under
  ep : Nat                   -- the coarse-count loads before its O
  armFrom : Nat              -- ARMED: the instant from which it took ARM stamps
  prev : Option Nat          -- C of the close before it (R105)
  readyAt : Nat              -- elapsed ns of C plus the wait window
  str : Bool
  epj : Bool
  scfg : Word
  gcfg : Word
  param : Word
  limMin : Word
  limMax : Word
  deriving DecidableEq, Repr

/-- A result computed for publication (R128). -/
structure Res where
  o : Nat
  c : Nat
  res : Word
  second : Nat
  n : Nat
  flags : Nat
  scfg : Word
  limMin : Word
  limMax : Word
  deriving DecidableEq, Repr

/-- A job with the divide unit (R134): its result, and the gate and edges that it is computed from. -/
structure Job where
  res : Res
  fin : Fin_
  evA : List Ev
  evB : List Ev
  deriving DecidableEq, Repr

/-- How a slot's configuration last applied (R98, R106): its cycle, whether no gate was open, and otherwise C, the instant
from which the slot goes on, whether a coarse-count load closed the gate, and the PROGRAM gates waiting behind it. -/
structure Applied where
  cyc : Nat
  now : Bool
  c : Nat
  next : Nat
  epj : Bool
  chain : Nat
  reopen : Bool
  deriving DecidableEq, Repr

/-- The edges of sources that a slot no longer takes, or of a scale that is over, for the gates that are finishing under
them (R106, R108): their SCFG and the number of coarse-count loads before. -/
structure OldSrc where
  gen : Nat
  scfg : Word
  ep : Nat
  evA : List Ev
  evB : List Ev
  deriving DecidableEq, Repr

/-- The last publication: its cycle, and RES, AUX and CNT as they were before it (R204). -/
structure PrevRes where
  at_ : Nat
  res : Word
  aux : Word
  cnt : Word
  deriving DecidableEq, Repr

/-- What a slot holds beside its registers (R102-R108, R202-R203). -/
structure Slot where
  cfgErr : Bool := false
  applied : Option Applied := none   -- how its configuration applied (R98)
  mset : Option (Nat × Nat) := none  -- the cycle of the last MSET and its register (R211)
  prev : Option PrevRes := none      -- the cycle of the last publication and what it replaced (R204)
  opn : Option Nat := none           -- O of the open gate
  deferC : Option Nat := none        -- a deferred close's C (R105)
  str : Bool := false                -- the open gate's close has been deferred
  chain : Nat := 0                   -- PROGRAM gates that open at the deferred C and at each other's, and close again (R202)
  reopen : Bool := false             -- a further one opens at the last of these instants, and counts as open
  armReady : Bool := false           -- ARMED: waits for its ARM stamp
  armFrom : Nat := 0                 -- ARMED: the instant from which it took ARM stamps
  spent : Bool := false              -- REARM = 0 and the one gate has run
  lastC : Option Nat := none         -- C of the previous close
  lastJob : Nat := 0                 -- elapsed ns at which the last job was handed over (R108)
  evA : List Ev := []                -- edges of SRCA in time order
  evB : List Ev := []
  gen : Nat := 0                     -- counts the source configurations and scales it has had
  olds : List OldSrc := []           -- those that a gate is finishing under (R106, R108)
  arms : List Arm := []              -- ARM stamps in time order, for the gates not yet computed (R103)
  armOld : Option Fin_ := none       -- ARMED: the gate that an ARM stamp from before the last coarse-count load would open
  fins : List Fin_ := []             -- closed gates that are finishing, oldest first
  jobs : List Job := []              -- what the divide unit has of it, oldest first
  rdy : Bool := false                -- R203
  entered : Nat := 0                 -- HIST: values entered since the last clear (R127)
  under : Nat := 0                   -- HIST: the out-of-range counts
  ovr : Nat := 0
  deriving DecidableEq, Repr

/-- A vector of R180. -/
structure Vec where
  eor : Bool
  ftrg : Bool
  nolatch : Bool
  tsi : Nat
  state : Word
  deriving DecidableEq, Repr

/-- The items of R184. -/
inductive Item where
  | vsub (mask : Nat) (lanes : List Word)
  | tset (i : Nat)
  | level (mask : Nat) (sets : List Nat)
  | failm (clr : Nat) (sel : Nat) (pa : Nat) (mode : Nat)
  | gate (mask : Word) (op : Nat)
  | mark (stream : Nat) (code : Nat) (payload : Word)
  | fire
  deriving DecidableEq, Repr

/-- What an issued vector brings to pins, gates and streams at its S (R185): the release of a restarted engine's channels
(R44), a LEVEL load, a GATE, a USER mark (R223). -/
inductive SAct where
  | release
  | level (mask : Nat) (sets : List Nat)
  | gate (mask : Word) (op : Nat)
  | mark (stream : Nat) (code : Nat) (payload : Word)
  deriving DecidableEq, Repr

/-- An entry of the vector queue (R184). -/
inductive VQE where
  | seg (v cnt : Nat) (at_ : Option Nat)
  | veci (w : Vec)
  | item (it : Item)
  deriving DecidableEq, Repr

/-- A FIFO position: the line and position that supply it, the vector once present, the AT time of its segment. -/
structure FEnt where
  line : Option Nat          -- the request number of the line it waits for
  pos : Nat
  vec : Option Vec
  bad : Bool
  at_ : Option Nat
  deriving DecidableEq, Repr

/-- A line request in flight (R186). -/
structure Line where
  req : Nat
  lineNo : Nat
  data : Option (List Byte)
  deriving DecidableEq, Repr

/-- What the instruction unit waits for. -/
inductive Wait where
  | none
  | waitt (until_ : Nat)                     -- immediate form: the cycle of the next issue
  | waittAt (coarse : Nat)                   -- register form
  | waite (dst mask : Nat) (issued : Nat) (deadline : Option Nat)
  | syncb (dst : Nat) (a : Word) (id : Nat) (and_ : Bool)
  | halt
  | match_ (dst sel : Nat) (upto : Nat)
  | mwait (dst : Nat) (mask : Word) (any : Bool) (deadline : Option Nat)
  | twait (dst d : Nat) (deadline : Option Nat) (got : Option Word)
  | line (pc : Nat)                          -- a cache miss (R152)
  deriving DecidableEq, Repr

/-- A loop of R162. -/
structure Loop where
  start : Nat
  stop : Nat
  cnt : Nat
  deriving DecidableEq, Repr

/-- A destination that is not ready yet (R159, R204): g register, l register, p register or the flags. -/
inductive Dst where
  | g (r : Nat) | l (r : Nat) | p (r : Nat) | flags
  deriving DecidableEq, Repr

/-- A record under way (R222): everything of it but its SEQ. `raw` counts the raw stamps, `dec` those decimated in
its span (R247); `wno` is the window of a RAW record (R239). -/
structure Rec where
  kind : Nat
  sub : Nat
  flags : Nat
  ref : Word
  payload : List Byte
  raw : Nat
  dec : Nat
  wno : Nat := 0
  deriving DecidableEq, Repr

/-- What an engine that has stopped with a fault held before, and the cycle: a cause of its own in that cycle still counts
(R285, R426). -/
structure EngWas where
  at_ : Nat
  st : Nat
  wait : Wait
  rpt : Option Nat
  run : Nat
  nextS : Option Nat
  draining : Bool
  deriving DecidableEq, Repr

/-- What an engine holds beside its registers. -/
structure Eng where
  nextAt : Nat := 0                 -- the cycle in which the next instruction may issue
  wait : Wait := .none
  arrived : Nat := 0                -- the cycle in which a SYNCB or HALT arrived
  calls : List Nat := []
  loops : List Loop := []
  rpt : Option Nat := none          -- repetitions still to run (R163)
  hitchEv : Bool := false           -- latched events (R165)
  signalEv : Bool := false
  busyDst : List (Dst × Nat) := []  -- destinations and the cycle from which they may be read
  site : List Nat := List.replicate 16 0     -- latched site-table entries (R145)
  cache : List (Nat × List Nat) := []        -- per set, its lines, the most recently used first (R152)
  code : Table Word := []                    -- the instructions in the buffer by PC; one not listed is zero (R150)
  seen : List Nat := []                      -- lines whose last four instructions have been executed once
  wanted : List Nat := []                    -- lines requested
  pinBase : Nat := 0
  loading : Bool := false           -- a PIN load is in progress
  timed : Option Nat := none        -- a timed start: the engine whose ESTART_AT counts
  late : Bool := false
  braid : Nat := 0                  -- the braid it runs in (0: none)
  draining : Bool := false          -- HALT has passed its barrier
  recQ : List (Nat × Rec) := []     -- the record queue of EMIT (R207)
  was : Option EngWas := none       -- before the last fault (R426)
  sigSet : Option (Nat × Nat) := none    -- a cycle and the EHOSTSIG bits that software set in it (R386)
  deriving DecidableEq, Repr

/-- The boundary a vector unit has last come to: its cycle, S, period, the vector's number from START, its timing set, and
the substitution registers, codes and corrections that its channels held before (R211). -/
structure Bound where
  at_ : Nat
  s : Nat
  p : Nat
  idx : Nat
  tsi : Nat
  subs : List (Word × Nat)
  tests : List Nat
  dsk : List (Int × Int)
  deriving DecidableEq, Repr

/-- What a vector unit holds beside its registers. -/
structure VU where
  vq : List VQE := []
  fifo : List FEnt := []
  items : List (Nat × Item) := []   -- attached items with the number of the vector behind them
  placed : Nat := 0                 -- vectors placed in the FIFO since START
  lines : List Line := []
  reqNo : Nat := 0
  perIdx : Nat := 0                 -- the active period index (R79)
  nextS : Option Nat := none        -- S of the next vector of the open run, elapsed ft
  lastE : Option Nat := none        -- E of the last vector issued, elapsed ft
  release : Bool := false           -- a restarted engine releases its channels at its first S (R176)
  atS : List (Nat × SAct) := []     -- what the vectors issued bring at their S, elapsed ft, oldest first (R185)
  bound : Option Bound := none      -- the last boundary (R211)
  deriving DecidableEq, Repr

/-- The firings of a cycle for a domain (R251): the cycle, their number, and the pulse and the latest firing before them. -/
structure Fires where
  cyc : Nat
  n : Nat
  pulse : Option Nat
  fired : Option (Nat × Word)
  deriving DecidableEq, Repr

/-- What a trigger domain holds beside its registers (R214-R220). -/
structure Dom where
  hostArm : Option Nat := none      -- the cycle of the last host arm request (R251)
  inForce : Nat := 0                -- A' of the arm in force, coarse count
  hoEnd : Option Nat := none        -- end of the hold-off, common-scale ft
  hoAt : Nat := 0                   -- the same, elapsed ft at this device's ball
  reqs : List Nat := []             -- the counts of the ARM instructions of the present cycle (R251)
  fired : Option (Nat × Word) := none   -- the latest firing since the domain entered ARMED
  pulse : Option Nat := none        -- this device pulls the line until this cycle
  fires : Option Fires := none      -- the last cycle with a firing (R251)
  deriving DecidableEq, Repr

/-- An open RAW record of a channel (R225, R227): its stamps in time order, the stamps decimated in its span, the level,
WIN and window it was opened under, and the REF of a timeout that has come. -/
structure RawOpen where
  c : Nat
  stamps : List Stamp
  decs : List Stamp
  level : Nat
  win : Nat
  wno : Nat
  cut : Option Nat
  deriving DecidableEq, Repr

/-- What the formatter takes a stamp under: the level, WIN, and the number of the window (R239, R243). -/
structure RawMode where
  level : Nat
  win : Nat
  wno : Nat
  deriving DecidableEq, Repr

/-- What an accepted trigger's mark holds beside its count (R231): SRC, ARG0, ARG2, REF and HOLDOVER. -/
structure TrigMark where
  src : Nat
  arg0 : Word
  arg2 : Word
  ref : Word
  hold : Bool
  deriving DecidableEq, Repr

/-- A change of level (R231, R244): SRC of its DECIMATION mark, REF and HOLDOVER. -/
structure DecMark where
  src : Nat
  ref : Word
  hold : Bool
  deriving DecidableEq, Repr

/-- An event that closes the open RAW records of a stream (R227) and waits until every stamp before its REF is final: its
REF, the coarse-count loads before it, the level, WIN and window in force before it, LAST, the change of level that it is,
behind which the stamp index starts anew (R243), or the trigger that it is (R239). -/
structure RawCut where
  ref : Nat
  ep : Nat
  level : Nat
  win : Nat
  wno : Nat
  last : Bool := false
  dec : Option DecMark := none
  trig : Option TrigMark := none
  deriving DecidableEq, Repr

/-- A committed record in the capture ring (R234). -/
structure RingRec where
  rec_ : Rec
  seq : Nat
  addr : Nat
  writes : Nat                      -- writes not yet completed
  sent : Bool                       -- handed to the transport
  deriving DecidableEq, Repr

/-- What a stream holds beside its registers. -/
structure Strm where
  buf : List Stamp := []            -- stamps taken and not yet in a record, in time order (R226)
  opens : List RawOpen := []
  cuts : List RawCut := []          -- closes that wait for stamps before their REF, in time order (R227)
  held : List Rec := []             -- pre-trigger records, oldest first (R239)
  queue : List Rec := []            -- records on their way to the commit, oldest first
  staging : List Rec := []          -- the 16-record staging queue (R246)
  ring : List RingRec := []
  wpos : Nat := 0                   -- write position, bytes since the first enable
  rpos : Nat := 0
  pend : Nat := 0                   -- the internal PENDING count (R248)
  idx : List Nat := List.replicate 16 0     -- stamps offered per channel since the last level change (R243)
  decSince : Nat := 0               -- stamps decimated since the last DECIMATION mark
  lastChg : Nat := 0                -- cycle of the last level change
  gapStart : Option Word := none    -- the stamp word of the gap's start
  gapEp : Nat := 0                  -- the coarse-count loads before it
  gapRaw : Nat := 0
  gapRes : Nat := 0
  gapMark : Nat := 0
  post : Option Nat := none         -- post-trigger records still to come
  winRaw : Nat := 0                 -- RAW records committed in the window
  wno : Nat := 0                    -- counts the windows (R239)
  enWait : Bool := false            -- EN = 1 waits for IDLE (R249)
  gapEnding : Bool := false         -- disabled in a gap: its GAP mark is owed
  frz : Option (Word × Nat × Bool) := none    -- a freeze whose FREEZE mark is owed: its instant, cause and holdover (R250)
  hostOld : Option Nat := none      -- the level before the host changed it while the stream was disabled (R244)
  deriving DecidableEq, Repr

end Sys2Proof.Machine
end

