-- ==== Sys2Proof/Config.lean ====
section
/-! DEFINITION. The free values: what the manual leaves open, as constants without a body, applied to the free counter
of the state, so that no proof can see them. -/

namespace Sys2Proof

/-- Whether an edge between 198 ps and 202 ps after the last stamped edge is crowded (R64 leaves the window's length
open between these bounds). (DESIGN CHOICE, log 7.) -/
opaque Config.blindChoice : Nat → Bool

/-- A byte whose contents the manual leaves open: lost HBM contents (R280, R285), staging SRAM (R395), the RO status
the manual gives no value for. (DESIGN CHOICE, log 6.) -/
opaque Config.freeByte : Nat → BitVec 8

/-- A word the manual leaves open. (DESIGN CHOICE, log 6.) -/
opaque Config.freeWord : Nat → BitVec 64

/-- A small number the manual leaves open. (DESIGN CHOICE, log 11.) -/
opaque Config.freeNat : Nat → Nat

/-- Whether a higher trim code of a delay-line cell lengthens its tap (R325 names the size of a step and not the sense
of the code). -/
opaque Config.trimLengthens : Bool

/-- Which of the sensors 32 to 35 is the core-corner sensor nearest to the IRO (R294 does not say).
(DESIGN CHOICE, log 14.) -/
opaque Config.iroCorner : Fin 4

/-- The latency in ns within which the stack reports a command/address parity error (R287 gives no figure).
(DESIGN CHOICE, log 138.) -/
opaque Config.parityLatency : Nat

/-- What the controller writes to an HBM mode register from a timing set's three words, and which registers hold latencies
(R280 and R410 name the writes and not the values). (DESIGN CHOICE, log 147.) -/
opaque Config.modeReg : BitVec 64 × BitVec 64 × BitVec 64 → Nat → BitVec 8
opaque Config.latencyReg : Nat → Bool

/-- A word of the staging SRAM by its address, from what the streams hold (R395 gives no layout).
(DESIGN CHOICE, log 10.) -/
opaque Config.sramWord : Machine.Table Machine.Strm → Nat → BitVec 32

/-- The boundary-scan cell that drives a FIRE line (R447 names the balls and not their cells). (DEDUCED, log 117.) -/
opaque Config.fireCell : Nat → Nat

/-- The top and the bottom of the swing at a channel's pin as the envelope detector measures them in a cycle, in 2^-16
R18 code (R32, R34). (DESIGN CHOICE, log 125.) -/
opaque Config.pinTop : Nat → Nat → Int
opaque Config.pinBot : Nat → Nat → Int

/-- The current of an active load within the band about VCOM in which it changes over (R35), in 6 uA.
(DESIGN CHOICE, log 124.) -/
opaque Config.loadBand : Int → Int

end Sys2Proof
end

