-- ==== Sys2Proof/Machine/Registers.lean ====
section
/-! DEFINITION. The register map of R391-R401: every register of every sub-block, with each field's place, class
and reset value as the register tables of the chapters state them (a field shown "—" or "strap" has 0 here; the strap
fields take theirs at POR_RELEASE). Offsets are those of the normal view, relative to the sub-block. -/

namespace Sys2Proof.Machine

/-- The classes of R3; `cmd` and `gcmd` are the command bits (auto-clearing) of classes LIVE and GUARDED LIVE (R366). -/
inductive Cls where
  | live | staged | glive | gstaged | once | ro | w1c | ctr | cmd | gcmd
  deriving DecidableEq, Repr

/-- One field of a register: bits [hi:lo], its class and its reset value. -/
structure FieldRow where
  hi : Nat
  lo : Nat
  cls : Cls
  reset : Nat
  deriving DecidableEq, Repr

/-- One register, or `count` registers `stride` bytes apart, of a sub-block. -/
structure RegRow where
  off : Nat
  stride : Nat
  count : Nat
  width : Nat
  fields : List FieldRow
  deriving DecidableEq, Repr

/-- A named field: the register's offset in its sub-block and the bits [hi:lo]. -/
structure Fld where
  off : Nat
  hi : Nat
  lo : Nat
  deriving DecidableEq, Repr

/-! ### CTL (R391 and R363-R390) -/

def F.Ctl.SEAL.KEYOFF : Fld := ⟨0x100, 0, 0⟩
def F.Ctl.BLKGRP.MEM : Fld := ⟨0x108, 6, 4⟩
def F.Ctl.BLKGRP.TB : Fld := ⟨0x108, 2, 0⟩
def F.Ctl.HITCH_FIRE : Fld := ⟨0x110, 7, 0⟩
def F.Ctl.HITCH_STAT.SUPERSEDED : Fld := ⟨0x118, 31, 24⟩
def F.Ctl.HITCH_STAT.SCHED : Fld := ⟨0x118, 15, 8⟩
def F.Ctl.HITCH_STAT.PEND : Fld := ⟨0x118, 7, 0⟩
def F.Ctl.ERR.VOTEERR : Fld := ⟨0x128, 4, 4⟩
def F.Ctl.ERR.CFGMIS : Fld := ⟨0x128, 3, 3⟩
def F.Ctl.ERR.PARTIAL : Fld := ⟨0x128, 2, 2⟩
def F.Ctl.ERR.LOCKVIOL : Fld := ⟨0x128, 1, 1⟩
def F.Ctl.ERR.OFFDOMAIN : Fld := ⟨0x128, 0, 0⟩
def F.Ctl.LVADDR.COUNT : Fld := ⟨0x130, 31, 24⟩
def F.Ctl.LVADDR.ONCE : Fld := ⟨0x130, 23, 23⟩
def F.Ctl.LVADDR.OFFSET : Fld := ⟨0x130, 22, 0⟩
def F.Ctl.CFGCTL.SLOTX : Fld := ⟨0x138, 0, 0⟩
def F.Ctl.HITCH_CNT : Fld := ⟨0x120, 63, 0⟩
def F.Ctl.CFG_EN : Fld := ⟨0x140, 39, 0⟩
def F.Ctl.CFG_STAT : Fld := ⟨0x148, 39, 0⟩
def F.Ctl.VOTE_CNT.PDEN : Fld := ⟨0x150, 63, 48⟩
def F.Ctl.VOTE_CNT.UNLOCK : Fld := ⟨0x150, 47, 32⟩
def F.Ctl.VOTE_CNT.BAND : Fld := ⟨0x150, 31, 16⟩
def F.Ctl.VOTE_CNT.THRESH : Fld := ⟨0x150, 15, 0⟩
def F.Ctl.CFG.CRC : Fld := ⟨0x400, 63, 32⟩
def F.Ctl.CFG.REF : Fld := ⟨0x400, 31, 0⟩
def F.Ctl.DEVID.FAMILY : Fld := ⟨0x0, 31, 24⟩
def F.Ctl.DEVID.DEVICE : Fld := ⟨0x0, 23, 12⟩
def F.Ctl.DEVID.STEPPING : Fld := ⟨0x0, 11, 0⟩
def F.Ctl.STRAP.ADDR_LOCK : Fld := ⟨0x8, 2, 2⟩
def F.Ctl.STRAP.REFSEL : Fld := ⟨0x8, 1, 1⟩
def F.Ctl.STRAP.HEAD : Fld := ⟨0x8, 0, 0⟩
def F.Ctl.READY.SKEIN : Fld := ⟨0x10, 63, 32⟩
def F.Ctl.READY.ALL : Fld := ⟨0x10, 7, 7⟩
def F.Ctl.READY.HIF : Fld := ⟨0x10, 6, 6⟩
def F.Ctl.READY.LNK : Fld := ⟨0x10, 5, 5⟩
def F.Ctl.READY.MEM : Fld := ⟨0x10, 4, 4⟩
def F.Ctl.READY.TRS : Fld := ⟨0x10, 3, 3⟩
def F.Ctl.READY.FAB : Fld := ⟨0x10, 2, 2⟩
def F.Ctl.READY.CAL : Fld := ⟨0x10, 1, 1⟩
def F.Ctl.READY.TB : Fld := ⟨0x10, 0, 0⟩
def F.Ctl.SCRATCH : Fld := ⟨0x18, 63, 0⟩
def F.Ctl.SRPAGE.PAGE : Fld := ⟨0x20, 7, 0⟩
def F.Ctl.IRQSTAT : Fld := ⟨0x40, 63, 0⟩
def F.Ctl.IRQEN : Fld := ⟨0x48, 63, 0⟩

def rowsCtl0 : List RegRow := [
  ⟨0x100, 0x8, 1, 32, [⟨0, 0, .once, 0x0⟩]⟩,
  ⟨0x108, 0x8, 1, 32, [⟨6, 4, .live, 0x0⟩, ⟨2, 0, .live, 0x0⟩]⟩,
  ⟨0x110, 0x8, 1, 32, [⟨7, 0, .cmd, 0x0⟩]⟩,
  ⟨0x118, 0x8, 1, 32, [⟨31, 24, .ro, 0x0⟩, ⟨15, 8, .ro, 0x0⟩, ⟨7, 0, .ro, 0x0⟩]⟩,
  ⟨0x128, 0x8, 1, 32, [⟨4, 4, .w1c, 0x0⟩, ⟨3, 3, .ro, 0x0⟩, ⟨2, 2, .w1c, 0x0⟩, ⟨1, 1, .w1c, 0x0⟩, ⟨0, 0, .w1c, 0x0⟩]⟩,
  ⟨0x130, 0x8, 1, 32, [⟨31, 24, .ro, 0x0⟩, ⟨23, 23, .ro, 0x0⟩, ⟨22, 0, .ro, 0x0⟩]⟩,
  ⟨0x138, 0x8, 1, 32, [⟨0, 0, .live, 0x0⟩]⟩,
  ⟨0x120, 0x8, 1, 64, [⟨63, 0, .ro, 0x0⟩]⟩,
  ⟨0x140, 0x8, 1, 64, [⟨39, 0, .live, 0x0⟩]⟩,
  ⟨0x148, 0x8, 1, 64, [⟨39, 0, .w1c, 0x0⟩]⟩,
  ⟨0x150, 0x8, 1, 64, [⟨63, 48, .ctr, 0x0⟩, ⟨47, 32, .ctr, 0x0⟩, ⟨31, 16, .ctr, 0x0⟩, ⟨15, 0, .ctr, 0x0⟩]⟩,
  ⟨0x400, 0x8, 40, 64, [⟨63, 32, .ro, 0x0⟩, ⟨31, 0, .live, 0x0⟩]⟩]

def rowsCtl1 : List RegRow := [
  ⟨0x0, 0x8, 1, 32, [⟨31, 24, .ro, 0x5b⟩, ⟨23, 12, .ro, 0x512⟩, ⟨11, 0, .ro, 0xa2⟩]⟩,
  ⟨0x8, 0x8, 1, 32, [⟨2, 2, .ro, 0x0⟩, ⟨1, 1, .ro, 0x0⟩, ⟨0, 0, .ro, 0x0⟩]⟩,
  ⟨0x10, 0x8, 1, 64, [⟨63, 32, .ro, 0x0⟩, ⟨7, 7, .ro, 0x0⟩, ⟨6, 6, .ro, 0x0⟩, ⟨5, 5, .ro, 0x0⟩, ⟨4, 4, .ro, 0x0⟩, ⟨3, 3, .ro, 0x0⟩, ⟨2, 2, .ro, 0x0⟩, ⟨1, 1, .ro, 0x0⟩, ⟨0, 0, .ro, 0x0⟩]⟩,
  ⟨0x18, 0x8, 1, 64, [⟨63, 0, .live, 0x0⟩]⟩,
  ⟨0x20, 0x8, 1, 32, [⟨7, 0, .live, 0x0⟩]⟩,
  ⟨0x40, 0x8, 1, 64, [⟨63, 0, .ro, 0x0⟩]⟩,
  ⟨0x48, 0x8, 1, 64, [⟨63, 0, .live, 0x0⟩]⟩]

/-- The registers of sub-block CTL. -/
def rowsCtl : List RegRow := rowsCtl0 ++ rowsCtl1

/-! ### TB (R290-R302) -/

def F.Tb.TBCTL.SPLICE : Fld := ⟨0x0, 2, 2⟩
def F.Tb.TBCTL.ALIGNCAN : Fld := ⟨0x0, 1, 1⟩
def F.Tb.TBCTL.ALIGN : Fld := ⟨0x0, 0, 0⟩
def F.Tb.TBCFG.SLEW : Fld := ⟨0x8, 15, 4⟩
def F.Tb.TBCFG.LEARN : Fld := ⟨0x8, 3, 3⟩
def F.Tb.TBCFG.REFSEL : Fld := ⟨0x8, 0, 0⟩
def F.Tb.TBSTAT.LOSCAUSE : Fld := ⟨0x10, 10, 8⟩
def F.Tb.TBSTAT.REFOK : Fld := ⟨0x10, 7, 7⟩
def F.Tb.TBSTAT.LOSS : Fld := ⟨0x10, 6, 6⟩
def F.Tb.TBSTAT.ALIGNPEND : Fld := ⟨0x10, 5, 5⟩
def F.Tb.TBSTAT.ALIGNED : Fld := ⟨0x10, 4, 4⟩
def F.Tb.TBSTAT.STATE : Fld := ⟨0x10, 2, 0⟩
def F.Tb.REFMEAS.COUNT : Fld := ⟨0x18, 49, 32⟩
def F.Tb.REFMEAS.FERR : Fld := ⟨0x18, 31, 0⟩
def F.Tb.HOLDINFO.COUNT : Fld := ⟨0x20, 63, 48⟩
def F.Tb.HOLDINFO.LAST : Fld := ⟨0x20, 47, 0⟩
def F.Tb.IROCOMP : Fld := ⟨0x28, 31, 0⟩
def F.Tb.TSCFG.TOL : Fld := ⟨0x50, 63, 56⟩
def F.Tb.TSCFG.AVG_LOG2 : Fld := ⟨0x50, 55, 52⟩
def F.Tb.TSCFG.TSPER : Fld := ⟨0x50, 51, 32⟩
def F.Tb.TSCFG.TRACK : Fld := ⟨0x50, 20, 20⟩
def F.Tb.TSCFG.TSDLY : Fld := ⟨0x50, 19, 0⟩
def F.Tb.SPLOFS : Fld := ⟨0x58, 31, 0⟩
def F.Tb.SPLSTAT.DEV : Fld := ⟨0x60, 63, 32⟩
def F.Tb.SPLSTAT.SPLSEQ : Fld := ⟨0x60, 31, 24⟩
def F.Tb.SPLSTAT.SLIP : Fld := ⟨0x60, 3, 3⟩
def F.Tb.SPLSTAT.SPLHOLD : Fld := ⟨0x60, 2, 2⟩
def F.Tb.SPLSTAT.RESULT : Fld := ⟨0x60, 1, 0⟩
def F.Tb.TSLAST : Fld := ⟨0x68, 63, 0⟩
def F.Tb.COARSE : Fld := ⟨0x30, 51, 0⟩
def F.Tb.EPLOAD : Fld := ⟨0x38, 51, 0⟩
def F.Tb.EPNEXT : Fld := ⟨0x40, 63, 0⟩
def F.Tb.EPNUM : Fld := ⟨0x48, 63, 0⟩

def rowsTb0 : List RegRow := [
  ⟨0x0, 0x8, 1, 32, [⟨2, 2, .cmd, 0x0⟩, ⟨1, 1, .cmd, 0x0⟩, ⟨0, 0, .cmd, 0x0⟩]⟩,
  ⟨0x8, 0x8, 1, 32, [⟨15, 4, .live, 0x14⟩, ⟨3, 3, .live, 0x1⟩, ⟨0, 0, .glive, 0x0⟩]⟩,
  ⟨0x10, 0x8, 1, 32, [⟨10, 8, .ro, 0x0⟩, ⟨7, 7, .ro, 0x0⟩, ⟨6, 6, .w1c, 0x0⟩, ⟨5, 5, .ro, 0x0⟩, ⟨4, 4, .ro, 0x0⟩, ⟨2, 0, .ro, 0x0⟩]⟩,
  ⟨0x18, 0x8, 1, 64, [⟨49, 32, .ro, 0x0⟩, ⟨31, 0, .ro, 0x0⟩]⟩,
  ⟨0x20, 0x8, 1, 64, [⟨63, 48, .ro, 0x0⟩, ⟨47, 0, .ro, 0x0⟩]⟩,
  ⟨0x28, 0x8, 1, 32, [⟨31, 0, .ro, 0x0⟩]⟩,
  ⟨0x50, 0x8, 1, 64, [⟨63, 56, .staged, 0x20⟩, ⟨55, 52, .staged, 0x4⟩, ⟨51, 32, .staged, 0x3e8⟩, ⟨20, 20, .staged, 0x0⟩, ⟨19, 0, .staged, 0x0⟩]⟩,
  ⟨0x58, 0x8, 1, 32, [⟨31, 0, .ro, 0x0⟩]⟩,
  ⟨0x60, 0x8, 1, 64, [⟨63, 32, .ro, 0x0⟩, ⟨31, 24, .ro, 0x0⟩, ⟨3, 3, .w1c, 0x0⟩, ⟨2, 2, .ro, 0x0⟩, ⟨1, 0, .ro, 0x0⟩]⟩,
  ⟨0x68, 0x8, 1, 64, [⟨63, 0, .ro, 0x0⟩]⟩,
  ⟨0x30, 0x8, 1, 64, [⟨51, 0, .ro, 0x0⟩]⟩,
  ⟨0x38, 0x8, 1, 64, [⟨51, 0, .live, 0x0⟩]⟩]

def rowsTb1 : List RegRow := [
  ⟨0x40, 0x8, 1, 64, [⟨63, 0, .live, 0x0⟩]⟩,
  ⟨0x48, 0x8, 1, 64, [⟨63, 0, .ro, 0x0⟩]⟩]

/-- The registers of sub-block TB. -/
def rowsTb : List RegRow := rowsTb0 ++ rowsTb1

/-! ### THM (R344-R362) -/

def F.Thm.THMCFG.MEMRATE : Fld := ⟨0x0, 0, 0⟩
def F.Thm.THMSTAT.TMAX : Fld := ⟨0x8, 31, 16⟩
def F.Thm.THMSTAT.PDERRDOM : Fld := ⟨0x8, 13, 7⟩
def F.Thm.THMSTAT.PDERR : Fld := ⟨0x8, 6, 6⟩
def F.Thm.THMSTAT.SENSFAIL : Fld := ⟨0x8, 5, 5⟩
def F.Thm.THMSTAT.FAST : Fld := ⟨0x8, 4, 4⟩
def F.Thm.THMSTAT.STATE : Fld := ⟨0x8, 1, 0⟩
def F.Thm.THRESH.SHUT : Fld := ⟨0x10, 23, 16⟩
def F.Thm.THRESH.THROT : Fld := ⟨0x10, 15, 8⟩
def F.Thm.THRESH.WARN : Fld := ⟨0x10, 7, 0⟩
def F.Thm.AVSCFG.VMAX : Fld := ⟨0x38, 41, 32⟩
def F.Thm.AVSCFG.VMIN : Fld := ⟨0x38, 25, 16⟩
def F.Thm.AVSCFG.MARGIN : Fld := ⟨0x38, 15, 8⟩
def F.Thm.AVSCFG.EN : Fld := ⟨0x38, 0, 0⟩
def F.Thm.AVSSTAT.IOUT : Fld := ⟨0x40, 63, 48⟩
def F.Thm.AVSSTAT.RTEMP : Fld := ⟨0x40, 47, 32⟩
def F.Thm.AVSSTAT.SLACK : Fld := ⟨0x40, 31, 16⟩
def F.Thm.AVSSTAT.ALARM : Fld := ⟨0x40, 15, 15⟩
def F.Thm.AVSSTAT.LIMIT : Fld := ⟨0x40, 14, 14⟩
def F.Thm.AVSSTAT.BUSERR : Fld := ⟨0x40, 13, 13⟩
def F.Thm.AVSSTAT.VOUT : Fld := ⟨0x40, 9, 0⟩
def F.Thm.THMCNT.SHUTDOWNS : Fld := ⟨0x48, 63, 48⟩
def F.Thm.THMCNT.THROTTLES : Fld := ⟨0x48, 47, 32⟩
def F.Thm.THMCNT.FASTTIME : Fld := ⟨0x48, 31, 0⟩
def F.Thm.PDEN : Fld := ⟨0x18, 63, 0⟩
def F.Thm.PDEN1 : Fld := ⟨0x20, 31, 0⟩
def F.Thm.PDSTAT : Fld := ⟨0x28, 63, 0⟩
def F.Thm.PDSTAT1 : Fld := ⟨0x30, 31, 0⟩
def F.Thm.TEMP.DWELL : Fld := ⟨0x100, 23, 20⟩
def F.Thm.TEMP.FAIL : Fld := ⟨0x100, 18, 18⟩
def F.Thm.TEMP.STATE : Fld := ⟨0x100, 17, 16⟩
def F.Thm.TEMP.T : Fld := ⟨0x100, 15, 0⟩

def rowsThm0 : List RegRow := [
  ⟨0x0, 0x8, 1, 32, [⟨0, 0, .live, 0x1⟩]⟩,
  ⟨0x8, 0x8, 1, 32, [⟨31, 16, .ro, 0x0⟩, ⟨13, 7, .ro, 0x0⟩, ⟨6, 6, .w1c, 0x0⟩, ⟨5, 5, .w1c, 0x0⟩, ⟨4, 4, .ro, 0x0⟩, ⟨1, 0, .ro, 0x0⟩]⟩,
  ⟨0x10, 0x8, 1, 32, [⟨23, 16, .glive, 0x78⟩, ⟨15, 8, .glive, 0x6e⟩, ⟨7, 0, .glive, 0x64⟩]⟩,
  ⟨0x38, 0x8, 1, 64, [⟨41, 32, .live, 0x352⟩, ⟨25, 16, .live, 0x28a⟩, ⟨15, 8, .live, 0xc⟩, ⟨0, 0, .live, 0x1⟩]⟩,
  ⟨0x40, 0x8, 1, 64, [⟨63, 48, .ro, 0x0⟩, ⟨47, 32, .ro, 0x0⟩, ⟨31, 16, .ro, 0x0⟩, ⟨15, 15, .w1c, 0x0⟩, ⟨14, 14, .w1c, 0x0⟩, ⟨13, 13, .w1c, 0x0⟩, ⟨9, 0, .ro, 0x0⟩]⟩,
  ⟨0x48, 0x8, 1, 64, [⟨63, 48, .ctr, 0x0⟩, ⟨47, 32, .ctr, 0x0⟩, ⟨31, 0, .ctr, 0x0⟩]⟩,
  ⟨0x18, 0x8, 1, 64, [⟨63, 0, .glive, 0xffffffffffffffff⟩]⟩,
  ⟨0x20, 0x8, 1, 32, [⟨31, 0, .glive, 0xffefffff⟩]⟩,
  ⟨0x28, 0x8, 1, 64, [⟨63, 0, .ro, 0x0⟩]⟩,
  ⟨0x30, 0x8, 1, 32, [⟨31, 0, .ro, 0x0⟩]⟩,
  ⟨0x100, 0x8, 40, 32, [⟨23, 20, .ro, 0x0⟩, ⟨18, 18, .ro, 0x0⟩, ⟨17, 16, .ro, 0x0⟩, ⟨15, 0, .ro, 0x0⟩]⟩]

/-- The registers of sub-block THM. -/
def rowsThm : List RegRow := rowsThm0

/-! ### CAL (R320-R343) -/

def F.Cal.CALCMD.ABORT : Fld := ⟨0x0, 3, 3⟩
def F.Cal.CALCMD.DESKEW : Fld := ⟨0x0, 2, 2⟩
def F.Cal.CALCMD.STORE : Fld := ⟨0x0, 1, 1⟩
def F.Cal.CALCMD.RUN : Fld := ⟨0x0, 0, 0⟩
def F.Cal.CCFG.CMPPER : Fld := ⟨0x8, 63, 48⟩
def F.Cal.CCFG.STOREMIN : Fld := ⟨0x8, 47, 32⟩
def F.Cal.CCFG.DT : Fld := ⟨0x8, 23, 16⟩
def F.Cal.CCFG.AUTOSTORE : Fld := ⟨0x8, 4, 4⟩
def F.Cal.CCFG.TEMP_EN : Fld := ⟨0x8, 3, 3⟩
def F.Cal.CCFG.LVL_EN : Fld := ⟨0x8, 2, 2⟩
def F.Cal.CCFG.CMP_EN : Fld := ⟨0x8, 1, 1⟩
def F.Cal.CCFG.DL_EN : Fld := ⟨0x8, 0, 0⟩
def F.Cal.CRUN.SKMASK : Fld := ⟨0x10, 63, 32⟩
def F.Cal.CRUN.ITEMS : Fld := ⟨0x10, 4, 0⟩
def F.Cal.CDSK.SK : Fld := ⟨0x18, 20, 16⟩
def F.Cal.CDSK.CHMASK : Fld := ⟨0x18, 15, 0⟩
def F.Cal.CLIMIT.DSK_MAX : Fld := ⟨0x20, 31, 16⟩
def F.Cal.CLIMIT.OFS_MAX : Fld := ⟨0x20, 7, 0⟩
def F.Cal.CSTAT.RECSEQ : Fld := ⟨0x28, 63, 32⟩
def F.Cal.CSTAT.PLLST : Fld := ⟨0x28, 23, 20⟩
def F.Cal.CSTAT.STORE : Fld := ⟨0x28, 15, 13⟩
def F.Cal.CSTAT.REC : Fld := ⟨0x28, 12, 11⟩
def F.Cal.CSTAT.MRWERR : Fld := ⟨0x28, 10, 10⟩
def F.Cal.CSTAT.STOREDROP : Fld := ⟨0x28, 9, 9⟩
def F.Cal.CSTAT.NOREC : Fld := ⟨0x28, 8, 8⟩
def F.Cal.CSTAT.BUSY : Fld := ⟨0x28, 1, 1⟩
def F.Cal.CSTAT.READY : Fld := ⟨0x28, 0, 0⟩
def F.Cal.CSTORE.DONE : Fld := ⟨0x30, 31, 16⟩
def F.Cal.CSTORE.TOTAL : Fld := ⟨0x30, 15, 0⟩
def F.Cal.MRPAGE.WEN : Fld := ⟨0x48, 31, 31⟩
def F.Cal.MRPAGE.PAGE : Fld := ⟨0x48, 5, 0⟩
def F.Cal.CREJECT : Fld := ⟨0x38, 47, 0⟩
def F.Cal.CDEFER : Fld := ⟨0x40, 47, 0⟩
def F.Cal.CSKSTAT.FIRSTPASS : Fld := ⟨0x100, 63, 63⟩
def F.Cal.CSKSTAT.TRIGS : Fld := ⟨0x100, 47, 32⟩
def F.Cal.CSKSTAT.DSK : Fld := ⟨0x100, 23, 20⟩
def F.Cal.CSKSTAT.LVL : Fld := ⟨0x100, 19, 16⟩
def F.Cal.CSKSTAT.THR : Fld := ⟨0x100, 15, 12⟩
def F.Cal.CSKSTAT.CMP : Fld := ⟨0x100, 11, 8⟩
def F.Cal.CSKSTAT.DL : Fld := ⟨0x100, 7, 4⟩
def F.Cal.CSKSTAT.VT : Fld := ⟨0x100, 3, 0⟩
def F.Cal.CSKQ.VTABAGE : Fld := ⟨0x200, 63, 48⟩
def F.Cal.CSKQ.VINL : Fld := ⟨0x200, 47, 40⟩
def F.Cal.CSKQ.VDNL : Fld := ⟨0x200, 39, 32⟩
def F.Cal.CSKQ.TAPERR : Fld := ⟨0x200, 31, 24⟩
def F.Cal.CSKQ.CMPRES : Fld := ⟨0x200, 23, 16⟩
def F.Cal.CSKQ.ECHORES : Fld := ⟨0x200, 15, 0⟩
def F.Cal.CSKTEMP.TCAL : Fld := ⟨0x300, 31, 16⟩
def F.Cal.CSKTEMP.TNOW : Fld := ⟨0x300, 15, 0⟩
def F.Cal.CCHQ.DSKST : Fld := ⟨0x1000, 63, 60⟩
def F.Cal.CCHQ.CALAGE : Fld := ⟨0x1000, 55, 48⟩
def F.Cal.CCHQ.FAILED : Fld := ⟨0x1000, 47, 44⟩
def F.Cal.CCHQ.PAIR : Fld := ⟨0x1000, 43, 32⟩
def F.Cal.CCHQ.RESOFS : Fld := ⟨0x1000, 31, 0⟩

def rowsCal0 : List RegRow := [
  ⟨0x0, 0x8, 1, 32, [⟨3, 3, .cmd, 0x0⟩, ⟨2, 2, .cmd, 0x0⟩, ⟨1, 1, .cmd, 0x0⟩, ⟨0, 0, .cmd, 0x0⟩]⟩,
  ⟨0x8, 0x8, 1, 64, [⟨63, 48, .live, 0x64⟩, ⟨47, 32, .live, 0x3c⟩, ⟨23, 16, .live, 0x1e⟩, ⟨4, 4, .live, 0x1⟩, ⟨3, 3, .live, 0x1⟩, ⟨2, 2, .live, 0x1⟩, ⟨1, 1, .live, 0x1⟩, ⟨0, 0, .live, 0x1⟩]⟩,
  ⟨0x10, 0x8, 1, 64, [⟨63, 32, .live, 0x0⟩, ⟨4, 0, .live, 0x0⟩]⟩,
  ⟨0x18, 0x8, 1, 32, [⟨20, 16, .live, 0x0⟩, ⟨15, 0, .live, 0x0⟩]⟩,
  ⟨0x20, 0x8, 1, 32, [⟨31, 16, .live, 0x400⟩, ⟨7, 0, .live, 0x14⟩]⟩,
  ⟨0x28, 0x8, 1, 64, [⟨63, 32, .ro, 0x0⟩, ⟨23, 20, .ro, 0x0⟩, ⟨15, 13, .ro, 0x0⟩, ⟨12, 11, .ro, 0x0⟩, ⟨10, 10, .w1c, 0x0⟩, ⟨9, 9, .w1c, 0x0⟩, ⟨8, 8, .ro, 0x0⟩, ⟨1, 1, .ro, 0x0⟩, ⟨0, 0, .ro, 0x0⟩]⟩,
  ⟨0x30, 0x8, 1, 32, [⟨31, 16, .ro, 0x0⟩, ⟨15, 0, .ro, 0x91⟩]⟩,
  ⟨0x48, 0x8, 1, 32, [⟨31, 31, .glive, 0x0⟩, ⟨5, 0, .live, 0x0⟩]⟩,
  ⟨0x38, 0x8, 1, 64, [⟨47, 0, .ctr, 0x0⟩]⟩,
  ⟨0x40, 0x8, 1, 64, [⟨47, 0, .ctr, 0x0⟩]⟩,
  ⟨0x100, 0x8, 32, 64, [⟨63, 63, .ro, 0x0⟩, ⟨47, 32, .ro, 0x0⟩, ⟨23, 20, .ro, 0x0⟩, ⟨19, 16, .ro, 0x0⟩, ⟨15, 12, .ro, 0x0⟩, ⟨11, 8, .ro, 0x0⟩, ⟨7, 4, .ro, 0x0⟩, ⟨3, 0, .ro, 0x0⟩]⟩,
  ⟨0x200, 0x8, 32, 64, [⟨63, 48, .ro, 0x0⟩, ⟨47, 40, .ro, 0x0⟩, ⟨39, 32, .ro, 0x0⟩, ⟨31, 24, .ro, 0x0⟩, ⟨23, 16, .ro, 0x0⟩, ⟨15, 0, .ro, 0x0⟩]⟩]

def rowsCal1 : List RegRow := [
  ⟨0x300, 0x8, 32, 32, [⟨31, 16, .ro, 0x0⟩, ⟨15, 0, .ro, 0x0⟩]⟩,
  ⟨0x1000, 0x8, 512, 64, [⟨63, 60, .ro, 0x0⟩, ⟨55, 48, .ro, 0x0⟩, ⟨47, 44, .ro, 0x0⟩, ⟨43, 32, .ro, 0x0⟩, ⟨31, 0, .ro, 0x0⟩]⟩]

/-- The registers of sub-block CAL. -/
def rowsCal : List RegRow := rowsCal0 ++ rowsCal1

/-! ### TRS (R213-R252) -/

def F.Trs.TSWFIRE : Fld := ⟨0x0, 15, 0⟩
def F.Trs.DCFG.LEAD : Fld := ⟨0x100, 63, 46⟩
def F.Trs.DCFG.HOLDOFF : Fld := ⟨0x100, 45, 16⟩
def F.Trs.DCFG.PULSE : Fld := ⟨0x100, 15, 8⟩
def F.Trs.DCFG.REARM : Fld := ⟨0x100, 2, 2⟩
def F.Trs.DCFG.MASTER : Fld := ⟨0x100, 1, 1⟩
def F.Trs.DCFG.EN : Fld := ⟨0x100, 0, 0⟩
def F.Trs.DLINE.LINEDLY : Fld := ⟨0x108, 19, 0⟩
def F.Trs.DCTL.DISARM : Fld := ⟨0x110, 1, 1⟩
def F.Trs.DCTL.ARM : Fld := ⟨0x110, 0, 0⟩
def F.Trs.DARM_AT : Fld := ⟨0x118, 51, 0⟩
def F.Trs.DSTAT.NOMASTER : Fld := ⟨0x120, 4, 4⟩
def F.Trs.DSTAT.LINE : Fld := ⟨0x120, 3, 3⟩
def F.Trs.DSTAT.ARMLATE : Fld := ⟨0x120, 2, 2⟩
def F.Trs.DSTAT.STATE : Fld := ⟨0x120, 1, 0⟩
def F.Trs.DLAST : Fld := ⟨0x128, 63, 0⟩
def F.Trs.DOBS : Fld := ⟨0x130, 47, 0⟩
def F.Trs.DACC : Fld := ⟨0x138, 47, 0⟩
def F.Trs.DIGN : Fld := ⟨0x140, 47, 0⟩
def F.Trs.DFIRES : Fld := ⟨0x148, 47, 0⟩
def F.Trs.TCOND.SEL : Fld := ⟨0x300, 63, 32⟩
def F.Trs.TCOND.COUNT : Fld := ⟨0x300, 31, 16⟩
def F.Trs.TCOND.DOM : Fld := ⟨0x300, 9, 8⟩
def F.Trs.TCOND.KIND : Fld := ⟨0x300, 3, 0⟩
def F.Trs.TCHIT : Fld := ⟨0x308, 47, 0⟩
def F.Trs.SCTL.HGRP : Fld := ⟨0x1000, 6, 4⟩
def F.Trs.SCTL.SNAP : Fld := ⟨0x1000, 2, 2⟩
def F.Trs.SCTL.CLR : Fld := ⟨0x1000, 1, 1⟩
def F.Trs.SCTL.EN : Fld := ⟨0x1000, 0, 0⟩
def F.Trs.S_SCFG.RTMO : Fld := ⟨0x1008, 51, 32⟩
def F.Trs.S_SCFG.SK : Fld := ⟨0x1008, 28, 24⟩
def F.Trs.S_SCFG.CHMASK : Fld := ⟨0x1008, 23, 8⟩
def F.Trs.S_SCFG.COMPMASK : Fld := ⟨0x1008, 7, 6⟩
def F.Trs.S_SCFG.DEVMARK : Fld := ⟨0x1008, 5, 5⟩
def F.Trs.S_SCFG.DOM : Fld := ⟨0x1008, 4, 2⟩
def F.Trs.S_SCFG.WINDOW : Fld := ⟨0x1008, 1, 1⟩
def F.Trs.S_SCFG.RAWEN : Fld := ⟨0x1008, 0, 0⟩
def F.Trs.SRING.SIZE_LOG2 : Fld := ⟨0x1010, 36, 32⟩
def F.Trs.SRING.BASE : Fld := ⟨0x1010, 26, 0⟩
def F.Trs.SWIN.POST : Fld := ⟨0x1018, 63, 24⟩
def F.Trs.SWIN.PRE : Fld := ⟨0x1018, 23, 0⟩
def F.Trs.SRATE.HCRED : Fld := ⟨0x1020, 58, 52⟩
def F.Trs.SRATE.DNHOLD : Fld := ⟨0x1020, 51, 32⟩
def F.Trs.SRATE.UPHOLD : Fld := ⟨0x1020, 31, 20⟩
def F.Trs.SRATE.LVL : Fld := ⟨0x1020, 18, 16⟩
def F.Trs.SRATE.AUTO : Fld := ⟨0x1020, 15, 15⟩
def F.Trs.SRATE.LW : Fld := ⟨0x1020, 14, 8⟩
def F.Trs.SRATE.HW : Fld := ⟨0x1020, 6, 0⟩
def F.Trs.SSTAT.SNAP_SEQ : Fld := ⟨0x1028, 31, 24⟩
def F.Trs.SSTAT.FILL : Fld := ⟨0x1028, 23, 17⟩
def F.Trs.SSTAT.HRERR : Fld := ⟨0x1028, 16, 16⟩
def F.Trs.SSTAT.WINOPEN : Fld := ⟨0x1028, 5, 5⟩
def F.Trs.SSTAT.IDLE : Fld := ⟨0x1028, 4, 4⟩
def F.Trs.SSTAT.GAP : Fld := ⟨0x1028, 3, 3⟩
def F.Trs.SSTAT.LEVEL : Fld := ⟨0x1028, 2, 0⟩
def F.Trs.SSEQ : Fld := ⟨0x1030, 31, 0⟩
def F.Trs.GENERATED : Fld := ⟨0x1038, 47, 0⟩
def F.Trs.DELIVERED : Fld := ⟨0x1040, 47, 0⟩
def F.Trs.DECIMATED : Fld := ⟨0x1048, 47, 0⟩
def F.Trs.GAPPED : Fld := ⟨0x1050, 47, 0⟩
def F.Trs.PENDING : Fld := ⟨0x1058, 47, 0⟩
def F.Trs.SNAP_GENERATED : Fld := ⟨0x1060, 47, 0⟩
def F.Trs.SNAP_DELIVERED : Fld := ⟨0x1068, 47, 0⟩
def F.Trs.SNAP_DECIMATED : Fld := ⟨0x1070, 47, 0⟩
def F.Trs.SNAP_GAPPED : Fld := ⟨0x1078, 47, 0⟩

def rowsTrs0 : List RegRow := [
  ⟨0x0, 0x8, 1, 32, [⟨15, 0, .cmd, 0x0⟩]⟩,
  ⟨0x100, 0x80, 4, 64, [⟨63, 46, .live, 0x14⟩, ⟨45, 16, .live, 0x7d0⟩, ⟨15, 8, .live, 0xa⟩, ⟨2, 2, .live, 0x1⟩, ⟨1, 1, .live, 0x0⟩, ⟨0, 0, .live, 0x0⟩]⟩,
  ⟨0x108, 0x80, 4, 32, [⟨19, 0, .live, 0x0⟩]⟩,
  ⟨0x110, 0x80, 4, 32, [⟨1, 1, .cmd, 0x0⟩, ⟨0, 0, .cmd, 0x0⟩]⟩,
  ⟨0x118, 0x80, 4, 64, [⟨51, 0, .live, 0x0⟩]⟩,
  ⟨0x120, 0x80, 4, 32, [⟨4, 4, .w1c, 0x0⟩, ⟨3, 3, .ro, 0x0⟩, ⟨2, 2, .w1c, 0x0⟩, ⟨1, 0, .ro, 0x0⟩]⟩,
  ⟨0x128, 0x80, 4, 64, [⟨63, 0, .ro, 0x0⟩]⟩,
  ⟨0x130, 0x80, 4, 64, [⟨47, 0, .ctr, 0x0⟩]⟩,
  ⟨0x138, 0x80, 4, 64, [⟨47, 0, .ctr, 0x0⟩]⟩,
  ⟨0x140, 0x80, 4, 64, [⟨47, 0, .ctr, 0x0⟩]⟩,
  ⟨0x148, 0x80, 4, 64, [⟨47, 0, .ctr, 0x0⟩]⟩,
  ⟨0x300, 0x10, 16, 64, [⟨63, 32, .staged, 0x0⟩, ⟨31, 16, .staged, 0x1⟩, ⟨9, 8, .staged, 0x0⟩, ⟨3, 0, .staged, 0x0⟩]⟩]

def rowsTrs1 : List RegRow := [
  ⟨0x308, 0x10, 16, 64, [⟨47, 0, .ctr, 0x0⟩]⟩,
  ⟨0x1000, 0x80, 64, 32, [⟨6, 4, .live, 0x0⟩, ⟨2, 2, .cmd, 0x0⟩, ⟨1, 1, .cmd, 0x0⟩, ⟨0, 0, .live, 0x0⟩]⟩,
  ⟨0x1008, 0x80, 64, 64, [⟨51, 32, .staged, 0xa⟩, ⟨28, 24, .staged, 0x0⟩, ⟨23, 8, .staged, 0x0⟩, ⟨7, 6, .staged, 0x3⟩, ⟨5, 5, .staged, 0x0⟩, ⟨4, 2, .staged, 0x4⟩, ⟨1, 1, .staged, 0x0⟩, ⟨0, 0, .staged, 0x0⟩]⟩,
  ⟨0x1010, 0x80, 64, 64, [⟨36, 32, .staged, 0x10⟩, ⟨26, 0, .staged, 0x0⟩]⟩,
  ⟨0x1018, 0x80, 64, 64, [⟨63, 24, .staged, 0x1⟩, ⟨23, 0, .staged, 0x0⟩]⟩,
  ⟨0x1020, 0x80, 64, 64, [⟨58, 52, .staged, 0x10⟩, ⟨51, 32, .staged, 0x3e8⟩, ⟨31, 20, .staged, 0x64⟩, ⟨18, 16, .staged, 0x0⟩, ⟨15, 15, .staged, 0x1⟩, ⟨14, 8, .staged, 0x40⟩, ⟨6, 0, .staged, 0x60⟩]⟩,
  ⟨0x1028, 0x80, 64, 32, [⟨31, 24, .ro, 0x0⟩, ⟨23, 17, .ro, 0x0⟩, ⟨16, 16, .w1c, 0x0⟩, ⟨5, 5, .ro, 0x0⟩, ⟨4, 4, .ro, 0x1⟩, ⟨3, 3, .ro, 0x0⟩, ⟨2, 0, .ro, 0x0⟩]⟩,
  ⟨0x1030, 0x80, 64, 32, [⟨31, 0, .ro, 0x0⟩]⟩,
  ⟨0x1038, 0x80, 64, 64, [⟨47, 0, .ctr, 0x0⟩]⟩,
  ⟨0x1040, 0x80, 64, 64, [⟨47, 0, .ctr, 0x0⟩]⟩,
  ⟨0x1048, 0x80, 64, 64, [⟨47, 0, .ctr, 0x0⟩]⟩,
  ⟨0x1050, 0x80, 64, 64, [⟨47, 0, .ctr, 0x0⟩]⟩]

def rowsTrs2 : List RegRow := [
  ⟨0x1058, 0x80, 64, 64, [⟨47, 0, .ro, 0x0⟩]⟩,
  ⟨0x1060, 0x80, 64, 64, [⟨47, 0, .ro, 0x0⟩]⟩,
  ⟨0x1068, 0x80, 64, 64, [⟨47, 0, .ro, 0x0⟩]⟩,
  ⟨0x1070, 0x80, 64, 64, [⟨47, 0, .ro, 0x0⟩]⟩,
  ⟨0x1078, 0x80, 64, 64, [⟨47, 0, .ro, 0x0⟩]⟩]

/-- The registers of sub-block TRS. -/
def rowsTrs : List RegRow := rowsTrs0 ++ rowsTrs1 ++ rowsTrs2

/-! ### MEM (R253-R289) -/

def F.Mem.MCTL.FORCEFRZ : Fld := ⟨0x0, 6, 6⟩
def F.Mem.MCTL.CNTCLR : Fld := ⟨0x0, 5, 5⟩
def F.Mem.MCTL.SNAP : Fld := ⟨0x0, 4, 4⟩
def F.Mem.MCTL.RDEN : Fld := ⟨0x0, 3, 3⟩
def F.Mem.MCTL.SCRUB_EN : Fld := ⟨0x0, 2, 2⟩
def F.Mem.MCTL.REFEN : Fld := ⟨0x0, 1, 1⟩
def F.Mem.MCTL.EN : Fld := ⟨0x0, 0, 0⟩
def F.Mem.MSTAT.SNAP_SEQ : Fld := ⟨0x8, 31, 24⟩
def F.Mem.MSTAT.FCAUSE : Fld := ⟨0x8, 23, 16⟩
def F.Mem.MSTAT.TSETERR : Fld := ⟨0x8, 15, 15⟩
def F.Mem.MSTAT.RELREFUSED : Fld := ⟨0x8, 14, 14⟩
def F.Mem.MSTAT.LOST : Fld := ⟨0x8, 13, 13⟩
def F.Mem.MSTAT.MAPERR : Fld := ⟨0x8, 12, 12⟩
def F.Mem.MSTAT.FHOLD : Fld := ⟨0x8, 11, 11⟩
def F.Mem.MSTAT.FPEND : Fld := ⟨0x8, 10, 10⟩
def F.Mem.MSTAT.TSET : Fld := ⟨0x8, 9, 9⟩
def F.Mem.MSTAT.FROZEN : Fld := ⟨0x8, 8, 8⟩
def F.Mem.MSTAT.RATE : Fld := ⟨0x8, 7, 6⟩
def F.Mem.MSTAT.BAND : Fld := ⟨0x8, 5, 4⟩
def F.Mem.MSTAT.PHYNOFAC : Fld := ⟨0x8, 3, 3⟩
def F.Mem.MFREQ.CANCEL : Fld := ⟨0x10, 1, 1⟩
def F.Mem.MFREQ.REQ : Fld := ⟨0x10, 0, 0⟩
def F.Mem.MFRZ.RELEASE : Fld := ⟨0x18, 0, 0⟩
def F.Mem.MRDCFG.SEED : Fld := ⟨0x20, 63, 32⟩
def F.Mem.MRDCFG.OVF : Fld := ⟨0x20, 31, 16⟩
def F.Mem.MRDCFG.TH : Fld := ⟨0x20, 15, 0⟩
def F.Mem.MSCRUB : Fld := ⟨0x28, 31, 0⟩
def F.Mem.MTRAIN.BUSY : Fld := ⟨0x280, 63, 63⟩
def F.Mem.MTRAIN.ADDR : Fld := ⟨0x280, 50, 24⟩
def F.Mem.MTRAIN.MRVAL : Fld := ⟨0x280, 23, 16⟩
def F.Mem.MTRAIN.MRN : Fld := ⟨0x280, 15, 8⟩
def F.Mem.MTRAIN.PC : Fld := ⟨0x280, 7, 3⟩
def F.Mem.MTRAIN.OP : Fld := ⟨0x280, 2, 0⟩
def F.Mem.MTRES.DONE : Fld := ⟨0x288, 63, 63⟩
def F.Mem.MTRES.FAIL : Fld := ⟨0x288, 35, 0⟩
def F.Mem.MAP : Fld := ⟨0x100, 33, 0⟩
def F.Mem.MTIM0.tFAW : Fld := ⟨0x200, 63, 56⟩
def F.Mem.MTIM0.tRRDL : Fld := ⟨0x200, 55, 48⟩
def F.Mem.MTIM0.tRRDS : Fld := ⟨0x200, 47, 40⟩
def F.Mem.MTIM0.tWR : Fld := ⟨0x200, 39, 32⟩
def F.Mem.MTIM0.tRC : Fld := ⟨0x200, 31, 24⟩
def F.Mem.MTIM0.tRAS : Fld := ⟨0x200, 23, 16⟩
def F.Mem.MTIM0.tRP : Fld := ⟨0x200, 15, 8⟩
def F.Mem.MTIM0.tRCD : Fld := ⟨0x200, 7, 0⟩
def F.Mem.MTIM1.tRFC : Fld := ⟨0x208, 63, 48⟩
def F.Mem.MTIM1.tRTW : Fld := ⟨0x208, 47, 40⟩
def F.Mem.MTIM1.tWTR : Fld := ⟨0x208, 39, 32⟩
def F.Mem.MTIM1.tCCDS : Fld := ⟨0x208, 31, 24⟩
def F.Mem.MTIM1.tCCDL : Fld := ⟨0x208, 23, 16⟩
def F.Mem.MTIM1.WL : Fld := ⟨0x208, 15, 8⟩
def F.Mem.MTIM1.RL : Fld := ⟨0x208, 7, 0⟩
def F.Mem.MTIM2.RATE : Fld := ⟨0x210, 33, 32⟩
def F.Mem.MTIM2.tXS : Fld := ⟨0x210, 31, 16⟩
def F.Mem.MTIM2.tREFI_N : Fld := ⟨0x210, 15, 0⟩
def F.Mem.TRAINBUF : Fld := ⟨0x300, 63, 0⟩
def F.Mem.TRAINECC : Fld := ⟨0x380, 63, 0⟩
def F.Mem.MPORT.URG : Fld := ⟨0x400, 39, 32⟩
def F.Mem.MPORT.OUT : Fld := ⟨0x400, 31, 16⟩
def F.Mem.MPORT.TARGET : Fld := ⟨0x400, 15, 0⟩
def F.Mem.ISSUED : Fld := ⟨0x1000, 47, 0⟩
def F.Mem.COMPLETED : Fld := ⟨0x1008, 47, 0⟩
def F.Mem.FROZEN : Fld := ⟨0x1010, 47, 0⟩
def F.Mem.LATE : Fld := ⟨0x1018, 47, 0⟩
def F.Mem.PCECC.VALID : Fld := ⟨0x2000, 63, 63⟩
def F.Mem.PCECC.COUNT : Fld := ⟨0x2000, 62, 48⟩
def F.Mem.PCECC.SYND : Fld := ⟨0x2000, 45, 38⟩
def F.Mem.PCECC.BIT : Fld := ⟨0x2000, 37, 31⟩
def F.Mem.PCECC.WORD : Fld := ⟨0x2000, 30, 27⟩
def F.Mem.PCECC.ADDR : Fld := ⟨0x2000, 26, 0⟩
def F.Mem.PCREF.URGENT : Fld := ⟨0x2008, 63, 32⟩
def F.Mem.PCREF.DEBT : Fld := ⟨0x2008, 31, 0⟩
def F.Mem.PCRD.OVFL : Fld := ⟨0x2010, 63, 63⟩
def F.Mem.PCRD.FALLBACK : Fld := ⟨0x2010, 62, 32⟩
def F.Mem.PCRD.TABLE : Fld := ⟨0x2010, 31, 0⟩
def F.Mem.PCRMW.RMW : Fld := ⟨0x2018, 47, 0⟩

def rowsMem0 : List RegRow := [
  ⟨0x0, 0x8, 1, 32, [⟨6, 6, .gcmd, 0x0⟩, ⟨5, 5, .cmd, 0x0⟩, ⟨4, 4, .cmd, 0x0⟩, ⟨3, 3, .live, 0x1⟩, ⟨2, 2, .live, 0x0⟩, ⟨1, 1, .glive, 0x0⟩, ⟨0, 0, .glive, 0x0⟩]⟩,
  ⟨0x8, 0x8, 1, 32, [⟨31, 24, .ro, 0x0⟩, ⟨23, 16, .ro, 0x0⟩, ⟨15, 15, .w1c, 0x0⟩, ⟨14, 14, .w1c, 0x0⟩, ⟨13, 13, .w1c, 0x0⟩, ⟨12, 12, .w1c, 0x0⟩, ⟨11, 11, .ro, 0x0⟩, ⟨10, 10, .ro, 0x0⟩, ⟨9, 9, .ro, 0x0⟩, ⟨8, 8, .ro, 0x0⟩, ⟨7, 6, .ro, 0x2⟩, ⟨5, 4, .ro, 0x0⟩, ⟨3, 3, .ro, 0x0⟩]⟩,
  ⟨0x10, 0x8, 1, 32, [⟨1, 1, .cmd, 0x0⟩, ⟨0, 0, .cmd, 0x0⟩]⟩,
  ⟨0x18, 0x8, 1, 32, [⟨0, 0, .gcmd, 0x0⟩]⟩,
  ⟨0x20, 0x8, 1, 64, [⟨63, 32, .live, 0x1⟩, ⟨31, 16, .live, 0x400⟩, ⟨15, 0, .live, 0x800⟩]⟩,
  ⟨0x28, 0x8, 1, 32, [⟨31, 0, .live, 0x2710⟩]⟩,
  ⟨0x280, 0x8, 1, 64, [⟨63, 63, .ro, 0x0⟩, ⟨50, 24, .live, 0x0⟩, ⟨23, 16, .live, 0x0⟩, ⟨15, 8, .live, 0x0⟩, ⟨7, 3, .live, 0x0⟩, ⟨2, 0, .cmd, 0x0⟩]⟩,
  ⟨0x288, 0x8, 1, 64, [⟨63, 63, .ro, 0x0⟩, ⟨35, 0, .ro, 0x0⟩]⟩,
  ⟨0x100, 0x8, 9, 64, [⟨33, 0, .gstaged, 0x0⟩]⟩,
  ⟨0x200, 0x40, 2, 64, [⟨63, 56, .live, 0x1a⟩, ⟨55, 48, .live, 0x5⟩, ⟨47, 40, .live, 0x4⟩, ⟨39, 32, .live, 0x1a⟩, ⟨31, 24, .live, 0x4c⟩, ⟨23, 16, .live, 0x35⟩, ⟨15, 8, .live, 0x17⟩, ⟨7, 0, .live, 0x17⟩]⟩,
  ⟨0x208, 0x40, 2, 64, [⟨63, 48, .live, 0x230⟩, ⟨47, 40, .live, 0x12⟩, ⟨39, 32, .live, 0xc⟩, ⟨31, 24, .live, 0x2⟩, ⟨23, 16, .live, 0x4⟩, ⟨15, 8, .live, 0xa⟩, ⟨7, 0, .live, 0x20⟩]⟩,
  ⟨0x210, 0x40, 2, 64, [⟨33, 32, .live, 0x2⟩, ⟨31, 16, .live, 0x250⟩, ⟨15, 0, .live, 0x1860⟩]⟩]

def rowsMem1 : List RegRow := [
  ⟨0x300, 0x8, 16, 64, [⟨63, 0, .live, 0x0⟩]⟩,
  ⟨0x380, 0x8, 2, 64, [⟨63, 0, .live, 0x0⟩]⟩,
  ⟨0x400, 0x8, 77, 64, [⟨39, 32, .ro, 0x0⟩, ⟨31, 16, .ro, 0x0⟩, ⟨15, 0, .live, 0x0⟩]⟩,
  ⟨0x1000, 0x20, 77, 64, [⟨47, 0, .ro, 0x0⟩]⟩,
  ⟨0x1008, 0x20, 77, 64, [⟨47, 0, .ro, 0x0⟩]⟩,
  ⟨0x1010, 0x20, 77, 64, [⟨47, 0, .ro, 0x0⟩]⟩,
  ⟨0x1018, 0x20, 77, 64, [⟨47, 0, .ro, 0x0⟩]⟩,
  ⟨0x2000, 0x40, 32, 64, [⟨63, 63, .ro, 0x0⟩, ⟨62, 48, .ro, 0x0⟩, ⟨45, 38, .ro, 0x0⟩, ⟨37, 31, .ro, 0x0⟩, ⟨30, 27, .ro, 0x0⟩, ⟨26, 0, .ro, 0x0⟩]⟩,
  ⟨0x2008, 0x40, 32, 64, [⟨63, 32, .ro, 0x0⟩, ⟨31, 0, .ro, 0x0⟩]⟩,
  ⟨0x2010, 0x40, 32, 64, [⟨63, 63, .ro, 0x0⟩, ⟨62, 32, .ro, 0x0⟩, ⟨31, 0, .ro, 0x0⟩]⟩,
  ⟨0x2018, 0x40, 32, 64, [⟨47, 0, .ro, 0x0⟩]⟩]

/-- The registers of sub-block MEM. -/
def rowsMem : List RegRow := rowsMem0 ++ rowsMem1

/-! ### LNK (R303-R319) -/

def F.Lnk.LCTL.SALIGN : Fld := ⟨0x0, 2, 2⟩
def F.Lnk.LCTL.SHITCH : Fld := ⟨0x0, 1, 1⟩
def F.Lnk.LCTL.REDISC : Fld := ⟨0x0, 0, 0⟩
def F.Lnk.LSTAT.DISCSEQ : Fld := ⟨0x8, 31, 24⟩
def F.Lnk.LSTAT.EPOCHDIFF : Fld := ⟨0x8, 23, 23⟩
def F.Lnk.LSTAT.NOPOS : Fld := ⟨0x8, 22, 22⟩
def F.Lnk.LSTAT.RLOST : Fld := ⟨0x8, 21, 21⟩
def F.Lnk.LSTAT.SCHEDLATE : Fld := ⟨0x8, 20, 20⟩
def F.Lnk.LSTAT.DISCERR : Fld := ⟨0x8, 19, 19⟩
def F.Lnk.LSTAT.NMISMATCH : Fld := ⟨0x8, 18, 18⟩
def F.Lnk.LSTAT.HEADCONFLICT : Fld := ⟨0x8, 17, 17⟩
def F.Lnk.LSTAT.NOHEAD : Fld := ⟨0x8, 16, 16⟩
def F.Lnk.LSTAT.READY : Fld := ⟨0x8, 15, 15⟩
def F.Lnk.LSTAT.MODE : Fld := ⟨0x8, 14, 13⟩
def F.Lnk.LSTAT.N : Fld := ⟨0x8, 12, 6⟩
def F.Lnk.LSTAT.POS : Fld := ⟨0x8, 5, 0⟩
def F.Lnk.DISCFG.EXPECT : Fld := ⟨0x10, 6, 0⟩
def F.Lnk.SHITCH.MASK : Fld := ⟨0x18, 63, 56⟩
def F.Lnk.SHITCH.AT : Fld := ⟨0x18, 51, 0⟩
def F.Lnk.SCHEDQ.PEAK : Fld := ⟨0x20, 13, 8⟩
def F.Lnk.SCHEDQ.DEPTH : Fld := ⟨0x20, 5, 0⟩
def F.Lnk.PSTAT.DOWNS : Fld := ⟨0x40, 31, 24⟩
def F.Lnk.PSTAT.BROKEN : Fld := ⟨0x40, 17, 17⟩
def F.Lnk.PSTAT.TRAINING : Fld := ⟨0x40, 16, 16⟩
def F.Lnk.PSTAT.LANELOCK : Fld := ⟨0x40, 15, 8⟩
def F.Lnk.PSTAT.UP : Fld := ⟨0x40, 0, 0⟩
def F.Lnk.PEQ.DFE1 : Fld := ⟨0x48, 47, 40⟩
def F.Lnk.PEQ.CTLE : Fld := ⟨0x48, 39, 32⟩
def F.Lnk.PEQ.POST : Fld := ⟨0x48, 21, 16⟩
def F.Lnk.PEQ.MAIN : Fld := ⟨0x48, 13, 8⟩
def F.Lnk.PEQ.PRE : Fld := ⟨0x48, 5, 0⟩
def F.Lnk.PRETRY : Fld := ⟨0x50, 47, 0⟩
def F.Lnk.PDROP : Fld := ⟨0x58, 47, 0⟩
def F.Lnk.PCRED.INIT : Fld := ⟨0x60, 63, 48⟩
def F.Lnk.PCRED.AVAIL : Fld := ⟨0x60, 47, 32⟩
def F.Lnk.PCRED.OUT : Fld := ⟨0x60, 31, 16⟩
def F.Lnk.PCRED.RXUSED : Fld := ⟨0x60, 15, 0⟩
def F.Lnk.PCREDB.INIT : Fld := ⟨0xa0, 63, 48⟩
def F.Lnk.PCREDB.AVAIL : Fld := ⟨0xa0, 47, 32⟩
def F.Lnk.PCREDB.OUT : Fld := ⟨0xa0, 31, 16⟩
def F.Lnk.PCREDB.RXUSED : Fld := ⟨0xa0, 15, 0⟩

def rowsLnk0 : List RegRow := [
  ⟨0x0, 0x8, 1, 32, [⟨2, 2, .cmd, 0x0⟩, ⟨1, 1, .cmd, 0x0⟩, ⟨0, 0, .cmd, 0x0⟩]⟩,
  ⟨0x8, 0x8, 1, 64, [⟨31, 24, .ro, 0x0⟩, ⟨23, 23, .w1c, 0x0⟩, ⟨22, 22, .w1c, 0x0⟩, ⟨21, 21, .w1c, 0x0⟩, ⟨20, 20, .w1c, 0x0⟩, ⟨19, 19, .w1c, 0x0⟩, ⟨18, 18, .w1c, 0x0⟩, ⟨17, 17, .ro, 0x0⟩, ⟨16, 16, .ro, 0x0⟩, ⟨15, 15, .ro, 0x0⟩, ⟨14, 13, .ro, 0x0⟩, ⟨12, 6, .ro, 0x0⟩, ⟨5, 0, .ro, 0x0⟩]⟩,
  ⟨0x10, 0x8, 1, 32, [⟨6, 0, .live, 0x0⟩]⟩,
  ⟨0x18, 0x8, 1, 64, [⟨63, 56, .live, 0x0⟩, ⟨51, 0, .live, 0x0⟩]⟩,
  ⟨0x20, 0x8, 1, 32, [⟨13, 8, .ro, 0x0⟩, ⟨5, 0, .ro, 0x0⟩]⟩,
  ⟨0x40, 0x40, 2, 32, [⟨31, 24, .ro, 0x0⟩, ⟨17, 17, .ro, 0x0⟩, ⟨16, 16, .ro, 0x1⟩, ⟨15, 8, .ro, 0x0⟩, ⟨0, 0, .ro, 0x0⟩]⟩,
  ⟨0x48, 0x40, 2, 64, [⟨47, 40, .ro, 0x0⟩, ⟨39, 32, .ro, 0x0⟩, ⟨21, 16, .live, 0x8⟩, ⟨13, 8, .live, 0x30⟩, ⟨5, 0, .live, 0x4⟩]⟩,
  ⟨0x50, 0x40, 2, 64, [⟨47, 0, .ctr, 0x0⟩]⟩,
  ⟨0x58, 0x40, 2, 64, [⟨47, 0, .ctr, 0x0⟩]⟩,
  ⟨0x60, 0x8, 4, 64, [⟨63, 48, .ro, 0x0⟩, ⟨47, 32, .ro, 0x0⟩, ⟨31, 16, .ro, 0x0⟩, ⟨15, 0, .ro, 0x0⟩]⟩,
  ⟨0xa0, 0x8, 4, 64, [⟨63, 48, .ro, 0x0⟩, ⟨47, 32, .ro, 0x0⟩, ⟨31, 16, .ro, 0x0⟩, ⟨15, 0, .ro, 0x0⟩]⟩]

/-- The registers of sub-block LNK. -/
def rowsLnk : List RegRow := rowsLnk0

/-! ### HIF (R397-R401) -/

def F.Hif.HIFSTAT.BME : Fld := ⟨0x0, 17, 17⟩
def F.Hif.HIFSTAT.LINKUP : Fld := ⟨0x0, 16, 16⟩
def F.Hif.HIFSTAT.MRRS : Fld := ⟨0x0, 15, 13⟩
def F.Hif.HIFSTAT.MPS : Fld := ⟨0x0, 12, 10⟩
def F.Hif.HIFSTAT.WIDTH : Fld := ⟨0x0, 9, 4⟩
def F.Hif.HIFSTAT.SPEED : Fld := ⟨0x0, 3, 0⟩
def F.Hif.HIFERR.DMAERR : Fld := ⟨0x8, 2, 2⟩
def F.Hif.HIFERR.UR : Fld := ⟨0x8, 1, 1⟩
def F.Hif.HIFERR.POISON : Fld := ⟨0x8, 0, 0⟩
def F.Hif.HIFCTL.DMAEN : Fld := ⟨0x10, 0, 0⟩
def F.Hif.DMACTL.VEC : Fld := ⟨0x100, 13, 8⟩
def F.Hif.DMACTL.ABORT : Fld := ⟨0x100, 3, 3⟩
def F.Hif.DMACTL.IRQ : Fld := ⟨0x100, 2, 2⟩
def F.Hif.DMACTL.DIR : Fld := ⟨0x100, 1, 1⟩
def F.Hif.DMACTL.GO : Fld := ⟨0x100, 0, 0⟩
def F.Hif.DMASTAT.SEQ : Fld := ⟨0x108, 15, 8⟩
def F.Hif.DMASTAT.CODE : Fld := ⟨0x108, 3, 1⟩
def F.Hif.DMASTAT.BUSY : Fld := ⟨0x108, 0, 0⟩
def F.Hif.DMAHOST : Fld := ⟨0x110, 63, 2⟩
def F.Hif.DMAMEM : Fld := ⟨0x118, 33, 2⟩
def F.Hif.DMALEN.LEN : Fld := ⟨0x120, 31, 2⟩
def F.Hif.IRQVEC.EN_0 : Fld := ⟨0x300, 7, 7⟩
def F.Hif.IRQVEC.EN_1 : Fld := ⟨0x300, 15, 15⟩
def F.Hif.IRQVEC.EN_2 : Fld := ⟨0x300, 23, 23⟩
def F.Hif.IRQVEC.EN_3 : Fld := ⟨0x300, 31, 31⟩
def F.Hif.IRQVEC.EN_4 : Fld := ⟨0x300, 39, 39⟩
def F.Hif.IRQVEC.EN_5 : Fld := ⟨0x300, 47, 47⟩
def F.Hif.IRQVEC.EN_6 : Fld := ⟨0x300, 55, 55⟩
def F.Hif.IRQVEC.EN_7 : Fld := ⟨0x300, 63, 63⟩
def F.Hif.IRQVEC.VEC_0 : Fld := ⟨0x300, 5, 0⟩
def F.Hif.IRQVEC.VEC_1 : Fld := ⟨0x300, 13, 8⟩
def F.Hif.IRQVEC.VEC_2 : Fld := ⟨0x300, 21, 16⟩
def F.Hif.IRQVEC.VEC_3 : Fld := ⟨0x300, 29, 24⟩
def F.Hif.IRQVEC.VEC_4 : Fld := ⟨0x300, 37, 32⟩
def F.Hif.IRQVEC.VEC_5 : Fld := ⟨0x300, 45, 40⟩
def F.Hif.IRQVEC.VEC_6 : Fld := ⟨0x300, 53, 48⟩
def F.Hif.IRQVEC.VEC_7 : Fld := ⟨0x300, 61, 56⟩
def F.Hif.IRQPOS : Fld := ⟨0x380, 63, 0⟩
def F.Hif.IRQPEND : Fld := ⟨0x400, 63, 0⟩
def F.Hif.MSIX_ADDR : Fld := ⟨0x2000, 63, 0⟩
def F.Hif.MSIX_DATA.DATA : Fld := ⟨0x2008, 31, 0⟩
def F.Hif.MSIX_DATA.MASK : Fld := ⟨0x2008, 32, 32⟩
def F.Hif.MSIX_PBA : Fld := ⟨0x3000, 63, 0⟩

def rowsHif0 : List RegRow := [
  ⟨0x0, 0x8, 1, 32, [⟨17, 17, .ro, 0x0⟩, ⟨16, 16, .ro, 0x0⟩, ⟨15, 13, .ro, 0x2⟩, ⟨12, 10, .ro, 0x0⟩, ⟨9, 4, .ro, 0x0⟩, ⟨3, 0, .ro, 0x0⟩]⟩,
  ⟨0x8, 0x8, 1, 32, [⟨2, 2, .w1c, 0x0⟩, ⟨1, 1, .w1c, 0x0⟩, ⟨0, 0, .w1c, 0x0⟩]⟩,
  ⟨0x10, 0x8, 1, 32, [⟨0, 0, .glive, 0x1⟩]⟩,
  ⟨0x100, 0x40, 8, 32, [⟨13, 8, .live, 0x0⟩, ⟨3, 3, .cmd, 0x0⟩, ⟨2, 2, .live, 0x0⟩, ⟨1, 1, .live, 0x0⟩, ⟨0, 0, .cmd, 0x0⟩]⟩,
  ⟨0x108, 0x40, 8, 32, [⟨15, 8, .ro, 0x0⟩, ⟨3, 1, .ro, 0x0⟩, ⟨0, 0, .ro, 0x0⟩]⟩,
  ⟨0x110, 0x40, 8, 64, [⟨63, 2, .live, 0x0⟩]⟩,
  ⟨0x118, 0x40, 8, 64, [⟨33, 2, .live, 0x0⟩]⟩,
  ⟨0x120, 0x40, 8, 32, [⟨31, 2, .live, 0x0⟩]⟩,
  ⟨0x300, 0x8, 8, 64, [⟨7, 7, .live, 0x0⟩, ⟨15, 15, .live, 0x0⟩, ⟨23, 23, .live, 0x0⟩, ⟨31, 31, .live, 0x0⟩, ⟨39, 39, .live, 0x0⟩, ⟨47, 47, .live, 0x0⟩, ⟨55, 55, .live, 0x0⟩, ⟨63, 63, .live, 0x0⟩, ⟨5, 0, .live, 0x0⟩, ⟨13, 8, .live, 0x0⟩, ⟨21, 16, .live, 0x0⟩, ⟨29, 24, .live, 0x0⟩, ⟨37, 32, .live, 0x0⟩, ⟨45, 40, .live, 0x0⟩, ⟨53, 48, .live, 0x0⟩, ⟨61, 56, .live, 0x0⟩]⟩,
  ⟨0x380, 0x8, 1, 64, [⟨63, 0, .ro, 0x0⟩]⟩,
  ⟨0x400, 0x8, 64, 64, [⟨63, 0, .w1c, 0x0⟩]⟩,
  ⟨0x2000, 0x10, 64, 64, [⟨63, 0, .live, 0x0⟩]⟩]

def rowsHif1 : List RegRow := [
  ⟨0x2008, 0x10, 64, 64, [⟨31, 0, .live, 0x0⟩, ⟨32, 32, .live, 0x1⟩]⟩,
  ⟨0x3000, 0x8, 1, 64, [⟨63, 0, .ro, 0x0⟩]⟩]

/-- The registers of sub-block HIF. -/
def rowsHif : List RegRow := rowsHif0 ++ rowsHif1

/-! ### SK[k].CH[c] (R18-R95) -/

def F.Ch.PECFG.SETTLE : Fld := ⟨0x0, 31, 16⟩
def F.Ch.PECFG.SAFE_RELEASE : Fld := ⟨0x0, 9, 9⟩
def F.Ch.PECFG.CH_EN : Fld := ⟨0x0, 8, 8⟩
def F.Ch.PECFG.SETTLE_MASK : Fld := ⟨0x0, 7, 7⟩
def F.Ch.PECFG.LOADEN : Fld := ⟨0x0, 6, 6⟩
def F.Ch.PECFG.SAFE : Fld := ⟨0x0, 5, 4⟩
def F.Ch.PECFG.LVL_SEL : Fld := ⟨0x0, 2, 0⟩
def F.Ch.CMPCFG.TRK_FRAC_CL : Fld := ⟨0x8, 47, 32⟩
def F.Ch.CMPCFG.TRK_FRAC_CH : Fld := ⟨0x8, 31, 16⟩
def F.Ch.CMPCFG.TRK_BW : Fld := ⟨0x8, 8, 6⟩
def F.Ch.CMPCFG.TRK_CL : Fld := ⟨0x8, 5, 5⟩
def F.Ch.CMPCFG.TRK_CH : Fld := ⟨0x8, 4, 4⟩
def F.Ch.CMPCFG.SLOPE_CL : Fld := ⟨0x8, 3, 2⟩
def F.Ch.CMPCFG.SLOPE_CH : Fld := ⟨0x8, 1, 0⟩
def F.Ch.PESTAT.LVL_ACTIVE : Fld := ⟨0x10, 10, 8⟩
def F.Ch.PESTAT.PMU_BUSY : Fld := ⟨0x10, 7, 7⟩
def F.Ch.PESTAT.PMU_CLAMP : Fld := ⟨0x10, 6, 6⟩
def F.Ch.PESTAT.ILIMIT : Fld := ⟨0x10, 5, 5⟩
def F.Ch.PESTAT.TRK_LOWSWING_CL : Fld := ⟨0x10, 4, 4⟩
def F.Ch.PESTAT.TRK_LOWSWING_CH : Fld := ⟨0x10, 3, 3⟩
def F.Ch.PESTAT.SETTLING : Fld := ⟨0x10, 2, 2⟩
def F.Ch.PESTAT.SAFE : Fld := ⟨0x10, 1, 1⟩
def F.Ch.PESTAT.ACTIVE_PATH : Fld := ⟨0x10, 0, 0⟩
def F.Ch.THR_NOW.VCL_NOW : Fld := ⟨0x18, 31, 16⟩
def F.Ch.THR_NOW.VCH_NOW : Fld := ⟨0x18, 15, 0⟩
def F.Ch.PMUCTL.FORCE : Fld := ⟨0x20, 31, 16⟩
def F.Ch.PMUCTL.AVG_LOG2 : Fld := ⟨0x20, 9, 6⟩
def F.Ch.PMUCTL.START : Fld := ⟨0x20, 5, 5⟩
def F.Ch.PMUCTL.IRANGE : Fld := ⟨0x20, 4, 2⟩
def F.Ch.PMUCTL.MODE : Fld := ⟨0x20, 1, 0⟩
def F.Ch.PMUCLAMP.CLAMP_HI : Fld := ⟨0x28, 31, 16⟩
def F.Ch.PMUCLAMP.CLAMP_LO : Fld := ⟨0x28, 15, 0⟩
def F.Ch.PMURES.OVERRANGE : Fld := ⟨0x30, 42, 42⟩
def F.Ch.PMURES.OFFDOMAIN : Fld := ⟨0x30, 41, 41⟩
def F.Ch.PMURES.CLAMPED : Fld := ⟨0x30, 40, 40⟩
def F.Ch.PMURES.SEQ : Fld := ⟨0x30, 39, 32⟩
def F.Ch.PMURES.RESULT : Fld := ⟨0x30, 31, 0⟩
def F.Ch.SETTLE_MASKED : Fld := ⟨0x38, 31, 0⟩
def F.Ch.EDGES_CH : Fld := ⟨0x40, 47, 0⟩
def F.Ch.FINE_CH : Fld := ⟨0x48, 47, 0⟩
def F.Ch.SHED_CH : Fld := ⟨0x50, 47, 0⟩
def F.Ch.CROWDED_CH : Fld := ⟨0x58, 47, 0⟩
def F.Ch.EDGES_CL : Fld := ⟨0x60, 47, 0⟩
def F.Ch.FINE_CL : Fld := ⟨0x68, 47, 0⟩
def F.Ch.SHED_CL : Fld := ⟨0x70, 47, 0⟩
def F.Ch.CROWDED_CL : Fld := ⟨0x78, 47, 0⟩
def F.Ch.SNAP_EDGES_CH : Fld := ⟨0x80, 47, 0⟩
def F.Ch.SNAP_FINE_CH : Fld := ⟨0x88, 47, 0⟩
def F.Ch.SNAP_SHED_CH : Fld := ⟨0x90, 47, 0⟩
def F.Ch.SNAP_CROWDED_CH : Fld := ⟨0x98, 47, 0⟩
def F.Ch.SNAP_EDGES_CL : Fld := ⟨0xa0, 47, 0⟩
def F.Ch.SNAP_FINE_CL : Fld := ⟨0xa8, 47, 0⟩
def F.Ch.SNAP_SHED_CL : Fld := ⟨0xb0, 47, 0⟩
def F.Ch.SNAP_CROWDED_CL : Fld := ⟨0xb8, 47, 0⟩
def F.Ch.CAPTRIM.TRIM_CL : Fld := ⟨0xc0, 31, 16⟩
def F.Ch.CAPTRIM.TRIM_CH : Fld := ⟨0xc0, 15, 0⟩
def F.Ch.EPCFG.ECHO_OFS : Fld := ⟨0xc8, 31, 16⟩
def F.Ch.EPCFG.DSK_SLEW : Fld := ⟨0xc8, 11, 8⟩
def F.Ch.EPCFG.ECHO_COMP : Fld := ⟨0xc8, 4, 4⟩
def F.Ch.EPCFG.TRK_EN : Fld := ⟨0xc8, 3, 3⟩
def F.Ch.DSKEW.DSK_F : Fld := ⟨0xd0, 31, 16⟩
def F.Ch.DSKEW.DSK_R : Fld := ⟨0xd0, 15, 0⟩
def F.Ch.ECHORES.RESID_F : Fld := ⟨0xd8, 31, 16⟩
def F.Ch.ECHORES.RESID_R : Fld := ⟨0xd8, 15, 0⟩
def F.Ch.ECHO_CNT : Fld := ⟨0xe0, 47, 0⟩
def F.Ch.ECHO_MISS : Fld := ⟨0xe8, 47, 0⟩
def F.Ch.EPSTAT.POSCLAMP : Fld := ⟨0xf0, 4, 4⟩
def F.Ch.EPSTAT.WREV : Fld := ⟨0xf0, 3, 3⟩
def F.Ch.EPSTAT.TIGHT : Fld := ⟨0xf0, 2, 2⟩
def F.Ch.EPSTAT.DSK_LIMIT : Fld := ⟨0xf0, 1, 1⟩
def F.Ch.EPSTAT.ECHO_LOCK : Fld := ⟨0xf0, 0, 0⟩

def rowsCh0 : List RegRow := [
  ⟨0x0, 0x8, 1, 32, [⟨31, 16, .staged, 0x271⟩, ⟨9, 9, .cmd, 0x0⟩, ⟨8, 8, .staged, 0x0⟩, ⟨7, 7, .staged, 0x0⟩, ⟨6, 6, .staged, 0x0⟩, ⟨5, 4, .staged, 0x0⟩, ⟨2, 0, .staged, 0x0⟩]⟩,
  ⟨0x8, 0x8, 1, 64, [⟨47, 32, .staged, 0x8000⟩, ⟨31, 16, .staged, 0x8000⟩, ⟨8, 6, .staged, 0x0⟩, ⟨5, 5, .staged, 0x0⟩, ⟨4, 4, .staged, 0x0⟩, ⟨3, 2, .staged, 0x3⟩, ⟨1, 0, .staged, 0x3⟩]⟩,
  ⟨0x10, 0x8, 1, 32, [⟨10, 8, .ro, 0x0⟩, ⟨7, 7, .ro, 0x0⟩, ⟨6, 6, .ro, 0x0⟩, ⟨5, 5, .ro, 0x0⟩, ⟨4, 4, .ro, 0x0⟩, ⟨3, 3, .ro, 0x0⟩, ⟨2, 2, .ro, 0x0⟩, ⟨1, 1, .ro, 0x1⟩, ⟨0, 0, .ro, 0x0⟩]⟩,
  ⟨0x18, 0x8, 1, 32, [⟨31, 16, .ro, 0x3000⟩, ⟨15, 0, .ro, 0x3000⟩]⟩,
  ⟨0x20, 0x8, 1, 32, [⟨31, 16, .live, 0x3000⟩, ⟨9, 6, .live, 0x0⟩, ⟨5, 5, .cmd, 0x0⟩, ⟨4, 2, .live, 0x0⟩, ⟨1, 0, .live, 0x0⟩]⟩,
  ⟨0x28, 0x8, 1, 32, [⟨31, 16, .live, 0xffff⟩, ⟨15, 0, .live, 0x0⟩]⟩,
  ⟨0x30, 0x8, 1, 64, [⟨42, 42, .ro, 0x0⟩, ⟨41, 41, .ro, 0x0⟩, ⟨40, 40, .ro, 0x0⟩, ⟨39, 32, .ro, 0x0⟩, ⟨31, 0, .ro, 0x0⟩]⟩,
  ⟨0x38, 0x8, 1, 32, [⟨31, 0, .ctr, 0x0⟩]⟩,
  ⟨0x40, 0x8, 1, 64, [⟨47, 0, .ctr, 0x0⟩]⟩,
  ⟨0x48, 0x8, 1, 64, [⟨47, 0, .ctr, 0x0⟩]⟩,
  ⟨0x50, 0x8, 1, 64, [⟨47, 0, .ctr, 0x0⟩]⟩,
  ⟨0x58, 0x8, 1, 64, [⟨47, 0, .ctr, 0x0⟩]⟩]

def rowsCh1 : List RegRow := [
  ⟨0x60, 0x8, 1, 64, [⟨47, 0, .ctr, 0x0⟩]⟩,
  ⟨0x68, 0x8, 1, 64, [⟨47, 0, .ctr, 0x0⟩]⟩,
  ⟨0x70, 0x8, 1, 64, [⟨47, 0, .ctr, 0x0⟩]⟩,
  ⟨0x78, 0x8, 1, 64, [⟨47, 0, .ctr, 0x0⟩]⟩,
  ⟨0x80, 0x8, 1, 64, [⟨47, 0, .ro, 0x0⟩]⟩,
  ⟨0x88, 0x8, 1, 64, [⟨47, 0, .ro, 0x0⟩]⟩,
  ⟨0x90, 0x8, 1, 64, [⟨47, 0, .ro, 0x0⟩]⟩,
  ⟨0x98, 0x8, 1, 64, [⟨47, 0, .ro, 0x0⟩]⟩,
  ⟨0xa0, 0x8, 1, 64, [⟨47, 0, .ro, 0x0⟩]⟩,
  ⟨0xa8, 0x8, 1, 64, [⟨47, 0, .ro, 0x0⟩]⟩,
  ⟨0xb0, 0x8, 1, 64, [⟨47, 0, .ro, 0x0⟩]⟩,
  ⟨0xb8, 0x8, 1, 64, [⟨47, 0, .ro, 0x0⟩]⟩]

def rowsCh2 : List RegRow := [
  ⟨0xc0, 0x8, 1, 32, [⟨31, 16, .ro, 0x0⟩, ⟨15, 0, .ro, 0x0⟩]⟩,
  ⟨0xc8, 0x8, 1, 32, [⟨31, 16, .staged, 0x0⟩, ⟨11, 8, .staged, 0x6⟩, ⟨4, 4, .staged, 0x1⟩, ⟨3, 3, .staged, 0x1⟩]⟩,
  ⟨0xd0, 0x8, 1, 32, [⟨31, 16, .ro, 0x0⟩, ⟨15, 0, .ro, 0x0⟩]⟩,
  ⟨0xd8, 0x8, 1, 32, [⟨31, 16, .ro, 0x0⟩, ⟨15, 0, .ro, 0x0⟩]⟩,
  ⟨0xe0, 0x8, 1, 64, [⟨47, 0, .ctr, 0x0⟩]⟩,
  ⟨0xe8, 0x8, 1, 64, [⟨47, 0, .ctr, 0x0⟩]⟩,
  ⟨0xf0, 0x8, 1, 32, [⟨4, 4, .w1c, 0x0⟩, ⟨3, 3, .w1c, 0x0⟩, ⟨2, 2, .w1c, 0x0⟩, ⟨1, 1, .w1c, 0x0⟩, ⟨0, 0, .ro, 0x0⟩]⟩]

/-- The registers of sub-block SK[k].CH[c]. -/
def rowsCh : List RegRow := rowsCh0 ++ rowsCh1 ++ rowsCh2

/-! ### skein common (R47-R212) -/

def F.Sk.TCCTL.CNT_CLR : Fld := ⟨0x0, 1, 1⟩
def F.Sk.TCCTL.CNT_SNAP : Fld := ⟨0x0, 0, 0⟩
def F.Sk.TCSTAT.SNAP_SEQ : Fld := ⟨0x8, 15, 8⟩
def F.Sk.TCSTAT.NOROT : Fld := ⟨0x8, 4, 4⟩
def F.Sk.TCSTAT.POOL_DEGRADED : Fld := ⟨0x8, 3, 3⟩
def F.Sk.TCSTAT.ACCT_VOID : Fld := ⟨0x8, 2, 2⟩
def F.Sk.TCSTAT.DLL_ERR : Fld := ⟨0x8, 1, 1⟩
def F.Sk.TCSTAT.DLL_LOCK : Fld := ⟨0x8, 0, 0⟩
def F.Sk.POOLSTAT.PEAK : Fld := ⟨0x10, 29, 24⟩
def F.Sk.POOLSTAT.FAILED : Fld := ⟨0x10, 21, 16⟩
def F.Sk.POOLSTAT.IN_CAL : Fld := ⟨0x10, 13, 8⟩
def F.Sk.POOLSTAT.IN_SERVICE : Fld := ⟨0x10, 5, 0⟩
def F.Sk.UNIT_CAL : Fld := ⟨0x18, 51, 0⟩
def F.Sk.UNIT_FAIL : Fld := ⟨0x20, 51, 0⟩
def F.Sk.DLLRES.CTRL : Fld := ⟨0x28, 31, 16⟩
def F.Sk.DLLRES.RESID : Fld := ⟨0x28, 15, 0⟩
def F.Sk.UNLOCKED_EDGES : Fld := ⟨0x30, 47, 0⟩
def F.Sk.EPSK.PER_SEL : Fld := ⟨0x40, 3, 0⟩
def F.Sk.VORIGIN : Fld := ⟨0x48, 60, 0⟩
def F.Sk.MAUERR.CFGERR : Fld := ⟨0x100, 63, 0⟩
def F.Sk.MAUCLR : Fld := ⟨0x108, 63, 0⟩
def F.Sk.VCFG.PARK : Fld := ⟨0x200, 63, 60⟩
def F.Sk.VCFG.LOWMARK : Fld := ⟨0x200, 59, 48⟩
def F.Sk.VCFG.PRIME : Fld := ⟨0x200, 47, 36⟩
def F.Sk.VCFG.MSTREAM : Fld := ⟨0x200, 32, 27⟩
def F.Sk.VCFG.VBASE : Fld := ⟨0x200, 26, 0⟩
def F.Sk.VSTAT.RUN : Fld := ⟨0x208, 31, 31⟩
def F.Sk.VSTAT.GATEIGN : Fld := ⟨0x208, 30, 30⟩
def F.Sk.VSTAT.LATERUN : Fld := ⟨0x208, 29, 29⟩
def F.Sk.VSTAT.TSETIGN : Fld := ⟨0x208, 28, 28⟩
def F.Sk.VSTAT.SUBEMPTY : Fld := ⟨0x208, 27, 27⟩
def F.Sk.VSTAT.BADCODE : Fld := ⟨0x208, 26, 26⟩
def F.Sk.VSTAT.VQ_LEVEL : Fld := ⟨0x208, 20, 16⟩
def F.Sk.VSTAT.FIFO_LEVEL : Fld := ⟨0x208, 12, 0⟩
def F.Sk.VCOUNT : Fld := ⟨0x210, 39, 0⟩
def F.Sk.FAILLAT.MASK : Fld := ⟨0x218, 31, 16⟩
def F.Sk.FAILLAT.LATCH : Fld := ⟨0x218, 15, 0⟩
def F.Sk.FAILCNT : Fld := ⟨0x300, 47, 0⟩
def F.Sk.FIRSTFAIL.VALID : Fld := ⟨0x380, 63, 63⟩
def F.Sk.FIRSTFAIL.VEC : Fld := ⟨0x380, 39, 0⟩

def rowsSk0 : List RegRow := [
  ⟨0x0, 0x8, 1, 32, [⟨1, 1, .cmd, 0x0⟩, ⟨0, 0, .cmd, 0x0⟩]⟩,
  ⟨0x8, 0x8, 1, 32, [⟨15, 8, .ro, 0x0⟩, ⟨4, 4, .ro, 0x0⟩, ⟨3, 3, .ro, 0x0⟩, ⟨2, 2, .w1c, 0x0⟩, ⟨1, 1, .w1c, 0x0⟩, ⟨0, 0, .ro, 0x0⟩]⟩,
  ⟨0x10, 0x8, 1, 32, [⟨29, 24, .ro, 0x0⟩, ⟨21, 16, .ro, 0x0⟩, ⟨13, 8, .ro, 0x4⟩, ⟨5, 0, .ro, 0x30⟩]⟩,
  ⟨0x18, 0x8, 1, 64, [⟨51, 0, .ro, 0xf000⟩]⟩,
  ⟨0x20, 0x8, 1, 64, [⟨51, 0, .ro, 0x0⟩]⟩,
  ⟨0x28, 0x8, 1, 32, [⟨31, 16, .ro, 0x0⟩, ⟨15, 0, .ro, 0x0⟩]⟩,
  ⟨0x30, 0x8, 1, 64, [⟨47, 0, .ctr, 0x0⟩]⟩,
  ⟨0x40, 0x8, 1, 32, [⟨3, 0, .staged, 0x0⟩]⟩,
  ⟨0x48, 0x8, 1, 64, [⟨60, 0, .ro, 0x0⟩]⟩,
  ⟨0x100, 0x8, 1, 64, [⟨63, 0, .w1c, 0x0⟩]⟩,
  ⟨0x108, 0x8, 1, 64, [⟨63, 0, .cmd, 0x0⟩]⟩,
  ⟨0x200, 0x8, 1, 64, [⟨63, 60, .staged, 0x2⟩, ⟨59, 48, .staged, 0x400⟩, ⟨47, 36, .staged, 0x800⟩, ⟨32, 27, .staged, 0x0⟩, ⟨26, 0, .staged, 0x0⟩]⟩]

def rowsSk1 : List RegRow := [
  ⟨0x208, 0x8, 1, 32, [⟨31, 31, .ro, 0x0⟩, ⟨30, 30, .w1c, 0x0⟩, ⟨29, 29, .w1c, 0x0⟩, ⟨28, 28, .w1c, 0x0⟩, ⟨27, 27, .w1c, 0x0⟩, ⟨26, 26, .w1c, 0x0⟩, ⟨20, 16, .ro, 0x0⟩, ⟨12, 0, .ro, 0x0⟩]⟩,
  ⟨0x210, 0x8, 1, 64, [⟨39, 0, .ro, 0x0⟩]⟩,
  ⟨0x218, 0x8, 1, 32, [⟨31, 16, .ro, 0xffff⟩, ⟨15, 0, .w1c, 0x0⟩]⟩,
  ⟨0x300, 0x8, 16, 64, [⟨47, 0, .ctr, 0x0⟩]⟩,
  ⟨0x380, 0x8, 16, 64, [⟨63, 63, .ro, 0x0⟩, ⟨39, 0, .ro, 0x0⟩]⟩]

/-- The registers of sub-block skein common. -/
def rowsSk : List RegRow := rowsSk0 ++ rowsSk1

/-! ### MAU slot (R96-R134) -/

def F.Slot.SCFG.ARM : Fld := ⟨0x0, 59, 48⟩
def F.Slot.SCFG.SRCB : Fld := ⟨0x0, 47, 36⟩
def F.Slot.SCFG.SRCA : Fld := ⟨0x0, 35, 24⟩
def F.Slot.SCFG.OPT : Fld := ⟨0x0, 19, 17⟩
def F.Slot.SCFG.TRIGEN : Fld := ⟨0x0, 16, 16⟩
def F.Slot.SCFG.LIMEN : Fld := ⟨0x0, 15, 15⟩
def F.Slot.SCFG.SKIP_SHED : Fld := ⟨0x0, 14, 14⟩
def F.Slot.SCFG.STREAM : Fld := ⟨0x0, 13, 8⟩
def F.Slot.SCFG.EMIT : Fld := ⟨0x0, 7, 7⟩
def F.Slot.SCFG.REARM : Fld := ⟨0x0, 6, 6⟩
def F.Slot.SCFG.GMODE : Fld := ⟨0x0, 5, 4⟩
def F.Slot.SCFG.TYPE : Fld := ⟨0x0, 3, 0⟩
def F.Slot.GCFG.LEN : Fld := ⟨0x8, 47, 0⟩
def F.Slot.RES : Fld := ⟨0x28, 63, 0⟩
def F.Slot.AUX.SEQ : Fld := ⟨0x30, 63, 48⟩
def F.Slot.AUX.FLAGS : Fld := ⟨0x30, 47, 32⟩
def F.Slot.AUX.SECOND : Fld := ⟨0x30, 31, 0⟩
def F.Slot.CNT.ABANDONED : Fld := ⟨0x38, 63, 56⟩
def F.Slot.CNT.GSTATE : Fld := ⟨0x38, 51, 50⟩
def F.Slot.CNT.N : Fld := ⟨0x38, 47, 0⟩
def F.Slot.PARAM.TMO : Fld := ⟨0x10, 47, 16⟩
def F.Slot.PARAM.PAIR_BACK : Fld := ⟨0x10, 15, 0⟩
def F.Slot.LIM_MIN : Fld := ⟨0x18, 63, 0⟩
def F.Slot.LIM_MAX : Fld := ⟨0x20, 63, 0⟩

def rowsSlot0 : List RegRow := [
  ⟨0x0, 0x8, 1, 64, [⟨59, 48, .staged, 0x0⟩, ⟨47, 36, .staged, 0x0⟩, ⟨35, 24, .staged, 0x0⟩, ⟨19, 17, .staged, 0x0⟩, ⟨16, 16, .staged, 0x0⟩, ⟨15, 15, .staged, 0x0⟩, ⟨14, 14, .staged, 0x0⟩, ⟨13, 8, .staged, 0x0⟩, ⟨7, 7, .staged, 0x0⟩, ⟨6, 6, .staged, 0x0⟩, ⟨5, 4, .staged, 0x0⟩, ⟨3, 0, .staged, 0x0⟩]⟩,
  ⟨0x8, 0x8, 1, 64, [⟨47, 0, .staged, 0x0⟩]⟩,
  ⟨0x28, 0x8, 1, 64, [⟨63, 0, .ro, 0x0⟩]⟩,
  ⟨0x30, 0x8, 1, 64, [⟨63, 48, .ro, 0x0⟩, ⟨47, 32, .ro, 0x0⟩, ⟨31, 0, .ro, 0x0⟩]⟩,
  ⟨0x38, 0x8, 1, 64, [⟨63, 56, .ro, 0x0⟩, ⟨51, 50, .ro, 0x0⟩, ⟨47, 0, .ro, 0x0⟩]⟩,
  ⟨0x10, 0x8, 1, 64, [⟨47, 16, .staged, 0x0⟩, ⟨15, 0, .staged, 0x0⟩]⟩,
  ⟨0x18, 0x8, 1, 64, [⟨63, 0, .staged, 0x0⟩]⟩,
  ⟨0x20, 0x8, 1, 64, [⟨63, 0, .staged, 0xffffffffffffffff⟩]⟩]

/-- The registers of sub-block MAU slot. -/
def rowsSlot : List RegRow := rowsSlot0

/-! ### engine (R135-R177) -/

def F.Eng.ECTL.TIMED : Fld := ⟨0x0, 4, 4⟩
def F.Eng.ECTL.ENGRESET : Fld := ⟨0x0, 3, 3⟩
def F.Eng.ECTL.ABORT : Fld := ⟨0x0, 1, 1⟩
def F.Eng.ECTL.START : Fld := ⟨0x0, 0, 0⟩
def F.Eng.ECFG.HGRP : Fld := ⟨0x8, 58, 56⟩
def F.Eng.ECFG.PIN_BASE : Fld := ⟨0x8, 55, 32⟩
def F.Eng.ECFG.PIN : Fld := ⟨0x8, 24, 24⟩
def F.Eng.ECFG.START_PC : Fld := ⟨0x8, 23, 0⟩
def F.Eng.EBRAID : Fld := ⟨0x10, 31, 0⟩
def F.Eng.ECODE.BASE : Fld := ⟨0x18, 26, 0⟩
def F.Eng.ESTART_AT : Fld := ⟨0x20, 51, 0⟩
def F.Eng.ESTAT.LOOP_DEPTH : Fld := ⟨0x28, 55, 52⟩
def F.Eng.ESTAT.CALL_DEPTH : Fld := ⟨0x28, 51, 47⟩
def F.Eng.ESTAT.FLAGS : Fld := ⟨0x28, 46, 43⟩
def F.Eng.ESTAT.PC : Fld := ⟨0x28, 39, 16⟩
def F.Eng.ESTAT.LEADER : Fld := ⟨0x28, 15, 15⟩
def F.Eng.ESTAT.LATESTART : Fld := ⟨0x28, 14, 14⟩
def F.Eng.ESTAT.WDROP : Fld := ⟨0x28, 13, 13⟩
def F.Eng.ESTAT.BRAIDERR : Fld := ⟨0x28, 12, 12⟩
def F.Eng.ESTAT.PINNED : Fld := ⟨0x28, 11, 11⟩
def F.Eng.ESTAT.FAULT : Fld := ⟨0x28, 7, 4⟩
def F.Eng.ESTAT.STATE : Fld := ⟨0x28, 2, 0⟩
def F.Eng.EFAULT.VEC : Fld := ⟨0x30, 63, 24⟩
def F.Eng.EFAULT.PC : Fld := ⟨0x30, 23, 0⟩
def F.Eng.EHOSTSIG.SIG : Fld := ⟨0x50, 15, 0⟩
def F.Eng.EEVENT : Fld := ⟨0x58, 15, 0⟩
def F.Eng.ACTIVE : Fld := ⟨0x60, 15, 0⟩
def F.Eng.ECYCLES : Fld := ⟨0x38, 47, 0⟩
def F.Eng.ESTALL : Fld := ⟨0x40, 47, 0⟩
def F.Eng.EMISS : Fld := ⟨0x48, 47, 0⟩
def F.Eng.G : Fld := ⟨0x100, 63, 0⟩
def F.Eng.P : Fld := ⟨0x180, 63, 0⟩
def F.Eng.L : Fld := ⟨0x400, 63, 0⟩

def rowsEng0 : List RegRow := [
  ⟨0x0, 0x8, 1, 32, [⟨4, 4, .cmd, 0x0⟩, ⟨3, 3, .cmd, 0x0⟩, ⟨1, 1, .cmd, 0x0⟩, ⟨0, 0, .cmd, 0x0⟩]⟩,
  ⟨0x8, 0x8, 1, 64, [⟨58, 56, .live, 0x0⟩, ⟨55, 32, .staged, 0x0⟩, ⟨24, 24, .staged, 0x0⟩, ⟨23, 0, .staged, 0x0⟩]⟩,
  ⟨0x10, 0x8, 1, 32, [⟨31, 0, .staged, 0x0⟩]⟩,
  ⟨0x18, 0x8, 1, 64, [⟨26, 0, .staged, 0x0⟩]⟩,
  ⟨0x20, 0x8, 1, 64, [⟨51, 0, .live, 0x0⟩]⟩,
  ⟨0x28, 0x8, 1, 64, [⟨55, 52, .ro, 0x0⟩, ⟨51, 47, .ro, 0x0⟩, ⟨46, 43, .ro, 0x0⟩, ⟨39, 16, .ro, 0x0⟩, ⟨15, 15, .ro, 0x0⟩, ⟨14, 14, .w1c, 0x0⟩, ⟨13, 13, .w1c, 0x0⟩, ⟨12, 12, .w1c, 0x0⟩, ⟨11, 11, .ro, 0x0⟩, ⟨7, 4, .ro, 0x0⟩, ⟨2, 0, .ro, 0x0⟩]⟩,
  ⟨0x30, 0x8, 1, 64, [⟨63, 24, .ro, 0x0⟩, ⟨23, 0, .ro, 0x0⟩]⟩,
  ⟨0x50, 0x8, 1, 32, [⟨15, 0, .live, 0x0⟩]⟩,
  ⟨0x58, 0x8, 1, 32, [⟨15, 0, .ro, 0x0⟩]⟩,
  ⟨0x60, 0x8, 1, 32, [⟨15, 0, .ro, 0x0⟩]⟩,
  ⟨0x38, 0x8, 1, 64, [⟨47, 0, .ctr, 0x0⟩]⟩,
  ⟨0x40, 0x8, 1, 64, [⟨47, 0, .ctr, 0x0⟩]⟩]

def rowsEng1 : List RegRow := [
  ⟨0x48, 0x8, 1, 64, [⟨47, 0, .ctr, 0x0⟩]⟩,
  ⟨0x100, 0x8, 16, 64, [⟨63, 0, .live, 0x0⟩]⟩,
  ⟨0x180, 0x8, 2, 64, [⟨63, 0, .live, 0x0⟩]⟩,
  ⟨0x400, 0x8, 128, 64, [⟨63, 0, .live, 0x0⟩]⟩]

/-- The registers of sub-block engine. -/
def rowsEng : List RegRow := rowsEng0 ++ rowsEng1

end Sys2Proof.Machine
end

