-- ==== Sys2Proof/Machine/Address.lean ====
section
/-! DEFINITION. Where registers and tables lie (R363-R368, R391-R395): the register row an offset of the normal view
reaches, the sub-block bases, the reset value of every register and table word, and the power domain of an offset. -/

namespace Sys2Proof.Machine

def bCtl : Nat := 0x0
def bTb : Nat := 0x10000
def bThm : Nat := 0x20000
def bCal : Nat := 0x30000
def bTrs : Nat := 0x40000
def bMem : Nat := 0x50000
def bLnk : Nat := 0x60000
def bHif : Nat := 0x70000
/-- Skein k (R363). -/
def bSkein (k : Nat) : Nat := 0x100000 + 0x10000 * k
/-- Channel register set of global channel g = 16k + c (R364). -/
def bCh (g : Nat) : Nat := bSkein (g / 16) + 0x100 * (g % 16)
/-- Skein common registers. -/
def bSk (k : Nat) : Nat := bSkein k + 0x1000
/-- MAU slot s of skein k. -/
def bSlot (k s : Nat) : Nat := bSkein k + 0x2000 + 0x40 * s
/-- Engine registers. -/
def bEng (k : Nat) : Nat := bSkein k + 0x3000
/-- Trigger domain d, condition i and stream s of TRS; the field constants hold the offsets of instance 0. -/
def bDom (d : Nat) : Nat := bTrs + 0x80 * d
def bCond (i : Nat) : Nat := bTrs + 0x10 * i
def bStr (s : Nat) : Nat := bTrs + 0x80 * s
/-- Pseudo-channel p and port n of MEM. -/
def bPc (p : Nat) : Nat := bMem + 0x40 * p
def bPort (n : Nat) : Nat := bMem + 0x20 * n
/-- Port q of LNK, and DMA engine n of HIF. (DEDUCED, log 101.) -/
def bLp (q : Nat) : Nat := bLnk + 0x40 * q
def bDma (n : Nat) : Nat := bHif + 0x40 * n

/-- The rows and the base of the sub-block that holds an offset of the normal view, the offset being decoded (R364,
R392); none in the holes of the window. (DEDUCED, log 36.) -/
def subBlock (x : Nat) : Option (List RegRow × Nat) :=
  if x < 0x10000 then some (rowsCtl, bCtl)
  else if x < 0x20000 then some (rowsTb, bTb)
  else if x < 0x30000 then some (rowsThm, bThm)
  else if x < 0x40000 then some (rowsCal, bCal)
  else if x < 0x50000 then some (rowsTrs, bTrs)
  else if x < 0x60000 then some (rowsMem, bMem)
  else if x < 0x70000 then some (rowsLnk, bLnk)
  else if x < 0x80000 then some (rowsHif, bHif)
  else if x < 0x100000 then none
  else if x < 0x300000 then
    let b := x / 0x10000 * 0x10000
    let y := x % 0x10000
    if y < 0x1000 then some (rowsCh, b + y / 0x100 * 0x100)
    else if y < 0x2000 then some (rowsSk, b + 0x1000)
    else if y < 0x3000 then some (rowsSlot, b + 0x2000 + (y - 0x2000) / 0x40 * 0x40)
    else some (rowsEng, b + 0x3000)
  else none

/-- The row of a list that an offset relative to the sub-block reaches. -/
def findRow (y : Nat) : List RegRow → Option RegRow
  | [] => none
  | r :: t => if r.off ≤ y ∧ y < r.off + r.stride * r.count ∧ (y - r.off) % r.stride = 0 then some r else findRow y t

/-- The register row at an 8-aligned offset of the normal view; none is a hole (R368). -/
def rowAt (x : Nat) : Option RegRow :=
  match subBlock x with
  | none => none
  | some (rows, b) => findRow (x - b) rows

/-- The reset word of a row: its fields' reset values in their places (R4). (DESIGN CHOICE, log 19.) -/
def rowReset (r : RegRow) : Word := r.fields.foldl (fun w f => fset w f.hi f.lo f.reset) 0#64

/-- Reset masks of MAP[i] (R258). -/
def mapReset : List Nat :=
  [0x02100080, 0x04200100, 0x08400200, 0x10800400, 0x21000800, 0x40001000, 0x80002000, 0x100004000, 0x200008000]

/-- Reset TARGET of port n in ns (R265). -/
def targetReset (n : Nat) : Nat :=
  if n < 32 then 1000 else if n < 64 then 4000 else if n < 72 then 2000 else if n < 76 then 750 else 50000

/-- The reset value of the register at an 8-aligned offset of the normal view. (DESIGN CHOICE, log 19.) -/
def regReset (x : Nat) : Word :=
  match rowAt x with
  | none => 0#64
  | some r =>
    if bMem + 0x100 ≤ x ∧ x < bMem + 0x148 then BitVec.ofNat 64 (atD mapReset ((x - bMem - 0x100) / 8) 0)
    else if bMem + 0x240 ≤ x ∧ x < bMem + 0x258 then 0#64
    else if bMem + 0x400 ≤ x ∧ x < bMem + 0x668 then
      fset (rowReset r) F.Mem.MPORT.TARGET.hi F.Mem.MPORT.TARGET.lo (targetReset ((x - bMem - 0x400) / 8))
    else rowReset r

/-! ### The table aperture (R394) -/

def tTiming : Nat := 0x400000
def tLevel : Nat := 0x600000
def tPeriod : Nat := 0x610000
def tSite : Nat := 0x620000
def tSiteEn : Nat := 0x621000
def tRing : Nat := 0x680000
def tHist : Nat := 0x700000
def tSnap : Nat := 0x780000
def tPhy : Nat := 0x790000
def tMram : Nat := 0x7c0000
def tSram : Nat := 0x7e0000

/-- Reset value of the 32-bit table word at a 4-aligned offset (R20, R78, R81, R142, R143, R236). -/
def tableReset (x : Nat) : BitVec 32 :=
  if tLevel ≤ x ∧ x < tLevel + 0x10000 then (if x % 16 < 12 then 0x30003000#32 else 0#32)
  else if tPeriod ≤ x ∧ x < tPeriod + 0x1000 then (if x % 8 = 0 then 0x1400#32 else 0#32)
  else if tSite ≤ x ∧ x < tSite + 0x800 then BitVec.ofNat 32 (0x80000000 + (x - tSite) / 64)
  else if tSiteEn ≤ x ∧ x < tSiteEn + 0x40 then 0xffffffff#32
  else 0#32

end Sys2Proof.Machine
end

