-- ==== Sys2Proof/Machine/State.lean ====
section
/-! DEFINITION. The state of the ST512 as plain data, the reasons a step can stop, and the state right after reset. -/

namespace Sys2Proof.Machine

/-- Whether the device runs. -/
inductive Phase where
  | running      -- POR_N released
  | held         -- POR_N asserted (R403, R417)
  | off          -- supplies lost (R418)
  | undefined    -- a boundary-scan instruction that disturbs the device has left the instruction register (R448)
  deriving DecidableEq, Repr

/-- Why the machine stops. -/
inductive Fault where
  /-- Raised by every command but POR_ASSERT, PWRGOOD, SUPPLY_LOSS and the JTAG ones in the state R448 calls undefined
  (the board must assert POR_N first). Safe: the manual gives no effect there. -/
  | undefinedState
  deriving DecidableEq, Repr

/-- Why a command has no meaning. -/
inductive Refusal where
  /-- Answered by an arm of `exec` whose command has no meaning yet. Safe. -/
  | notModelled (mnemonic : String)
  deriving DecidableEq, Repr

/-- A LANYARD packet (R306, R307): its header fields and its payload as the numbers of its fields in order. `dir` is the
port it leaves by: 0 A, 1 B. `held` names the received packet that this one forwards, by its port and LSEQ: its units stay
in the receiver's buffer until this one has left (R309). -/
structure Pkt where
  kind : Nat
  vc : Nat
  len : Nat
  dir : Nat
  lseq : Nat
  tag : Nat
  src : Nat
  dst : Nat
  bcast : Bool
  payload : List Nat
  held : Option (Nat × Nat) := none
  deriving DecidableEq, Repr

/-- A received packet in a receiver's buffer (R309): its LSEQ, virtual channel and units, and what has yet to forward or
consume it. -/
structure RxPkt where
  seq : Nat
  vc : Nat
  units : Nat
  uses : Nat
  deriving DecidableEq, Repr

/-- A scheduled action (R312): 1 HITCH, 2 ARM, 3 DISARM, 4 ALIGN; `arg` is the hitch mask or the domain. -/
structure Sched where
  act : Nat
  at_ : Nat
  arg : Nat
  deriving DecidableEq, Repr

/-- What a LANYARD port holds beside its registers (R304-R309): the next LSEQ sent and expected, the replay buffer, the
packets that wait for credits, the receive buffer, the requests for a replay since the last progress, and the lanes
without block lock with the elapsed ns of the loss. -/
structure LPort where
  txSeq : Nat := 0
  rxSeq : Nat := 0
  replay : List Pkt := []
  sendQ : List Pkt := []
  rx : List RxPkt := []
  fails : Nat := 0
  lost : List (Nat × Nat) := []
  deriving DecidableEq, Repr

/-- A host access to another position that waits for its RRESP (R313). -/
structure Tun where
  tag : Nat
  pos : Nat
  write : Bool
  at_ : Nat
  deriving DecidableEq, Repr

/-- What LNK holds beside its registers (R310-R318): broadcasts already acted on, the next broadcast and request tags,
the pending scheduled actions, the actions that a full queue holds back with the received packet each waits in (none: the
device's own), tunnelled accesses, and discovery's progress. -/
structure Lnk where
  seen : List (Nat × Nat) := []
  btag : Nat := 0
  rtag : Nat := 0
  schedQ : List Sched := []
  held : List (Option (Nat × Nat) × Sched) := []
  tuns : List Tun := []
  token : Option (Nat × Nat) := none     -- a DISC token held for a port that is not up: its onward port and its count
  provIdx : Option Nat := none           -- the provisional index of the counter-clockwise pass
  stage : Nat := 0                       -- at the head: the step of R316 that runs, 0 before discovery has begun
  brks : List Nat := []                  -- the breaks known, each by the position whose port A is at it (R310, R318)
  brkJ : Option Nat := none              -- the END j_max that passed in the counter-clockwise pass
  cwCount : Nat := 0                     -- at the head: the count i that the broken clockwise pass returned
  mode : Nat := 0                        -- at the head: the mode and N that a running verify leads to
  count : Nat := 0
  verified : Nat := 0                    -- at the head: chains that VERIFY has yet to return from
  tokenSeen : Bool := false
  deriving DecidableEq, Repr

/-- What the device sends to the world (the model's own record of its outputs, newest first). -/
inductive Out where
  | firePull (d : Nat)               -- FIREd_N pulled low
  | fireRelease (d : Nat)
  | packet (p : Pkt) (wire : List Byte)                    -- with its bytes on the link (R306)
  | msix (v : Nat)
  | hostWrite (addr : Nat) (bytes : List Byte)
  | hostRead (addr len : Nat)
  | avs (cmd : Nat) (value : Option Nat)                   -- an AVSBus transaction: its command, a write's value (R354)
  | tunnelDone (tag : Nat) (data : Word) (status : Nat)    -- a host access completes: the status of R307, or 4 lost (R313)
  deriving DecidableEq, Repr

/-- A commit on its way (R375-R378): its group, the staged copies it carries, the coarse count of a scheduled one, the
units that have yet to apply it, whether its HITCH event has occurred (R165), and the skeins whose engines ran then
(R23). -/
structure Commit where
  group : Nat
  snap : Table Word
  at_ : Option Nat
  waiting : List HUnit
  hit : Bool := true
  ran : List Nat := []
  deriving DecidableEq, Repr

/-- A write through the set, clear or toggle view in the present cycle (R386): its register, view and word, and what the
register held before and behind it. -/
structure ViewOp where
  x : Nat
  v : View
  m : Word
  old : Word
  new : Word
  deriving DecidableEq, Repr

/-- A memory request's purpose, for what its completion does. -/
inductive Why where
  | vectorLine (k req : Nat)
  | fetchLine (k line : Nat)
  | pinLoad (k : Nat)
  | record (s : Nat) (seq : Nat)
  | transport (s seq : Nat)
  | dma (n : Nat)
  | scrub
  | neighbour
  deriving DecidableEq, Repr

/-- A memory request (R259-R266): a transfer that waits at a port, or one accepted request of at most 128 bytes. -/
structure MReq where
  addr : Nat
  len : Nat
  write : Option (List Byte)
  why : Why
  at_ : Nat                -- elapsed ns of its acceptance
  issued : Bool            -- its activate has been issued
  ord : Nat := 0           -- its place in the order of acceptance, over all ports
  fromHost : Bool := false -- a write whose bytes HIF has yet to read from the host
  deriving DecidableEq, Repr

/-- What a memory port holds (R265, R286): transfers not yet accepted, accepted requests in order, and the live
counters that MCTL.SNAP copies. -/
structure MPort where
  wait : List MReq := []
  outs : List MReq := []
  issued : Nat := 0
  completed : Nat := 0
  frozen : Nat := 0
  late : Nat := 0
  caught : List MReq := []  -- requests that a freeze has caught, for the rest of its cycle (R286, R289)
  deriving DecidableEq, Repr

/-- A command issued to a pseudo-channel, an activate or a column command: its HBMCLK edge, SID, bank and bank group as one
number, the unit's address, the port it was for, and whether it is a column write (R267, R287). -/
structure Act where
  at_ : Nat
  bank : Nat
  addr : Nat
  port : Nat
  write : Bool := false
  deriving DecidableEq, Repr

/-- The column commands that an activated request still owes (R256, R267): reads, then writes, the first of them no earlier
than HBMCLK edge `ready`. -/
structure Burst where
  ord : Nat                -- the request's place in the order of acceptance
  bank : Nat
  addr : Nat
  port : Nat
  left : Nat × Nat
  ready : Nat
  deriving DecidableEq, Repr

/-- What a pseudo-channel holds (R268, R271-R277): its refresh debt as of an elapsed ns, the activate-count table, the
LFSR, refreshes since reset, overflow, rows whose neighbours wait to be refreshed (with true for the threshold), drain,
the elapsed ns until which a refresh blocks it, its last activates and column commands, the column commands owed, and
the first HBMCLK edge without a command. -/
structure PChan where
  debt : Int := 0
  debtAt : Nat := 0
  table : List (Nat × Nat) := []
  lfsr : Nat := 1
  refs : Nat := 0
  ovf : Bool := false
  nbr : List (Nat × Bool) := []
  drain : Bool := false
  busyTo : Nat := 0
  acts : List Act := []
  cols : List Act := []
  bursts : List Burst := []
  slot : Nat := 0
  deriving DecidableEq, Repr

/-- The stack's contents (R256, R285, R411): cells by location; `lost` tells that an unlisted location holds an unknown
byte (a free value of the epoch) and not zero. `ecc` holds check bits that training wrote raw (R282). -/
structure Hbm where
  cells : List Host.Cell := []
  lost : Option Nat := some 0
  ecc : List (Nat × BitVec 128) := []
  lostPc : List (Nat × Nat) := []    -- PCs whose slice has been off, with the epoch of their unknown bytes
  deriving DecidableEq, Repr

/-- A transfer of a DMA engine (R398, R399): its latched arguments, the bytes moved, those of them not yet in a write to the
host, the bytes that reads from the host have asked for, and the code it ends with once its outstanding requests have
completed (0: none yet). -/
structure Dma where
  host : Nat := 0
  mem : Nat := 0
  len : Nat := 0
  toHost : Bool := false
  irq : Bool := false
  vec : Nat := 0
  moved : Nat := 0
  buf : List Byte := []
  asked : Nat := 0
  stop : Nat := 0
  deriving DecidableEq, Repr

/-- A record that waits for its host ring (R237, R314): its SEQ, items and bytes, and the received packet it waits in
(none: the head's own). -/
structure HRec where
  seq : Nat
  items : Nat
  bytes : List Byte
  held : Option (Nat × Nat) := none
  deriving DecidableEq, Repr

/-- What HIF holds of a host ring beside its table entry (R235-R238, R314): the SEQ expected next (none: cleared), the
records received and not yet written, those next in order when the expectation was cleared, and since when an advance has
not been signalled. -/
structure HRing where
  expect : Option Nat := none
  waiting : List HRec := []
  early : List HRec := []
  irqFrom : Option Nat := none
  deriving DecidableEq, Repr

/-- What the memory controller holds beside its registers. -/
structure MemC where
  scrubPtr : Nat := 0
  scrubAt : Nat := 0                 -- elapsed ns of the next scrub read
  lastBusy : Nat := 0                -- elapsed ns of the last queue activity (R279)
  initDone : Bool := false           -- the initialisation of R410 has ended
  filling : Bool := false            -- the fill of R411 runs
  filled : Bool := false
  reinit : Bool := false             -- a release's re-initialisation runs (R288)
  trainOp : Nat := 0                 -- the training primitive in progress
  modeRegs : List (Nat × BitVec 8) := []    -- HBM mode registers that MRW wrote: 256 PC + number
  modeSet : Option (Word × Word × Word) := none    -- the timing set from which initialisation wrote the others (R410)
  latSet : Option (Word × Word × Word) := none     -- the one from which the latency ones were written last (R280)
  ord : Nat := 0                     -- requests accepted since reset
  phy : Table (List (BitVec 32)) := []      -- the delays the PHY of each PC has loaded (R281)
  phyPend : List Nat := []           -- PCs that load the new band's delays at their next refresh (R274)
  bandNext : Option Nat := none      -- a band reached during the hold of R280, applied at its exit (R289)
  frzCyc : Nat := 0                  -- the cycle of the last freeze
  frzAt : Word := 0#64               -- the freeze instant recorded for the FREEZE mark (R250)
  frzHold : Bool := false            -- the device was in holdover then (R223)
  deriving DecidableEq, Repr

/-- A fine echo of a deskew pulse (R331): its channel, slope, interpolator code and skew in ft. -/
structure DskSkew where
  c : Nat
  rising : Bool
  code : Nat
  skew : Int
  deriving DecidableEq, Repr

/-- A driver deskew in progress (R330-R332): its skein, the channels listening since an elapsed ns with the number of
their repeat, the ones that wait for repeat r, the end of the first listen, the channels in a pulse phase with its
start, the fine echoes found in it, and the final statuses. -/
structure Dsk where
  sk : Nat
  listen : List (Nat × Nat × Nat) := []      -- channel, repeat number, start
  wait : List (Nat × Nat) := []              -- channel, number of the next repeat
  firstEnd : Nat := 0
  pulse : List (Nat × Nat) := []             -- channel, start
  final : List (Nat × Nat) := []             -- channel, status code (R335)
  counted : List Nat := []                   -- channels that CDEFER has counted
  seen : List Nat := []                      -- channels with an edge in their present listen
  skews : List DskSkew := []
  deriving DecidableEq, Repr

/-- A store in progress (R339): its slot (0 A, 1 B), SEQ, stamp, the values of its start, the next block, and whether
it stops after that block (R342). -/
structure Store where
  slot : Nat
  seq : Nat
  stamp : Word
  data : Table (BitVec 32)
  nominal : Bool
  block : Nat
  stop : Bool
  bad : Bool := false                        -- a block has not been written as meant
  deriving DecidableEq, Repr

/-- What CAL holds beside its registers (R320-R343): its copy of the record by offset (an unlisted word is nominal, or
zero after a record was loaded), the SEQ of the current record, the store and the deskew in progress. -/
structure Cals where
  copy : Table (BitVec 32) := []
  nominal : Bool := true
  recSeq : Nat := 0
  store : Option Store := none
  storedAt : Option Nat := none
  dsk : Option Dsk := none
  pllAt : Nat := 0                       -- elapsed ns from which the PLL may be measured again (R333)
  deriving DecidableEq, Repr

/-- What THM counts for a sensor (R346-R348, R273): consecutive samples at or above WARN, THROTTLE and SHUTDOWN, below the
present state's limit less 2 °C, without a reading; for sensor 39 the band its samples lie in and how many. -/
structure Sens where
  warn : Nat := 0
  throt : Nat := 0
  shut : Nat := 0
  down : Nat := 0
  bad : Nat := 0
  band : Nat := 0
  run : Nat := 0
  deriving DecidableEq, Repr

/-- A write that PDEN (`one` = false) or PDEN1 has taken: through the normal view or not, and what the register held before
and behind it. -/
structure PdenW where
  one : Bool
  whole : Bool
  old : Word
  new : Word
  deriving DecidableEq, Repr

/-- What host writes meet in one AONCLK cycle (R362): the cycle, what PDEN, PDEN1 and THRESH held before the first of them,
and the writes to PDEN and PDEN1, oldest first. -/
structure AonRec where
  at_ : Nat
  pden : Word
  pden1 : Word
  thresh : Word
  writes : List PdenW := []
  deriving DecidableEq, Repr

/-- What THM holds beside its registers (R344-R360). -/
structure Thms where
  sens : Table Sens := []
  nextAt : Nat := 0                      -- elapsed ns of the next sample
  calm : Nat := 0                        -- consecutive fast samples with no sensor near a limit (R345)
  fastNs : Nat := 0                      -- ns in fast mode not yet in FASTTIME
  askedFrom : Option Nat := none         -- the timing set active before a change that THM requested (R351)
  rising : List (Nat × Nat) := []        -- domains switched on and not yet at power good, with the elapsed ns
  onAt : Nat := 0                        -- elapsed ns of the next slot of R358
  offAt : Nat := 0                       -- elapsed ns from which the next domain may switch off (R360)
  shutAt : Option Nat := none            -- elapsed ns of the entry into SHUTDOWN, until its domains go off (R352)
  pwrAt : Option Nat := some 0           -- elapsed ns of PWRGOOD (R404)
  avsRun : Bool := false                 -- the AVS loop has started (R355)
  avsAt : Nat := 0                       -- elapsed ns of its next step
  avsFails : Nat := 0                    -- consecutive failed transactions (R356)
  avsStop : Bool := false                -- stopped by three of them
  aon : Option AonRec := none            -- the host's writes of the latest AONCLK cycle that had one (R362)
  deriving DecidableEq, Repr

/-- A splice whose edges are being taken (R300): the count of edge 0 (none until it comes), the deviations so far,
newest first, and whether one was taken outside LOCKED. -/
structure Splice where
  base : Option Nat
  ds : List Int
  hold : Bool
  deriving DecidableEq, Repr

/-- What TB holds beside its registers (R290-R302). -/
structure Tbs where
  goodWins : Nat := 0                -- consecutive windows in range without a missing edge
  missed : Bool := false             -- a missing edge in the present window
  winFrom : Nat := 0                 -- elapsed ns of the start of the present window
  pllFerr : Int := 0                 -- the frequency that holdover holds: FERR of the last good window in LOCKED
  iroFrz : Int := 0                  -- the compensated IRO frequency at the entry into holdover, 2^-32 ppm (R294)
  held : Int := 0                    -- the frequency of TBCLK in holdover, 2^-32 ppm (R293, R294)
  holdFrom : Nat := 0                -- elapsed ns of the entry into the present holdover
  stored : Int := 0                  -- the phase stored at the loss, against that in LOCKED, 0.1 fs (R295)
  phase : Int := 0                   -- the phase error that SLEW has yet to remove, 0.1 fs (R295)
  shifts : List Int := []            -- by how many ft each coarse-count load has moved the local scale, oldest first (R51)
  loadAt : Option (Nat × Nat × Bool) := none    -- old coarse cycle of the load of a stamped alignment, f_s, and whether the
                                     -- edge was taken in holdover (R298, R300)
  splice : Option Splice := none
  base : Option Nat := none          -- base of the last splice that ended OK
  newOfs : Option (Int × Nat) := none    -- a splice's OFS and base, until the next epoch tick
  track : Int := 0                   -- the TRACK step due at the next epoch tick
  pllCode : BitVec 16 := 0#16        -- charge-pump code in force (R333)
  pllNext : Option (BitVec 16) := none   -- its next value, until the next epoch tick
  iro : Int := 0                     -- compensated IRO frequency of the last thermal sample, 2^-32 ppm (R294)
  deriving DecidableEq, Repr

/-- The test access port (R447): the instruction register, IDCODE after TAP reset, the boundary scan register and the
bypass register. (DEDUCED, log 115.) -/
structure Jtag where
  ir : BitVec 8 := 0x01#8
  bsr : BitVec 1168 := 0#1168
  bypass : Bool := false
  deriving DecidableEq, Repr

/-- The state of the ST512: the applied registers and their staged, held and voted copies, the tables, and every part
that no register holds. -/
structure State where
  phase : Phase
  pending : List Instr                     -- the command queue, first in first out
  cycle : Nat                              -- elapsed TBCLK cycles
  coarse : Nat                             -- the coarse count of every skein (R51)
  regs : Table Word                        -- applied register values, by normal-view offset
  regs0 : Table Word                       -- what they held at the start of the cycle, CTR fields as written since by
                                           -- software (R386)
  raised : Table Word                      -- W1C bits that hardware has set in the present cycle (R386)
  viewOps : List ViewOp                    -- writes through the set, clear and toggle views in it, oldest first (R386)
  staged : Table Word                      -- staged copies (R373)
  staged0 : Table Word                     -- what they held at the start of the cycle (R386)
  lowBuf : Table (Option (Nat × BitVec 32))    -- pending-low buffers, per block (R385)
  tables : Table (BitVec 32)               -- the table aperture (R394)
  unlockAt : Table (Option Nat)            -- expiry of an armed unlock, per block (R379)
  onceDone : Table Bool                    -- ONCE registers that have been written (R381)
  commits : List Commit                    -- R375-R378
  chans : Table Chan
  skeins : Table Skein
  slots : Table Slot
  engs : Table Eng
  vus : Table VU
  doms : Table Dom
  condCnt : Table Nat                      -- hits since the domain entered ARMED, per condition (R217)
  strms : Table Strm
  adcQ : Table (List (Nat × Nat × Nat))    -- per ADC, the queued channels, AVG_LOG2 and completion ns (R38)
  ports : Table MPort
  pcs : Table PChan
  hrings : Table HRing
  hbm : Hbm
  memc : MemC
  dmas : Table Dma
  mram : Table (BitVec 32)                 -- MRAM words by byte address; kept without power (R337)
  lps : Table LPort                        -- LANYARD ports A and B
  lnk : Lnk
  tbs : Tbs
  thms : Thms
  cals : Cals
  irqSent : Nat                            -- sources reported since they became asserted (R397)
  irqLatch : Nat                           -- sources presented as asserted for one cycle (R429)
  irqAt : Nat                              -- elapsed ns of the next repetition (R397)
  cfgAt : Nat                              -- elapsed ns of the next configuration check (R387)
  holdLog : List (Nat × Option Nat)        -- spans of holdover in local ft, newest first (R130)
  dllLog : Table (List (Nat × Option Nat))     -- per skein, spans with DLL_LOCK = 0 in elapsed ft, newest first (R130)
  jtag : Jtag
  free : Nat                               -- the model's own counter of free values
  outbox : List Out                        -- the model's own record of outputs
  deriving DecidableEq, Repr

/-- The default of every table of parts. -/
def chan0 : Nat → Chan := fun _ => {}
def skein0 : Nat → Skein := fun _ => {}
def slot0 : Nat → Slot := fun _ => {}
def eng0 : Nat → Eng := fun _ => {}
def vu0 : Nat → VU := fun _ => {}
def dom0 : Nat → Dom := fun _ => {}
def mport0 : Nat → MPort := fun _ => {}
def pchan0 : Nat → PChan := fun _ => {}
def hring0 : Nat → HRing := fun _ => {}
def dma0 : Nat → Dma := fun _ => {}
def lport0 : Nat → LPort := fun _ => {}
def strm0 : Nat → Strm := fun _ => {}

/-- The machine right after reset: POR_N released with the straps open (R405), every switched domain off (R358), the
command queue empty. (DEDUCED, log 20.) (DESIGN CHOICE, log 119.) -/
def State.reset : State where
  phase := .running
  pending := []
  cycle := 0
  coarse := 0
  regs := []
  regs0 := []
  raised := []
  viewOps := []
  staged := []
  staged0 := []
  lowBuf := []
  tables := []
  unlockAt := []
  onceDone := []
  commits := []
  chans := []
  skeins := []
  slots := []
  engs := []
  vus := []
  doms := []
  condCnt := []
  strms := []
  adcQ := []
  ports := []
  pcs := []
  hrings := []
  hbm := {}
  memc := {}
  dmas := []
  mram := []
  lps := []
  lnk := {}
  tbs := {}
  thms := {}
  cals := {}
  irqSent := 0
  irqLatch := 0
  irqAt := 0
  cfgAt := 0
  holdLog := [(0, none)]
  dllLog := []
  jtag := {}
  free := 0
  outbox := []

end Sys2Proof.Machine
end

