-- ==== Sys2Proof/Machine/Ops.lean ====
section
/-! DEFINITION. The named operations over the state that every meaning uses: registers and their fields, table words,
the parts of channels, skeins, slots and engines, time, power domains, free values and outputs. -/

namespace Sys2Proof.Machine

open Host

/-! ### Registers -/

/-- The applied word of the register at a normal-view offset. -/
def State.reg (s : State) (x : Nat) : Word := tget regReset s.regs x

/-- The applied register replaced. -/
def State.setReg (s : State) (x : Nat) (w : Word) : State := { s with regs := tput regReset s.regs x w }

/-- A field of the register at base `b` (R366, R367). -/
def State.rd (s : State) (b : Nat) (f : Fld) : Nat := fget (s.reg (b + f.off)) f.hi f.lo

/-- A field replaced by the low bits of `v`. -/
def State.wr (s : State) (b : Nat) (f : Fld) (v : Nat) : State :=
  s.setReg (b + f.off) (fset (s.reg (b + f.off)) f.hi f.lo v)

/-- A counter advanced; it wraps at its field's width. -/
def State.inc (s : State) (b : Nat) (f : Fld) (n : Nat) : State := s.wr b f (s.rd b f + n)

/-- A counter advanced that stops at its field's largest value. -/
def State.incSat (s : State) (b : Nat) (f : Fld) (n : Nat) : State :=
  s.wr b f (min (s.rd b f + n) (2 ^ (f.hi + 1 - f.lo) - 1))

/-- Bit `i` of a field. -/
def State.bit (s : State) (b : Nat) (f : Fld) (i : Nat) : Bool := (s.rd b f).testBit i

/-- Bit `i` of a field set or cleared. -/
def State.setBit (s : State) (b : Nat) (f : Fld) (i : Nat) (v : Bool) : State :=
  let old := s.rd b f
  s.wr b f (if v then old ||| 2 ^ i else old - (old &&& 2 ^ i))

/-- A W1C bit set by hardware: it stays set against a software clear of the same cycle (R386). -/
def State.raise (s : State) (b : Nat) (f : Fld) (i : Nat) : State :=
  let x := b + f.off
  { s.setReg x (s.reg x ||| fmask (f.lo + i) (f.lo + i)) with
    raised := tput (fun _ => 0#64) s.raised x (tget (fun _ => 0#64) s.raised x ||| fmask (f.lo + i) (f.lo + i)) }

/-- The W1C bits of a register that hardware has set in the present cycle. -/
def State.raisedAt (s : State) (x : Nat) : Word := tget (fun _ => 0#64) s.raised x

/-- A one-bit W1C field raised where a condition holds (sticky status bits). -/
def State.flag (s : State) (b : Nat) (f : Fld) (c : Bool) : State := if c then s.raise b f 0 else s

/-- A CTR field cleared by a command: software's writes of the cycle count from there (R386). -/
def State.clr (s : State) (b : Nat) (f : Fld) : State :=
  let t := s.wr b f 0
  { t with regs0 := tput regReset t.regs0 (b + f.off) (fset (tget regReset t.regs0 (b + f.off)) f.hi f.lo 0),
           viewOps := t.viewOps.filter (fun o => o.x ≠ b + f.off) }

/-- A field read as a signed value. -/
def State.rdInt (s : State) (b : Nat) (f : Fld) : Int := toSigned (f.hi + 1 - f.lo) (s.rd b f)

/-- A field written with a signed value. -/
def State.wrInt (s : State) (b : Nat) (f : Fld) (v : Int) : State := s.wr b f (ofSigned (f.hi + 1 - f.lo) v)

/-- The staged copy of a register (R373). -/
def State.stg (s : State) (x : Nat) : Word := tget regReset s.staged x

/-- The staged copy replaced. -/
def State.setStg (s : State) (x : Nat) (w : Word) : State := { s with staged := tput regReset s.staged x w }

/-! ### Table aperture -/

/-- The 32-bit table word at a 4-aligned aperture offset. -/
def State.tw (s : State) (x : Nat) : BitVec 32 := tget tableReset s.tables x

/-- The table word replaced. -/
def State.setTw (s : State) (x : Nat) (w : BitVec 32) : State := { s with tables := tput tableReset s.tables x w }

/-- The 64-bit table entry at an 8-aligned offset (R6). -/
def State.tq (s : State) (x : Nat) : Nat := (s.tw x).toNat + 2 ^ 32 * (s.tw (x + 4)).toNat

/-- The 64-bit table entry replaced. -/
def State.setTq (s : State) (x : Nat) (v : Nat) : State :=
  (s.setTw x (BitVec.ofNat 32 v)).setTw (x + 4) (BitVec.ofNat 32 (v / 2 ^ 32))

/-! ### Parts -/

def State.chan (s : State) (g : Nat) : Chan := tget chan0 s.chans g
def State.setChan (s : State) (g : Nat) (v : Chan) : State := { s with chans := tput chan0 s.chans g v }
def State.updChan (s : State) (g : Nat) (f : Chan → Chan) : State := s.setChan g (f (s.chan g))
def State.skein (s : State) (k : Nat) : Skein := tget skein0 s.skeins k
def State.setSkein (s : State) (k : Nat) (v : Skein) : State := { s with skeins := tput skein0 s.skeins k v }
def State.updSkein (s : State) (k : Nat) (f : Skein → Skein) : State := s.setSkein k (f (s.skein k))
/-- Slot s of skein k; key 64k + s. -/
def State.slot (s : State) (k j : Nat) : Slot := tget slot0 s.slots (64 * k + j)
def State.setSlot (s : State) (k j : Nat) (v : Slot) : State := { s with slots := tput slot0 s.slots (64 * k + j) v }
def State.updSlot (s : State) (k j : Nat) (f : Slot → Slot) : State := s.setSlot k j (f (s.slot k j))
def State.eng (s : State) (k : Nat) : Eng := tget eng0 s.engs k
def State.setEng (s : State) (k : Nat) (v : Eng) : State := { s with engs := tput eng0 s.engs k v }
def State.updEng (s : State) (k : Nat) (f : Eng → Eng) : State := s.setEng k (f (s.eng k))
def State.vu (s : State) (k : Nat) : VU := tget vu0 s.vus k
def State.setVu (s : State) (k : Nat) (v : VU) : State := { s with vus := tput vu0 s.vus k v }
def State.updVu (s : State) (k : Nat) (f : VU → VU) : State := s.setVu k (f (s.vu k))
def State.dom (s : State) (d : Nat) : Dom := tget dom0 s.doms d
def State.setDom (s : State) (d : Nat) (v : Dom) : State := { s with doms := tput dom0 s.doms d v }
def State.updDom (s : State) (d : Nat) (f : Dom → Dom) : State := s.setDom d (f (s.dom d))
def State.strm (s : State) (i : Nat) : Strm := tget strm0 s.strms i
def State.setStrm (s : State) (i : Nat) (v : Strm) : State := { s with strms := tput strm0 s.strms i v }
def State.updStrm (s : State) (i : Nat) (f : Strm → Strm) : State := s.setStrm i (f (s.strm i))

def State.port (s : State) (n : Nat) : MPort := tget mport0 s.ports n
def State.updPort (s : State) (n : Nat) (f : MPort → MPort) : State :=
  { s with ports := tput mport0 s.ports n (f (s.port n)) }
def State.pchan (s : State) (p : Nat) : PChan := tget pchan0 s.pcs p
def State.updPc (s : State) (p : Nat) (f : PChan → PChan) : State := { s with pcs := tput pchan0 s.pcs p (f (s.pchan p)) }
def State.dma (s : State) (n : Nat) : Dma := tget dma0 s.dmas n
def State.updDma (s : State) (n : Nat) (f : Dma → Dma) : State := { s with dmas := tput dma0 s.dmas n (f (s.dma n)) }
def State.updTbs (s : State) (f : Tbs → Tbs) : State := { s with tbs := f s.tbs }
def sens0 : Nat → Sens := fun _ => {}
def State.updThms (s : State) (f : Thms → Thms) : State := { s with thms := f s.thms }
def State.sens (s : State) (i : Nat) : Sens := tget sens0 s.thms.sens i
def State.updSens (s : State) (i : Nat) (f : Sens → Sens) : State :=
  s.updThms (fun x => { x with sens := tput sens0 x.sens i (f (s.sens i)) })
def State.updCals (s : State) (f : Cals → Cals) : State := { s with cals := f s.cals }
def State.updMemc (s : State) (f : MemC → MemC) : State := { s with memc := f s.memc }
def State.hring (s : State) (h : Nat) : HRing := tget hring0 s.hrings h
def State.updHring (s : State) (h : Nat) (f : HRing → HRing) : State :=
  { s with hrings := tput hring0 s.hrings h (f (s.hring h)) }
def State.lp (s : State) (q : Nat) : LPort := tget lport0 s.lps q
def State.updLp (s : State) (q : Nat) (f : LPort → LPort) : State := { s with lps := tput lport0 s.lps q (f (s.lp q)) }
def State.updLnk (s : State) (f : Lnk → Lnk) : State := { s with lnk := f s.lnk }

/-- A change made for each number below `n` in ascending order. -/
def forN (n : Nat) (f : Nat → State → State) (s : State) : State := (List.range n).foldl (fun t i => f i t) s

/-- A change made for each element of a list in order. -/
def forL {α : Type} (l : List α) (f : α → State → State) (s : State) : State := l.foldl (fun t a => f a t) s

/-! ### Free values and outputs -/

/-- The free counter advanced. (DEDUCED, log 118.) -/
def State.fresh (s : State) : State := { s with free := s.free + 1 }

/-- An output recorded. -/
def State.out (s : State) (o : Out) : State := { s with outbox := o :: s.outbox }

/-! ### Time (R48, R51) -/

/-- Elapsed ft at the start of the present cycle. -/
def State.eft (s : State) : Nat := s.cycle * ftPerNs

/-- An instant of the elapsed scale on the local scale of R48. -/
def State.toLocal (s : State) (e : Nat) : Nat :=
  (e + (s.coarse + coarseMod - s.cycle % coarseMod) * ftPerNs) % ftMod

/-- The local ft at the start of the present cycle. -/
def State.nowFt (s : State) : Nat := s.coarse * ftPerNs

/-- How often the coarse count has been loaded (R51). -/
def State.loads (s : State) : Nat := s.tbs.shifts.length

/-- The local ft at the start of the present cycle on the scale that was in use after `ep` loads. -/
def State.nowOn (s : State) (ep : Nat) : Nat := ((s.nowFt - (s.tbs.shifts.drop ep).sum : Int) % (ftMod : Int)).toNat

/-- The spans in which DLL_LOCK of skein k was 0, in elapsed ft, newest first (R130). -/
def State.unlks (s : State) (k : Nat) : List (Nat × Option Nat) := tget (fun _ => [(0, none)]) s.dllLog k

/-- A span with DLL_LOCK of skein k at 0 begins, or ends, in the present cycle. -/
def noteDll (k : Nat) (lock : Bool) (s : State) : State :=
  let l := match s.unlks k, lock with
    | (a, none) :: l, true => (a, some s.eft) :: l
    | l, true => l
    | (a, none) :: l, false => (a, none) :: l
    | l, false => (s.eft, none) :: l
  { s with dllLog := tput (fun _ => [(0, none)]) s.dllLog k l }

/-- An instant in local ft as a stamp word with flags 0. -/
def stampAt (t : Nat) : Word := BitVec.ofNat 64 (t % ftMod * 8)

/-- The interval of R49, signed. -/
def delta (t1 t2 : Nat) : Int := toSigned 61 ((t2 % ftMod + ftMod - t1 % ftMod) % ftMod)

/-- Addition of a signed amount on the local scale. -/
def shiftFt (t : Nat) (d : Int) : Nat := (((t : Int) + d) % (ftMod : Int)).toNat

/-- Whether coarse count `a` has been reached (R164, R187). (DEDUCED, log 70.) -/
def State.reached (s : State) (a : Nat) : Bool := decide ((s.coarse + coarseMod - a % coarseMod) % coarseMod < 2 ^ 51)

/-! ### MRAM (R337) -/

/-- A 32-bit word of MRAM at a byte address. (DESIGN CHOICE, log 24.) -/
def State.mramW (s : State) (a : Nat) : BitVec 32 := tget (fun _ => 0#32) s.mram a

/-- Bytes of MRAM. -/
def State.mramBytes (s : State) (a n : Nat) : List Byte :=
  (List.range (n / 4)).flatMap (fun i => leBytes 4 (s.mramW (a + 4 * i)).toNat)

/-- A 32-bit word of MRAM replaced. -/
def State.setMramW (s : State) (a : Nat) (w : BitVec 32) : State := { s with mram := tput (fun _ => 0#32) s.mram a w }

/-- A 2-byte value of MRAM at an even address, signed. -/
def State.mramHalf (s : State) (a : Nat) : Int := toSigned 16 ((s.mramW (a / 4 * 4)).toNat / 2 ^ (8 * (a % 4)))

/-! ### Power domains (R357, R361) -/

/-- Whether domain d is at power good. -/
def State.domOn (s : State) (d : Nat) : Bool :=
  if d < 64 then s.bit bThm F.Thm.PDSTAT d else s.bit bThm F.Thm.PDSTAT1 (d - 64)

/-- Whether domain d is enabled. -/
def State.domEn (s : State) (d : Nat) : Bool :=
  if d < 64 then s.bit bThm F.Thm.PDEN d else s.bit bThm F.Thm.PDEN1 (d - 64)

/-- The power domain that must be on for an access to an offset of the normal view (R357, R392, R394); none is
always-on. The staging window's domain depends on its page. -/
def domainOf (page : Nat) (x : Nat) : Option Nat :=
  if x < bTrs then none
  else if x < bMem then some 87
  else if x < bLnk then (if bMem + 0x2000 ≤ x ∧ x < bMem + 0x2800 then some (64 + (x - bMem - 0x2000) / 0x80) else none)
  else if x < bHif then (if bLnk + 0x40 ≤ x ∧ x < bLnk + 0xc0 then some (81 + 2 * ((x - bLnk - 0x40) / 0x40)) else none)
  else if x < 0x80000 then some 84
  else if x < 0x100000 then none
  else if x < 0x300000 then some (32 + (x - 0x100000) / 0x10000)
  else if x < tTiming then none
  else if x < tLevel then some (32 + (x - tTiming) / 0x10000)
  else if x < tPeriod then some (32 + (x - tLevel) / 0x800)
  else if x < tPeriod + 0x1000 then some (32 + (x - tPeriod) / 0x80)
  else if tSite ≤ x ∧ x < tSite + 0x800 then some (32 + (x - tSite) / 64)
  else if tRing ≤ x ∧ x < tRing + 0x40000 then some 84
  else if tHist ≤ x ∧ x < tHist + 0x40000 then some (32 + (x - tHist) / 0x2000)
  else if tSnap ≤ x ∧ x < tSnap + 0x8000 then some 85
  else if tSram ≤ x ∧ x < tSram + 0x20000 then some (if page < 128 then 85 else 86)
  else none

/-! ### Conditions of the device -/

/-- The engine state of R136. -/
def State.engState (s : State) (k : Nat) : Nat := s.rd (bEng k) F.Eng.ESTAT.STATE

/-- Running: LOADING, RUN, WAIT or DRAIN (R136). -/
def State.engRunning (s : State) (k : Nat) : Bool :=
  let e := s.engState k
  decide (1 ≤ e ∧ e ≤ 4)

/-- A freeze is in force (R285). -/
def State.frozen (s : State) : Bool := decide (s.rd bMem F.Mem.MSTAT.FROZEN = 1)

/-- The device counts as in holdover in every state but LOCKED (R292). -/
def State.holdover (s : State) : Bool := decide (s.rd bTb F.Tb.TBSTAT.STATE ≠ 1)

/-- DLL_LOCK of a skein (R53). -/
def State.dllLock (s : State) (k : Nat) : Bool := decide (s.rd (bSk k) F.Sk.TCSTAT.DLL_LOCK = 1)

/-- The splice offset OFS in force, signed ft. -/
def State.ofs (s : State) : Int := s.rdInt bTb F.Tb.SPLOFS

/-- This device's ring position (R315). -/
def State.pos (s : State) : Nat := s.rd bLnk F.Lnk.LSTAT.POS

/-- The device is the head (R315): the HEAD strap. -/
def State.isHead (s : State) : Bool := decide (s.rd bCtl F.Ctl.STRAP.HEAD = 1)

/-- An instruction of the test access port that takes the pins away from the device is in its register (R448). -/
def disturbs (ir : BitVec 8) : Bool :=
  ir == 0x00#8 || ir == 0x04#8 || ir == 0x05#8 || ir == 0x08#8 || ir == 0x09#8
def State.scanOn (s : State) : Bool := disturbs s.jtag.ir

/-- A FIRE line as the boundary register drives it: pulled low where its cell is 0 (R448). (DEDUCED, log 117.) -/
def State.firePulled (s : State) (d : Nat) : Bool := !s.jtag.bsr.getLsbD (Config.fireCell d % 1168)

/-! ### Running a command -/

/-- A command acts while the device runs; while POR_N is asserted or the supplies are gone nothing happens; in the
state R448 calls undefined the machine stops.
(DESIGN CHOICE, log 3.) (DESIGN CHOICE, log 4.) (DESIGN CHOICE, log 120.) -/
def act (s : State) (f : State → State) : Outcome State Fault Refusal :=
  match s.phase with
  | .running => .next (f s)
  | .held => .next s
  | .off => .next s
  | .undefined => .fault .undefinedState

/-- An effect that takes place only where its condition holds; else nothing changes.
(DESIGN CHOICE, log 3.) (DEDUCED, log 70.) -/
def whenB (c : Bool) (f : State → State) (s : State) : State := if c then f s else s

end Sys2Proof.Machine
end

