-- ==== Sys2Proof/Machine/Hitch.lean ====
section
/-! DEFINITION. Commits on their way to the blocks (R375-R378): which unit has one due, and what happens when a unit has
applied its own. -/

namespace Sys2Proof.Machine

/-- A commit that unit `u` has yet to apply and may apply now (a scheduled one from coarse cycle AT on). -/
def State.unitCommit (s : State) (u : HUnit) : Option Commit :=
  s.commits.reverse.find? (fun c => c.waiting.contains u && (match c.at_ with | none => true | some a => s.reached a))

/-- Its staged copies. -/
def State.unitSnap (s : State) (u : HUnit) : Option (Table Word) := (s.unitCommit u).map (·.snap)

/-- A commit has come to its time: a local one at once, a scheduled one from coarse cycle AT on. -/
def State.ripe (s : State) (c : Commit) : Bool := match c.at_ with | none => true | some a => s.reached a

/-- Commits that every unit has applied are complete: PEND clears and DONE_g advances (R375). A
commit of MSET belongs to no group (group 8). -/
def commitSweep (s : State) : State :=
  let ovr := fun (c : Commit) => c.waiting.isEmpty && c.hit
  let done := s.commits.filter ovr
  let s1 : State := { s with commits := s.commits.filter (fun c => !ovr c) }
  forL done (fun c t =>
    let f : Fld := { off := F.Ctl.HITCH_CNT.off, hi := 8 * c.group + 7, lo := 8 * c.group }
    if c.group < 8 then
      let t1 := t.inc bCtl f 1
      if s1.commits.any (fun x => x.group == c.group) then t1 else t1.setBit bCtl F.Ctl.HITCH_STAT.PEND c.group false
    else t) s1

/-- Unit `u` has applied the commit that was due for it. -/
def unitDone (u : HUnit) (s : State) : State :=
  commitSweep { s with commits := s.commits.map (fun c =>
    if (match c.at_ with | none => true | some a => s.reached a) then { c with waiting := c.waiting.filter (· ≠ u) } else c) }

/-- A block whose domain goes off discards its commits (R376). (DEDUCED, log 30.) -/
def unitsDrop (p : HUnit → Bool) (s : State) : State :=
  commitSweep { s with commits := s.commits.map (fun c => { c with waiting := c.waiting.filter (fun u => !p u) }) }

def uLevels (g : Nat) : HUnit := .levels (Fin.ofNat 512 g)
def uEcho (g : Nat) : HUnit := .echo (Fin.ofNat 512 g)
def uEpsk (k : Nat) : HUnit := .epsk (Fin.ofNat 32 k)
def uSlot (k j : Nat) : HUnit := .slot (Fin.ofNat 32 k) (Fin.ofNat 64 j)
def uEngine (k : Nat) : HUnit := .engine (Fin.ofNat 32 k)
def uCond (i : Nat) : HUnit := .cond (Fin.ofNat 16 i)
def uStream (i : Nat) : HUnit := .stream (Fin.ofNat 64 i)

/-! ### Taking a commit (R374-R378) -/

/-- The hitch group of skein k (R149). (DEDUCED, log 50.) -/
def State.hgroup (s : State) (k : Nat) : Nat := s.rd (bEng k) F.Eng.ECFG.HGRP

/-- The units of group g that a commit taken now reaches: those whose domain is on and whose condition of R376 holds.
TCOND belongs to every group (R374). (DEDUCED, log 50.) -/
def State.unitsOf (s : State) (g : Nat) : List HUnit :=
  let skeins := (List.range 32).flatMap (fun k =>
    if s.hgroup k = g ∧ s.domOn (32 + k) then
      (List.range 16).flatMap (fun c => [uLevels (16 * k + c), uEcho (16 * k + c)]) ++ [uEpsk k] ++
        (List.range 64).map (uSlot k) ++ (if s.engRunning k then [] else [uEngine k])
    else [])
  let conds := if s.domOn 87 then (List.range 16).filterMap (fun i =>
    if s.rd (bDom (s.rd (bCond i) F.Trs.TCOND.DOM)) F.Trs.DSTAT.STATE = 2 then none else some (uCond i)) else []
  let streams := if s.domOn 87 then (List.range 64).filterMap (fun i =>
    if s.rd (bStr i) F.Trs.SCTL.HGRP = g ∧ s.rd (bStr i) F.Trs.SCTL.EN = 0 ∧ s.rd (bStr i) F.Trs.SSTAT.IDLE = 1 then
      some (uStream i) else none) else []
  skeins ++ conds ++ streams ++ (if s.rd bCtl F.Ctl.BLKGRP.TB = g then [.tb] else []) ++
    (if s.rd bCtl F.Ctl.BLKGRP.MEM = g ∧ s.rd bMem F.Mem.MCTL.EN = 0 then [.mem] else [])

/-- The commit of a group reaches its skeins: their engines have the HITCH event (R165). (DEDUCED, log 49.) -/
def hitchEvent (g : Nat) (s : State) : State :=
  forN 32 (fun k t => if t.hgroup k = g ∧ t.domOn (32 + k) then t.updEng k (fun e => { e with hitchEv := true }) else t) s

/-- The skeins whose engines run (R23, R136). -/
def State.ranSkeins (s : State) : List Nat := (List.range 32).filter (fun k => s.engRunning k)

/-- The staged copies that a commit carries (R375, R386): without what an MSET of the present cycle has staged, and a
scheduled commit without the host's writes of its cycle too. -/
def State.commitCopies (s : State) (scheduled : Bool) : Table Word :=
  if scheduled then s.staged0
  else s.slots.foldl (fun t p => match p.2.mset with
    | some (c, r) =>
      let x := bSlot (p.1 / 64) (p.1 % 64) + 8 * r
      if c = s.cycle then tput regReset t x (tget regReset s.staged0 x) else t
    | none => t) s.staged

/-- A hitch of the groups of a mask fires (R375, R377): every group's commit is taken at once, and replaces an earlier one
in each unit that has yet to apply it. -/
def takeCommits (mask : Nat) (at_ : Option Nat) (s : State) : State :=
  let gs := (List.range 8).filter (fun g => mask.testBit g)
  if gs = [] then s
  else
    let late := match at_ with | none => true | some a => s.reached a
    let units := gs.flatMap s.unitsOf
    let s1 := s.inc bCtl F.Ctl.HITCH_STAT.SUPERSEDED (gs.filter (fun g => s.bit bCtl F.Ctl.HITCH_STAT.PEND g)).length
    let olds := s1.commits.map (fun c =>
      if c.group < 8 then { c with waiting := c.waiting.filter (fun u => !units.contains u) } else c)
    let news : List Commit := gs.map (fun g =>
      { group := g, snap := s.commitCopies at_.isSome, at_ := at_, waiting := s.unitsOf g, hit := late,
        ran := if late then s.ranSkeins else [] })
    let s2 : State := { s1 with commits := olds ++ news }
    commitSweep (forL gs (fun g t => (if late then hitchEvent g t else t).setBit bCtl F.Ctl.HITCH_STAT.PEND g true) s2)

/-- The HITCH event of scheduled commits whose coarse cycle AT has come (R165, R378). (DEDUCED, log 49.) -/
def hitchTick (s : State) : State :=
  let due := s.commits.filter (fun c => !c.hit && s.ripe c)
  if due.isEmpty then s
  else
    let s1 := forL due (fun c t => hitchEvent c.group t) s
    commitSweep { s1 with commits := s1.commits.map (fun c =>
      if !c.hit ∧ s.ripe c then { c with hit := true, ran := s.ranSkeins } else c) }

end Sys2Proof.Machine
end

