-- ==== Sys2Proof/Machine/Access.lean ====
section
/-! DEFINITION. What every write access does before it acts (R361, R379-R383, R385): the power domain is judged, the
unlock of the block is consumed, a held low word is discarded, and a lock violation is recorded. -/

namespace Sys2Proof.Machine

open Host

/-- The block of an offset of the device window, for unlocks and pending-low buffers: 0 CTL to 7 HIF, 8 + k skein k, 40
the aperture. -/
def blkOf (x : Nat) : Nat :=
  if x < 0x80000 then x / 0x10000
  else if 0x100000 ≤ x ∧ x < 0x300000 then 8 + (x - 0x100000) / 0x10000
  else 40

/-- The number of a block that holds an UNLOCK register. -/
def blkNo : Blk → Nat
  | .ctl => 0 | .tb => 1 | .thm => 2 | .cal => 3 | .mem => 5 | .lnk => 6 | .hif => 7

/-- The unlock of block b is armed and has not expired (R379). -/
def State.armed (s : State) (b : Nat) : Bool :=
  match tget (fun _ => none) s.unlockAt b with
  | some e => decide (s.cycle < e)
  | none => false

/-- The unlock of block b armed until `e`, or disarmed. -/
def State.setUnlock (s : State) (b : Nat) (e : Option Nat) : State :=
  { s with unlockAt := tput (fun _ => none) s.unlockAt b e }

/-- The held low word of block b. -/
def State.low (s : State) (b : Nat) : Option (Nat × BitVec 32) := tget (fun _ => none) s.lowBuf b

/-- The held low word of block b replaced. -/
def State.setLow (s : State) (b : Nat) (v : Option (Nat × BitVec 32)) : State :=
  { s with lowBuf := tput (fun _ => none) s.lowBuf b v }

/-- SEAL.KEYOFF is in force (R383). (DEDUCED, log 38.) -/
def State.sealed (s : State) : Bool := decide (s.rd bCtl F.Ctl.SEAL.KEYOFF = 1)

/-- A lock violation by an access to device window offset `x` (R382). (DEDUCED, log 40.) -/
def lockViol (x : Nat) (once : Bool) (s : State) : State :=
  let first := decide (s.rd bCtl F.Ctl.ERR.LOCKVIOL = 0)
  let s1 := if first then
      (s.wr bCtl F.Ctl.LVADDR.OFFSET x).wr bCtl F.Ctl.LVADDR.ONCE (b2n once)
    else s
  (s1.incSat bCtl F.Ctl.LVADDR.COUNT 1).raise bCtl F.Ctl.ERR.LOCKVIOL 0

/-- An access reached a domain that is off or not yet at power good (R361). -/
def offDomain (s : State) : State := s.raise bCtl F.Ctl.ERR.OFFDOMAIN 0

/-- Whether the power domain of a decoded offset is on. The host ring table is a hole on every device but the head (R235,
R368). -/
def State.reachable (s : State) (x : Nat) : Bool :=
  if tRing ≤ x ∧ x < tRing + 0x40000 ∧ !s.isHead then true
  else match domainOf (s.rd bCtl F.Ctl.SRPAGE.PAGE) x with
  | some d => s.domOn d
  | none => true

/-- A write access to the block of `x` takes place: its unlock is consumed and its held low word discarded.
(DEDUCED, log 37.) (DEDUCED, log 39.) -/
def touch (x : Nat) (s : State) : State := (s.setUnlock (blkOf x) none).setLow (blkOf x) none

/-- What a view makes of a bit pattern (R366). -/
def viewVal (v : View) (old w : Word) : Word :=
  match v with
  | .normal => w
  | .set => old ||| w
  | .clear => old &&& ~~~ w
  | .toggle => old ^^^ w

/-- The fields of a register whose class satisfies the test taken from `new`, the others from `old`. -/
def mergeFields (p : Cls → Bool) (r : RegRow) (old new : Word) : Word :=
  r.fields.foldl (fun w f => if p f.cls then fset w f.hi f.lo (fget new f.hi f.lo) else w) old

/-- The LIVE fields of the register at `x` written through a view. (DEDUCED, log 64.) -/
def liveWrite (x : Nat) (v : View) (w : Word) (s : State) : State :=
  match rowAt x with
  | none => s
  | some r => s.setReg x (mergeFields (fun c => c == .live) r (s.reg x) (viewVal v (s.reg x) w))

/-- The word with its STAGED fields taken from a staged word. -/
def takeStaged (r : RegRow) (staged applied : Word) : Word :=
  r.fields.foldl (fun w f => if f.cls = .staged ∨ f.cls = .gstaged then fset w f.hi f.lo (fget staged f.hi f.lo) else w)
    applied

/-- The register at `x` takes its staged copy from a commit's snapshot (R373, R375). -/
def applyReg (snap : Table Word) (x : Nat) (s : State) : State :=
  match rowAt x with
  | none => s
  | some r => s.setReg x (takeStaged r (tget regReset snap x) (s.reg x))

/-- A write of 1 to a command bit of the register at normal-view offset `x` (R361, R366, R379, R380, R383): with the
domain off it is dropped; a GUARDED command needs the unlock armed, and under KEYOFF a recovery write. -/
def cmdAccess (x : Nat) (guarded recovery : Bool) (f : State → State) (s : State) : State :=
  let b := blkOf x
  let ok := s.armed b && (!s.sealed || recovery)
  let s1 := touch x s
  if !s.reachable x then offDomain s1
  else if guarded && !ok then lockViol x false s1
  else f s1

/-- CH_EN of channel g in force at elapsed ft `at_` of the present cycle (R46). -/
def State.enabledAt (s : State) (g at_ : Nat) : Bool :=
  if at_ < (s.chan g).enAt then (s.chan g).enWas else decide (s.rd (bCh g) F.Ch.PECFG.CH_EN = 1)

end Sys2Proof.Machine
end

