-- ==== Sys2Proof/Machine/Deskew.lean ====
section
/-! DEFINITION. What a driver deskew has in common with the rest of the device (R330-R332, R335): how it ends for a channel,
by CAL or by what aborts it (an engine start, a freeze, a channel that enters safe state), and what edges and stamps tell
it. -/

namespace Sys2Proof.Machine

/-- The driver and load of the safe condition PECFG.SAFE selects (R43). -/
def safeDrive (s : State) (g : Nat) (c : Chan) : Chan :=
  match s.rd (bCh g) F.Ch.PECFG.SAFE with
  | 0 => { c with drive := .hiZ, loadOn := false }
  | 1 => { c with drive := .vil, loadOn := false }
  | 2 => { c with drive := .vterm, loadOn := false }
  | _ => { c with drive := .hiZ, loadOn := true }

/-- CSTAT.BUSY: a host or triggered run, or a deskew, is in progress. -/
def calBusy (s : State) : State :=
  s.wr bCal F.Cal.CSTAT.BUSY (b2n (s.cals.dsk.isSome || (List.range 32).any (fun k => (s.skein k).run.isSome)))

/-- CDEFER counts a channel once in a deskew. -/
def dskCount (c : Nat) (s : State) : State :=
  match s.cals.dsk with
  | none => s
  | some d =>
    if d.counted.contains c then s
    else (s.updCals (fun x => { x with dsk := some { d with counted := c :: d.counted } })).inc bCal F.Cal.CDEFER 1

/-- The worst status of a deskew: FAILED, REJECT, INPUT_ACTIVE, ABORTED, DEFERRED, OK (R332); OFFDOMAIN where the domain
was off, and so for every channel (R321). -/
def dskWorst (l : List Nat) : Nat := ([6, 2, 3, 5, 4, 7, 1].find? (fun c => l.contains c)).getD 0

/-- Once every named channel has a final status, CSKSTAT.DSK takes the worst and the deskew is over (R332).
(DEDUCED, log 110.) -/
def dskSweep (s : State) : State :=
  match s.cals.dsk with
  | none => s
  | some d =>
    if d.listen.isEmpty && d.wait.isEmpty && d.pulse.isEmpty then
      calBusy ((s.updCals (fun x => { x with dsk := none })).wr (bCal + 8 * d.sk) F.Cal.CSKSTAT.DSK
        (dskWorst (d.final.map (·.2))))
    else s

/-- Channel c of a deskew has its final status, and no pulse of it is left; a channel in safe state returns to its safe
condition (R43), another's driver stays as the deskew left it. (DESIGN CHOICE, log 162.) -/
def dskFinal (c code : Nat) (s : State) : State :=
  match s.cals.dsk with
  | none => s
  | some d =>
    let d1 : Dsk := { d with listen := d.listen.filter (fun p => p.1 ≠ c), wait := d.wait.filter (fun p => p.1 ≠ c),
                             pulse := d.pulse.filter (fun p => p.1 ≠ c), final := d.final ++ [(c, code)] }
    let g := 16 * d.sk + c
    ((s.updCals (fun x => { x with dsk := some d1 })).wr (bCal + 8 * g) F.Cal.CCHQ.DSKST code).updChan g
      (fun h =>
        let h1 := { h with evs := h.evs.filter (fun e => !e.pulse), echoes := h.echoes.filter (fun e => e.code.isNone) }
        if h.safe then safeDrive s g h1 else h1)

/-- The deskew of global channel g, if one is in progress, ends with ABORTED (R332). -/
def dskAbortCh (g : Nat) (s : State) : State :=
  match s.cals.dsk with
  | none => s
  | some d =>
    if d.sk = g / 16 ∧ (d.listen.any (fun p => p.1 == g % 16) || d.wait.any (fun p => p.1 == g % 16) ||
        d.pulse.any (fun p => p.1 == g % 16)) then dskSweep (dskFinal (g % 16) 5 s)
    else s

/-- Every channel of skein k in a deskew ends with ABORTED. -/
def dskAbortSk (k : Nat) (s : State) : State := if s.cals.dsk.isNone then s else forN 16 (fun c t => dskAbortCh (16 * k + c) t) s

/-- A comparator output of global channel g has changed: in a listen on it, the channel gets INPUT_ACTIVE (R330, R335). -/
def noteListen (g : Nat) (s : State) : State :=
  match s.cals.dsk with
  | none => s
  | some d =>
    let c := g % 16
    if d.sk = g / 16 ∧ d.listen.any (fun p => p.1 == c && decide (s.cycle < p.2.2 + 10000)) ∧ !d.seen.contains c then
      (dskCount c (s.updCals (fun x => { x with dsk := some { d with seen := c :: d.seen } }))).wr (bCal + 8 * g)
        F.Cal.CCHQ.DSKST 3
    else s

/-- A stamp of comparator `ch` of global channel g at `t`: in the channel's pulse phase, one of the echo comparator that
lies not within 128 ft of an expected echo ends its deskew with INPUT_ACTIVE (R332). -/
def dskStray (g : Nat) (ch : Bool) (t : Nat) (s : State) : State :=
  match s.cals.dsk with
  | none => s
  | some d =>
    let within := fun (p : Nat × Nat) =>
      let x := delta (s.toLocal (p.2 * ftPerNs)) t
      decide (p.1 = g % 16 ∧ 0 ≤ x ∧ x < 10240 * ftPerNs)
    if d.sk = g / 16 ∧ d.pulse.any within ∧ ch = decide (s.rd (bCh g) F.Ch.EPCFG.ECHO_COMP = 1) ∧
        !(s.chan g).echoes.any (fun e => e.code.isSome && decide (-128 ≤ delta e.x t ∧ delta e.x t ≤ 128)) then
      dskSweep (dskFinal (g % 16) 3 (dskCount (g % 16) s))
    else s

/-- The skew of a fine echo of a deskew pulse on global channel g joins the sample (R331). -/
def dskSkew (g : Nat) (rising : Bool) (code : Nat) (skew : Int) (s : State) : State :=
  s.updCals (fun x => { x with dsk := x.dsk.map (fun d => { d with skews := d.skews ++ [⟨g % 16, rising, code, skew⟩] }) })

end Sys2Proof.Machine
end

