-- ==== Sys2Proof/Machine/Record.lean ====
section
/-! DEFINITION. Records, marks and the raw formatter of the streams (R222-R234, R247-R249), and the trigger conditions (R216, R217):
the operations that every family uses. -/

namespace Sys2Proof.Machine

/-! ### Building records -/

/-- A record's length in 16-byte units, header included (R222). -/
def Rec.units (r : Rec) : Nat := 1 + (r.payload.length + 15) / 16

/-- The items a record holds (R247): its raw stamps for a RAW record, else one. -/
def Rec.items (r : Rec) : Nat := if r.kind = 1 then r.raw else 1

/-- The bytes of a record committed as `seq` (R222). -/
def Rec.bytes (r : Rec) (seq : Nat) : List Byte :=
  let body := leBytes 2 (r.kind + 16 * r.sub + 256 * r.flags) ++ leBytes 2 r.units ++ leBytes 4 seq ++
    leBytes 8 r.ref.toNat ++ r.payload
  body ++ List.replicate (16 * r.units - body.length) 0#8

/-- A mark record (R230); `hold`: the device is in holdover at REF (R223). -/
def markRec (kind src : Nat) (a0 a1 a2 ref : Word) (hold : Bool) : Rec :=
  { kind := 4, sub := 0, flags := 128 * b2n hold, ref := ref,
    payload := leBytes 2 kind ++ leBytes 2 src ++ leBytes 4 0 ++ leBytes 8 a0.toNat ++ leBytes 8 a1.toNat ++
      leBytes 8 a2.toNat,
    raw := 0, dec := 0 }

/-- The words of a RAW payload after the keyframe: deltas (R225). -/
def deltaWords : Nat → List Stamp → List Byte
  | _, [] => []
  | p, x :: t => leBytes 4 ((delta p x.t).toNat % 2 ^ 28 * 16 + b2n x.shed * 4 + b2n x.ch * 2 + b2n x.rising) ++
      deltaWords x.t t

/-- Escape and fill words up to the next unit boundary (R225). -/
def rawFill (n : Nat) : List Byte := (List.replicate ((16 - n % 16) % 16 / 4) (leBytes 4 8)).flatten

/-- The RAW record of an open record that closes at `ref` ft (R223, R225). -/
def rawRec (o : RawOpen) (ref : Nat) (last : Bool) : Rec :=
  let body := match o.stamps with
    | [] => []
    | x :: t => leBytes 8 x.word.toNat ++ deltaWords x.t t
  { kind := 1, sub := o.c,
    flags := 128 * b2n (o.stamps.any (·.hold)) + 64 * b2n (o.stamps.any (·.unlk)) + 8 * o.level + 2 * o.win + b2n last,
    ref := stampAt ref, payload := body ++ rawFill body.length, raw := o.stamps.length, dec := o.decs.length, wno := o.wno }

/-! ### Streams -/

/-- The stream takes items: TRS is on, EN = 1 and no earlier disable is still draining (R233, R249). -/
def State.strOn (s : State) (i : Nat) : Bool :=
  s.domOn 87 && decide (s.rd (bStr i) F.Trs.SCTL.EN = 1) && !(s.strm i).enWait

/-- The stream captures in windows (R239). -/
def State.windowed (s : State) (i : Nat) : Bool :=
  decide (s.rd (bStr i) F.Trs.S_SCFG.WINDOW = 1 ∧ s.rd (bStr i) F.Trs.S_SCFG.DOM < 4)

/-- One item joins the records on their way to the commit (R247). -/
def pushItem (i : Nat) (r : Rec) (s : State) : State :=
  (s.inc (bStr i) F.Trs.GENERATED 1).updStrm i (fun x => { x with queue := x.queue ++ [r], pend := x.pend + 1 })

/-- A RESULT, SITE, MARK or KEYFRAME record handed to an enabled stream: one item (R247). -/
def offer (i : Nat) (r : Rec) (s : State) : State :=
  if s.strOn i then pushItem i r s else s

/-- Holdover spans meet the interval from `a` to `b` (R130). (DEDUCED, log 68.) -/
def holdMeets (log : List (Nat × Option Nat)) (a b : Nat) : Bool :=
  log.any (fun p => decide (0 ≤ delta p.1 b) && (match p.2 with | none => true | some e => decide (0 ≤ delta a e)))

/-- The device was in holdover at an instant of the local scale (R223). -/
def State.holdAt (s : State) (t : Nat) : Bool := holdMeets s.holdLog t t

/-- A mark of one stream whose reference instant is the present. -/
def offerMark (i kind src : Nat) (a0 a1 a2 ref : Word) (s : State) : State :=
  offer i (markRec kind src a0 a1 a2 ref s.holdover) s

/-- A device mark: to every enabled stream with DEVMARK = 1 (R233). -/
def devMark (kind src : Nat) (a0 a1 a2 ref : Word) (s : State) : State :=
  forN 64 (fun i t => if t.rd (bStr i) F.Trs.S_SCFG.DEVMARK = 1 then offerMark i kind src a0 a1 a2 ref t else t) s

/-- The KEYFRAME record of R232 at an instant. -/
def keyframeRec (s : State) (ref : Word) : Rec :=
  { kind := 5, sub := 0, flags := 128 * b2n s.holdover, ref := ref,
    payload := leBytes 8 (s.rd bTb F.Tb.EPNUM) ++ leBytes 8 (ofSigned 64 s.ofs) ++ leBytes 8 (b2n s.holdover) ++
      leBytes 8 0,
    raw := 0, dec := 0 }

/-- A KEYFRAME record to every enabled stream. -/
def keyframeAll (ref : Word) (s : State) : State := forN 64 (fun i t => offer i (keyframeRec t ref) t) s

/-- Bytes a capture ring holds: 2^SIZE_LOG2, 16 to 32, others as 16 (SRING). -/
def State.ringSize (s : State) (i : Nat) : Nat :=
  let n := s.rd (bStr i) F.Trs.SRING.SIZE_LOG2
  2 ^ (if 16 ≤ n ∧ n ≤ 32 then n else 16)

/-- The bytes that F counts: committed and not yet transported, and pre-trigger records held (R234). -/
def State.ringUsed (s : State) (i : Nat) : Nat :=
  let x := s.strm i
  (x.wpos - x.rpos) + (x.held.map (fun r => 16 * r.units)).sum

/-- SSTAT.FILL follows F. -/
def fillUpd (i : Nat) (s : State) : State :=
  s.wr (bStr i) F.Trs.SSTAT.FILL (min 127 (s.ringUsed i * 128 / s.ringSize i))

/-- IDLE: disabled, nothing of it under way and no GAP mark owed (R249). -/
def idleUpd (i : Nat) (s : State) : State :=
  let x := s.strm i
  s.wr (bStr i) F.Trs.SSTAT.IDLE
    (b2n ((decide (s.rd (bStr i) F.Trs.SCTL.EN = 0) || x.enWait) && decide (x.pend = 0) && x.buf.isEmpty && x.opens.isEmpty &&
      x.cuts.isEmpty && x.queue.isEmpty && !x.gapEnding))

/-- A closed RAW record: held before a trigger, keeping the newest PRE; else on its way to the commit (R239). A span of
decimated stamps alone makes no record; after a trigger its stamps count at once (R247). -/
def closeRaw (i : Nat) (o : RawOpen) (ref : Nat) (last : Bool) (s : State) : State :=
  let r := rawRec o ref last
  let d := o.decs.length
  if o.stamps = [] then
    if o.win = 2 then ((s.inc (bStr i) F.Trs.GENERATED d).inc (bStr i) F.Trs.DECIMATED d).updStrm i
      (fun x => { x with decSince := x.decSince + d })
    else s
  else if o.win = 1 then
    let pre := s.rd (bStr i) F.Trs.SWIN.PRE
    s.updStrm i (fun x => let h := x.held ++ [r]; { x with held := h.drop (h.length - pre) })
  else s.updStrm i (fun x => { x with queue := x.queue ++ [r] })

/-- A stamp of skein k that satisfies a test has been granted a unit, waits to be assembled or stands on the stamp bus, so
that it has not yet reached its consumers (R57). -/
def State.inFlight (s : State) (k : Nat) (p : Stamp → Bool) : Bool :=
  let sk := s.skein k
  sk.units.any (fun u => u.busy.any p) || sk.asm.any (fun q => p q.1) ||
  sk.bus.any (fun b => match b with | .stamp x => p x | .notice _ => false)

/-- An edge of the channel earlier than `t` is on its way. -/
def State.outstanding (s : State) (g t : Nat) : Bool :=
  s.inFlight (g / 16) (fun x => x.g == g && decide (0 < delta x.t t))

/-- The same for one comparator (R91). -/
def State.outstandingCmp (s : State) (g : Nat) (ch : Bool) (t : Nat) : Bool :=
  s.inFlight (g / 16) (fun x => x.g == g && x.ch == ch && decide (0 < delta x.t t))

/-! ### Trigger conditions (R216, R217) -/

/-- The domain state of R214. -/
def State.domState (s : State) (d : Nat) : Nat := s.rd (bDom d) F.Trs.DSTAT.STATE

/-- A firing of condition i for domain d with reference instant `ref` (R217, R231). (DEDUCED, log 116.) -/
def fireDom (d i : Nat) (ref : Word) (s : State) : State :=
  let len := max 5 (s.rd (bDom d) F.Trs.DCFG.PULSE) * 10
  let s1 := (s.inc (bDom d) F.Trs.DFIRES 1)
  let s2 := if (s.dom d).pulse.isSome ∨ s.scanOn then s1 else s1.out (.firePull d)
  s2.updDom d (fun x => { x with
    fired := some (i, ref), pulse := some (max (x.pulse.getD 0) (s.cycle + len)),
    fires := match x.fires with
      | some f => if f.cyc = s.cycle then some { f with n := f.n + 1 } else some ⟨s.cycle, 1, x.pulse, x.fired⟩
      | none => some ⟨s.cycle, 1, x.pulse, x.fired⟩ })

/-- Domain d enters HOLDOFF: what it fired in the present cycle pulls nothing (R251). -/
def unfire (d : Nat) (s : State) : State :=
  match (s.dom d).fires with
  | some f =>
    if f.cyc ≠ s.cycle then s
    else
      let s1 := (s.wr (bDom d) F.Trs.DFIRES (s.rd (bDom d) F.Trs.DFIRES + ctrMod - f.n)).updDom d (fun x => { x with
        pulse := f.pulse, fired := f.fired, fires := none })
      if f.pulse.isNone ∧ !s.scanOn then { s1 with outbox := s1.outbox.erase (.firePull d) } else s1
  | none => s

/-- A hit of condition i (R217). -/
def condHit (i : Nat) (ref : Word) (s : State) : State :=
  let d := s.rd (bCond i) F.Trs.TCOND.DOM
  let s1 := s.inc (bCond i) F.Trs.TCHIT 1
  if s.domState d = 2 ∧ s.rd (bDom d) F.Trs.DCFG.EN = 1 then
    let n := tget (fun _ => 0) s.condCnt i + 1
    let cnt := max 1 (s.rd (bCond i) F.Trs.TCOND.COUNT)
    if n % cnt = 0 then fireDom d i ref { s1 with condCnt := tput (fun _ => 0) s1.condCnt i 0 }
    else { s1 with condCnt := tput (fun _ => 0) s1.condCnt i n }
  else s1

/-- Every condition of a kind whose selector satisfies the test is hit. -/
def raiseCond (kind : Nat) (sel : Nat → Nat → Bool) (ref : Word) (s : State) : State :=
  if s.domOn 87 then
    forN 16 (fun i t =>
      if t.rd (bCond i) F.Trs.TCOND.KIND = kind ∧ sel (t.rd (bCond i) F.Trs.TCOND.DOM) (t.rd (bCond i) F.Trs.TCOND.SEL)
      then condHit i ref t else t) s
  else s

/-- The stamped edge as a hit of EDGE conditions: SEL is a source code of R96. -/
def srcTakes (code g : Nat) (ch rising : Bool) : Bool :=
  decide (code % 32 = g / 16) && decide (code / 32 % 16 = g % 16) && decide (code / 512 % 2 = b2n ch) &&
  (if rising then (code / 1024).testBit 0 else (code / 1024).testBit 1)

end Sys2Proof.Machine
end

