-- ==== Sys2Proof/Machine/Format.lean ====
section
/-! DEFINITION. The raw formatter of the streams (R225-R227, R239, R243, R245, R247): the stamps a stream takes, their
order, the records they enter, what closes a record, and the gap of raw capture. -/

namespace Sys2Proof.Machine

/-! ### Order (R226, R227) -/

/-- The stamp lies before the instant `ref` of the scale that was in use after `ep` loads of the coarse count. -/
def Stamp.before (x : Stamp) (ep ref : Nat) : Bool := decide (x.ep < ep) || (x.ep == ep && decide (0 < delta x.t ref))

/-- Insertion of a stamp in time order (R226). -/
def insStamp (x : Stamp) : List Stamp → List Stamp
  | [] => [x]
  | y :: t => if x.before y.ep y.t then x :: y :: t else y :: insStamp x t

/-- A stamp of channel c that stream i takes, earlier than an instant, is not yet final (R57, R227). A disabled stream
takes none. -/
def State.rawWaits (s : State) (i c ep ref : Nat) : Bool :=
  let sk := s.rd (bStr i) F.Trs.S_SCFG.SK
  let comp := s.rd (bStr i) F.Trs.S_SCFG.COMPMASK
  s.strOn i && (s.rd (bStr i) F.Trs.S_SCFG.CHMASK).testBit c &&
    s.inFlight sk (fun x => x.g == 16 * sk + c && comp.testBit (b2n x.ch) && x.before ep ref)

/-! ### Records (R225, R227, R239, R243) -/

def RawCut.mode (r : RawCut) : RawMode := { level := r.level, win := r.win, wno := r.wno }

/-- The mode in force behind every close that waits. -/
def State.rawMode (s : State) (i : Nat) : RawMode :=
  { level := s.rd (bStr i) F.Trs.SSTAT.LEVEL, wno := (s.strm i).wno,
    win := if s.windowed i then (if (s.strm i).post.isNone then 1 else 2) else 0 }

/-- The mode in force up to the first close that waits. -/
def State.modeNow (s : State) (i : Nat) : RawMode :=
  match (s.strm i).cuts with
  | r :: _ => r.mode
  | [] => s.rawMode i

/-- The open record `o` closes at `ref` with the stamps that satisfy the test; the others open the next record. -/
def closeSplit (i : Nat) (o : RawOpen) (bef : Stamp → Bool) (ref : Nat) (last : Bool) (m : RawMode) (s : State) : State :=
  let st := o.stamps.filter (fun x => !bef x)
  let de := o.decs.filter (fun x => !bef x)
  let next : List RawOpen := if st = [] ∧ de = [] then []
    else [{ o with stamps := st, decs := de, level := m.level, win := m.win, wno := m.wno, cut := none }]
  closeRaw i { o with stamps := o.stamps.filter bef, decs := o.decs.filter bef } ref last
    (s.updStrm i (fun x => { x with opens := x.opens.erase o ++ next }))

/-- The open record closes with all it holds. -/
def closeWhole (i : Nat) (o : RawOpen) (ref : Nat) (s : State) : State :=
  closeSplit i o (fun _ => true) ref false { level := o.level, win := o.win, wno := o.wno } s

/-- A kept stamp enters the record of its channel: the 256th closes it, and a DT of 2^28 ft closes it before (R225,
R227). -/
def keepStamp (i : Nat) (x : Stamp) (m : RawMode) (s : State) : State :=
  let cyc := x.t / ftPerNs * ftPerNs
  let new : RawOpen := { c := x.g % 16, stamps := [x], decs := [], level := m.level, win := m.win, wno := m.wno, cut := none }
  let open_ := fun (t : State) => t.updStrm i (fun y => { y with opens := y.opens ++ [new] })
  match (s.strm i).opens.find? (fun o => o.c == x.g % 16) with
  | none => open_ s
  | some o =>
    let far := match o.stamps.getLast? with
      | some y => decide (2 ^ 28 ≤ delta y.t x.t)
      | none => false
    if far then open_ (closeWhole i o cyc s)
    else
      let oNew := { o with stamps := o.stamps ++ [x] }
      let s1 := s.updStrm i (fun y => { y with opens := y.opens.map (fun p => if p = o then oNew else p) })
      if 256 ≤ oNew.stamps.length then closeWhole i oNew cyc s1 else s1

/-- A decimated stamp counts at once, and in a window with its record or span (R243, R247). -/
def decStamp (i : Nat) (x : Stamp) (m : RawMode) (s : State) : State :=
  if m.win = 0 then
    (s.inc (bStr i) F.Trs.DECIMATED 1).updStrm i (fun y => { y with decSince := y.decSince + 1, pend := y.pend - 1 })
  else match (s.strm i).opens.find? (fun o => o.c == x.g % 16) with
    | some o =>
      let oNew := { o with decs := o.decs ++ [x] }
      s.updStrm i (fun y => { y with opens := y.opens.map (fun p => if p = o then oNew else p) })
    | none =>
      let new : RawOpen := { c := x.g % 16, stamps := [], decs := [x], level := m.level, win := m.win, wno := m.wno, cut := none }
      s.updStrm i (fun y => { y with opens := y.opens ++ [new] })

/-- The next stamp of its channel in time order (R226): a record that has timed out before it closes first; of the
stamps since the last level change each 2^level-th is kept (R243). -/
def placeStamp (i : Nat) (m : RawMode) (x : Stamp) (s : State) : State :=
  let c := x.g % 16
  let s1 := match (s.strm i).opens.find? (fun o => o.c == c && o.cut.any (fun q => !x.before x.ep q)) with
    | some o => closeWhole i o (o.cut.getD 0) s
    | none => s
  let n := atD (s1.strm i).idx c 0
  let s2 := s1.updStrm i (fun y => { y with idx := updAt c (· + 1) y.idx, buf := y.buf.erase x })
  if n % 2 ^ m.level = 0 then keepStamp i x m s2 else decStamp i x m s2

/-- The held pre-trigger records of an accepted trigger are committed, oldest first, and its mark reports how many (R239,
R240). -/
def trigFinish (i w : Nat) (t : TrigMark) (s : State) : State :=
  let h := (s.strm i).held
  let kind := if h.length < s.rd (bStr i) F.Trs.SWIN.PRE then 2 else 1
  pushItem i (markRec kind t.src t.arg0 (BitVec.ofNat 64 h.length) t.arg2 t.ref t.hold)
    (s.updStrm i (fun y => { y with held := [], queue := y.queue ++ h.map (fun r => { r with wno := w }) }))

/-- A DECIMATION mark: its ARG0 takes the stamps decimated since the last one (R231, R244). -/
def decFinish (i : Nat) (m : DecMark) (s : State) : State :=
  pushItem i (markRec 0x11 m.src (BitVec.ofNat 64 (s.strm i).decSince) 0#64 0#64 m.ref m.hold)
    (s.updStrm i (fun y => { y with decSince := 0 }))

/-- The open records that have timed out no later than an instant. -/
def timedOpens (s : State) (i ref : Nat) : List RawOpen := (s.strm i).opens.filter (fun o => o.cut.any (fun q => decide (0 ≤ delta q ref)))

/-- The first close that waits takes place once every stamp before its REF is final (R227); the mark of a change of level
follows the last stamps decimated at the old one (R231). -/
def tryCut (i : Nat) (s : State) : State :=
  match (s.strm i).cuts with
  | [] => s
  | r :: rest =>
    if (List.range 16).any (fun c => s.rawWaits i c r.ep r.ref) then s
    else
      let bef := fun (x : Stamp) => !s.strOn i || x.before r.ep r.ref
      let s1 := forL ((s.strm i).buf.filter bef) (fun x t => placeStamp i r.mode x t) s
      let s2 := s1.updStrm i (fun y => { y with cuts := rest })
      let s3 := forL (timedOpens s2 i r.ref) (fun o t => closeSplit i o (fun x => x.before r.ep (o.cut.getD 0)) (o.cut.getD 0) false r.mode t) s2
      let s4 := forL (s3.strm i).opens (fun o t => closeSplit i o bef r.ref r.last (t.modeNow i) t) s3
      let s5 := match r.trig with
        | some m => trigFinish i (r.wno + 1) m s4
        | none => s4
      match r.dec with
      | some m => decFinish i m (s5.updStrm i (fun y => { y with idx := List.replicate 16 0 }))
      | none => s5

/-- With no close waiting, every stamp that no earlier one of its channel can overtake enters its record, and a record
that has timed out closes once every stamp before its REF is final (R226, R227). -/
def formatNow (i : Nat) (s : State) : State :=
  if (s.strm i).cuts ≠ [] then s
  else
    let s1 := forL (s.strm i).buf (fun x t =>
      if t.rawWaits i (x.g % 16) x.ep x.t then t else placeStamp i (t.rawMode i) x t) s
    forL (s1.strm i).opens (fun o t => match o.cut with
      | some q => if t.rawWaits i o.c t.loads q then t
                  else closeSplit i o (fun x => x.before t.loads q) q false (t.rawMode i) t
      | none => t) s1

/-- The formatter of stream i does what it can. -/
def formatCore (i : Nat) (s : State) : State := formatNow i (forN (s.strm i).cuts.length (fun _ t => tryCut i t) s)

/-- An event that closes the stream's open records at `ref` of the present scale, after those that wait. -/
def pushCut (i ref : Nat) (last : Bool) (dec : Option DecMark) (s : State) : State :=
  let m := s.rawMode i
  let r : RawCut := { ref := ref, ep := s.loads, level := m.level, win := m.win, wno := m.wno, last := last, dec := dec }
  s.updStrm i (fun x => { x with cuts := x.cuts ++ [r] })

/-- An accepted trigger's cut takes its place among the closes that wait (R239, R251): it precedes a level change of the
same instant, and what follows it belongs to the window that it opens. -/
def insCut (r : RawCut) : List RawCut → List RawCut
  | [] => [r]
  | a :: t => if a.ep = r.ep ∧ 0 ≤ delta r.ref a.ref
      then { r with level := a.level, win := a.win, wno := a.wno } ::
        (a :: t).map (fun b => { b with win := if r.trig.isSome then 2 else b.win, wno := if r.trig.isSome then a.wno + 1 else b.wno })
      else a :: insCut r t

/-- A gap of stream i begins at the present cycle: raw capture stops and its open records close (R227, R245). -/
def gapBegin (i : Nat) (s : State) : State :=
  if s.rd (bStr i) F.Trs.SSTAT.GAP = 1 then s
  else formatCore i (((pushCut i s.nowFt false none s).wr (bStr i) F.Trs.SSTAT.GAP 1).updStrm i (fun x => { x with
    gapStart := some (stampAt s.nowFt), gapEp := s.loads, gapRaw := 0, gapRes := 0, gapMark := 0 }))

/-- MEM is ready for capture writes (R413): EN = 1 and no freeze. -/
def State.memReady (s : State) : Bool := decide (s.rd bMem F.Mem.MCTL.EN = 1) && !s.frozen

/-- The bytes of RAW records that wait because MEM is not ready (R414). -/
def State.rawWaiting (s : State) (i : Nat) : Nat :=
  if s.memReady then 0 else (((s.strm i).queue.filter (fun r => r.kind = 1)).map (fun r => 16 * r.units)).sum

/-- F has reached 15/16 of the ring (R245); RAW records that wait for MEM count with it (R414). (DEDUCED, log 154.) -/
def gapCheck (i : Nat) (s : State) : State :=
  if s.strOn i ∧ 15 * s.ringSize i ≤ 16 * (s.ringUsed i + s.rawWaiting i) then gapBegin i s else s

/-- The formatter runs; FILL, the gap and IDLE follow it (R245, R249). -/
def format (i : Nat) (s : State) : State := idleUpd i (fillUpd i (gapCheck i (formatCore i s)))

/-- Every open record of the stream is cut at `ref` ft (R227). -/
def cutAll (i ref : Nat) (last : Bool) (s : State) : State := format i (pushCut i ref last none s)

/-- A raw stamp offered to stream i (R233, R245, R247). During a gap only a stamp from before its start is recorded. -/
def takeStamp (i : Nat) (x : Stamp) (s : State) : State :=
  let b := bStr i
  let c := x.g % 16
  let comp := s.rd b F.Trs.S_SCFG.COMPMASK
  if s.strOn i ∧ s.rd b F.Trs.S_SCFG.RAWEN = 1 ∧ s.rd b F.Trs.S_SCFG.SK = x.g / 16 ∧
      (s.rd b F.Trs.S_SCFG.CHMASK).testBit c ∧ comp.testBit (b2n x.ch) then
    let y := s.strm i
    let win := s.windowed i
    if s.rd b F.Trs.SSTAT.GAP = 1 ∧ !y.gapStart.any (fun w => x.before y.gapEp (w.toNat / 8)) then
      if win && y.post.isNone then s
      else ((s.inc b F.Trs.GENERATED 1).inc b F.Trs.GAPPED 1).updStrm i (fun y => { y with gapRaw := y.gapRaw + 1 })
    else
      let s1 := if win then s else (s.inc b F.Trs.GENERATED 1).updStrm i (fun y => { y with pend := y.pend + 1 })
      s1.updStrm i (fun y => { y with buf := insStamp x y.buf })
  else s

/-- An instant that touches the records of every stream: their open records are cut there (R227). -/
def cutEvery (ref : Nat) (p : Nat → Bool) (s : State) : State :=
  forN 64 (fun i t => if p i && t.strOn i then cutAll i ref false t else t) s

end Sys2Proof.Machine
end

