-- ==== Sys2Proof/Machine/SlotCfg.lean ====
section
/-! DEFINITION. The configuration of a measurement slot (R96, R97): its words, its fields, the sources it names. -/

namespace Sys2Proof.Machine

/-- A slot's configuration: its five applied words. -/
structure MCfg where
  scfg : Word
  gcfg : Word
  param : Word
  limMin : Word
  limMax : Word
  deriving DecidableEq, Repr

def fw (w : Word) (f : Fld) : Nat := fget w f.hi f.lo
def MCfg.type (c : MCfg) : Nat := fw c.scfg F.Slot.SCFG.TYPE
def MCfg.gmode (c : MCfg) : Nat := fw c.scfg F.Slot.SCFG.GMODE
def MCfg.srcA (c : MCfg) : Nat := fw c.scfg F.Slot.SCFG.SRCA
def MCfg.srcB (c : MCfg) : Nat := fw c.scfg F.Slot.SCFG.SRCB
def MCfg.arm (c : MCfg) : Nat := fw c.scfg F.Slot.SCFG.ARM
def MCfg.opt (c : MCfg) : Nat := fw c.scfg F.Slot.SCFG.OPT
def MCfg.rearm (c : MCfg) : Bool := fw c.scfg F.Slot.SCFG.REARM == 1
def MCfg.skip (c : MCfg) : Bool := fw c.scfg F.Slot.SCFG.SKIP_SHED == 1
def MCfg.len (c : MCfg) : Nat := fw c.gcfg F.Slot.GCFG.LEN
def MCfg.back (c : MCfg) : Nat := fw c.param F.Slot.PARAM.PAIR_BACK
/-- TMO = 0 acts as 1,000 ns. -/
def MCfg.tmo (c : MCfg) : Nat := let t := fw c.param F.Slot.PARAM.TMO
                                 if t = 0 then 1000 else t
/-- The ideal period, bits [47:0] of PARAM. -/
def MCfg.refper (c : MCfg) : Nat := fget c.param 47 0

/-- A configuration of which the sources alone matter. -/
def MCfg.ofScfg (w : Word) : MCfg := { scfg := w, gcfg := 0#64, param := 0#64, limMin := 0#64, limMax := 0#64 }

/-- The applied configuration of slot j of skein k. -/
def State.mcfg (s : State) (k j : Nat) : MCfg :=
  let b := bSlot k j
  { scfg := s.reg b, gcfg := s.reg (b + 0x8), param := s.reg (b + 0x10), limMin := s.reg (b + 0x18),
    limMax := s.reg (b + 0x20) }

/-- SLOPE of a source code. -/
def srcSlope (c : Nat) : Nat := c / 1024 % 4
/-- The comparator of a source code: its code without the slope. -/
def srcCmp (c : Nat) : Nat := c % 1024

/-- The type uses SRCB. -/
def MCfg.usesB (c : MCfg) : Bool :=
  match c.type with
  | 4 => true | 5 => true | 9 => true | 12 => true
  | 11 => c.opt % 4 == 1
  | _ => false

/-- The sources a configuration names: SRCA, SRCB and ARM where its type and mode use them, SRCA and SRCB with a slope.
(DESIGN CHOICE, log 130.) -/
def MCfg.sources (c : MCfg) : List Nat :=
  if c.type = 0 then [] else
  (if srcSlope c.srcA = 0 then [] else [c.srcA]) ++ (if c.usesB ∧ srcSlope c.srcB ≠ 0 then [c.srcB] else []) ++
    (if c.gmode = 2 then [c.arm] else [])

end Sys2Proof.Machine
end

