-- ==== Sys2Proof/Machine/Capture.lean ====
section
/-! DEFINITION. Time capture (R47-R70): edges, the pool, the counters and the delay-line lock. -/

namespace Sys2Proof.Machine

open Host

/-! ### Pool -/

/-- A unit counts as busy in absolute tap a (R56, R58). -/
def VUnit.busyAt (u : VUnit) (a : Nat) : Bool := u.st == .inService && ((u.busy.isSome && decide (u.tap ≤ a)) || decide (a < u.freeAt))

/-- A unit can be granted to an edge in absolute tap a (R59, R60). -/
def VUnit.freeFor (u : VUnit) (a : Nat) : Bool :=
  u.st == .inService && u.busy.isNone && decide (u.freeAt ≤ a) && decide (u.backAt ≤ a)

/-- The absolute tap at the start of the present cycle. Taps are counted on elapsed time. (DEDUCED, log 63.) -/
def State.tapNow (s : State) : Nat := s.cycle * 32

/-- POOLSTAT, UNIT_CAL, UNIT_FAIL, NOROT and POOL_DEGRADED follow the units (R58, R60). -/
def poolUpd (k : Nat) (s : State) : State :=
  let us := (s.skein k).units
  let n := fun (st : UState) => (us.filter (fun u => u.st == st)).length
  let map := fun (st : UState) => (us.zipIdx.map (fun p => if p.1.st == st then 2 ^ p.2 else 0)).sum
  let b := bSk k
  let s1 := ((s.wr b F.Sk.POOLSTAT.IN_SERVICE (n .inService)).wr b F.Sk.POOLSTAT.IN_CAL (n .inCal)).wr b
    F.Sk.POOLSTAT.FAILED (n .failed)
  let s2 := (s1.wr b F.Sk.UNIT_CAL (map .inCal)).wr b F.Sk.UNIT_FAIL (map .failed)
  (s2.wr b F.Sk.TCSTAT.NOROT (b2n (decide (4 ≤ n .failed)))).wr b F.Sk.TCSTAT.POOL_DEGRADED
    (b2n (decide (5 ≤ n .failed)))

/-! ### Counters (R66, R67, R53) -/

/-- EDGES and one of FINE (0), SHED (1), CROWDED (2) of a comparator advance together; the edge also counts in
UNLOCKED_EDGES while DLL_LOCK is 0. -/
def countEdge (g : Nat) (ch : Bool) (kind : Nat) (s : State) : State :=
  let b := bCh g
  let e := if ch then F.Ch.EDGES_CH else F.Ch.EDGES_CL
  let f := match ch, kind with
    | true, 0 => F.Ch.FINE_CH | true, 1 => F.Ch.SHED_CH | true, _ => F.Ch.CROWDED_CH
    | false, 0 => F.Ch.FINE_CL | false, 1 => F.Ch.SHED_CL | false, _ => F.Ch.CROWDED_CL
  let s1 := (s.inc b e 1).inc b f 1
  if s1.dllLock (g / 16) then s1 else s1.inc (bSk (g / 16)) F.Sk.UNLOCKED_EDGES 1

/-- The eight live counters of a channel, in the order of their snapshots (R68). -/
def liveCounters : List Fld :=
  [F.Ch.EDGES_CH, F.Ch.FINE_CH, F.Ch.SHED_CH, F.Ch.CROWDED_CH, F.Ch.EDGES_CL, F.Ch.FINE_CL, F.Ch.SHED_CL, F.Ch.CROWDED_CL]

/-- CNT_SNAP: all counters of the skein into their snapshots, 0x40 above them (R68). -/
def snapCounters (k : Nat) (s : State) : State :=
  let s1 := forN 16 (fun c t => forL liveCounters (fun f t =>
    t.wr (bCh (16 * k + c)) { f with off := f.off + 0x40 } (t.rd (bCh (16 * k + c)) f)) t) s
  s1.inc (bSk k) F.Sk.TCSTAT.SNAP_SEQ 1

/-- CNT_CLR: the counters to zero, PEAK to the units still busy in the tap that begins now, ACCT_VOID cleared (R69).
(DEDUCED, log 64.) -/
def clearCounters (k : Nat) (s : State) : State :=
  let s1 := forN 16 (fun c t => forL liveCounters (fun f t => t.clr (bCh (16 * k + c)) f) t) s
  let busy := ((s.skein k).units.filter (fun u => u.busyAt s.tapNow)).length
  ((s1.clr (bSk k) F.Sk.UNLOCKED_EDGES).wr (bSk k) F.Sk.POOLSTAT.PEAK busy).wr (bSk k) F.Sk.TCSTAT.ACCT_VOID 0

/-! ### Edges -/

/-- The slope selection of a comparator takes an edge (R28). -/
def State.slopeSel (s : State) (g : Nat) (ch rising : Bool) : Bool :=
  let v := s.rd (bCh g) (if ch then F.Ch.CMPCFG.SLOPE_CH else F.Ch.CMPCFG.SLOPE_CL)
  v.testBit (if rising then 0 else 1)

/-- Whether an edge `d` fs after the last stamped one is crowded (R64); between 198 and 202 ps the manual leaves it
open, and the free value `n` decides. (DESIGN CHOICE, log 7.) -/
def isCrowded (d n : Nat) : Bool :=
  if d < 198000 then true else if 202000 ≤ d then false else Config.blindChoice n

/-- The crowded notice of an edge (R100): behind the last stamp of its comparator and on its scale, on the bus once that
stamp is assembled, else with the unit that converts it. -/
def crowdNotice (k g : Nat) (ch rising : Bool) (s : State) : State :=
  let c := s.chan g
  let ep := if ch then c.lastChEp else c.lastClEp
  let n : Stamp := { g := g, ch := ch, rising := rising, shed := false, t := 0, hold := s.holdover, unlk := !s.dllLock k,
                     ep := ep }
  match (if ch then c.lastChT else c.lastClT) with
  | some t => s.updSkein k (fun x =>
      if x.asm.any (fun p => p.1.g == g && p.1.ch == ch && p.1.t == t && p.1.ep == ep) then
        { x with asm := x.asm.map (fun p => if p.1.g = g ∧ p.1.ch = ch ∧ p.1.t = t ∧ p.1.ep = ep then (p.1, p.2 ++ [n]) else p) }
      else { x with bus := x.bus ++ [.notice { n with t := (t + 1) % ftMod }] })
  | none => s.updSkein k (fun x => { x with units := x.units.map (fun u =>
      match u.busy with
      | some y => if y.g = g ∧ y.ch = ch ∧ u.tap = ((if ch then c.lastCh else c.lastCl).getD 0) * 32 / fsPerNs then { u with notices := u.notices ++ [n] } else u
      | none => u) })

/-- The place of an edge in the pool's order: by absolute tap, within a tap by ascending channel, CH before CL (R59). -/
def Stamp.serveKey (x : Stamp) : Nat := 64 * x.tap + 2 * (x.g % 16) + b2n (!x.ch)

/-- The stamp time and the scale of a comparator's last stamped edge, where that is the edge of `y`. -/
def noteLast (y : Stamp) (c : Chan) : Chan :=
  let mine := fun (l : Option Nat) => match l with
    | some f => decide (f * 32 / fsPerNs = y.tap)
    | none => false
  if y.ch then (if mine c.lastCh then { c with lastChT := some y.t, lastChEp := y.ep } else c)
  else (if mine c.lastCl then { c with lastClT := some y.t, lastClEp := y.ep } else c)

/-- The pool serves one edge, with the notices behind it: the lowest-numbered free unit takes it, one withdrawn in the same
tap included, else it is shed (R59, R60, R63). -/
def serveEdge (k : Nat) (x : Stamp) (notes : List Stamp) (s : State) : State :=
  let a := x.tap
  match firstIdx (fun u => u.freeFor a || u.outAt == some a) (s.skein k).units 0 with
  | some u =>
    let s1 := s.updSkein k (fun z => { z with units := updAt u (fun v => { v with
      st := .inService, outAt := none, busy := some x, notices := notes, tap := a }) z.units })
    let peak := ((s1.skein k).units.filter (fun v => v.busyAt a)).length
    poolUpd k (s1.wr (bSk k) F.Sk.POOLSTAT.PEAK (max peak (s1.rd (bSk k) F.Sk.POOLSTAT.PEAK)))
  | none =>
    let y := { x with shed := true, t := x.t + 8 }
    let ns := notes.map (fun n => BusItem.notice { n with t := (y.t + 1) % ftMod, ep := y.ep })
    (countEdge x.g x.ch 1 (s.updSkein k (fun z => { z with bus := z.bus ++ [.stamp y] ++ ns }))).updChan x.g (noteLast y)

/-- Insertion in the pool's order. -/
def insKey (p : Stamp × List Stamp) : List (Stamp × List Stamp) → List (Stamp × List Stamp)
  | [] => [p]
  | q :: l => if p.1.serveKey < q.1.serveKey then p :: q :: l else q :: insKey p l

/-- The edges with a unit that come behind edge x in the pool's order, in that order. -/
def Skein.behind (z : Skein) (x : Stamp) : List (Stamp × List Stamp) :=
  (z.units.filterMap (fun u => u.busy.map (fun y => (y, u.notices)))).foldr
    (fun p l => if x.serveKey < p.1.serveKey then insKey p l else l) []

/-- A selected edge of an enabled channel at `fs` of the present cycle: crowded (R64), or served by the pool, and those
that come behind it in the pool's order are served again (R59). -/
def takeEdge (k g : Nat) (ch rising : Bool) (fs : Nat) (s : State) : State :=
  let c := s.chan g
  let now := s.cycle * fsPerNs + fs
  let last := if ch then c.lastCh else c.lastCl
  let crowded := match last with
    | some l => isCrowded (now - l) s.free
    | none => false
  let open_ := match last with
    | some l => decide (198000 ≤ now - l ∧ now - l < 202000)
    | none => false
  let s0 := if open_ then s.fresh else s
  if crowded then crowdNotice k g ch rising (countEdge g ch 2 s0)
  else
    let tap := fs * ftPerNs / fsPerNs / 16
    let x : Stamp := { g := g, ch := ch, rising := rising, shed := false, t := s.nowFt + tap * 16, hold := s.holdover,
                       unlk := !s.dllLock k, ep := s.loads, tap := s.tapNow + tap }
    let later := (s.skein k).behind x
    let s1 := s0.updSkein k (fun z => { z with units := z.units.map (fun u =>
      if u.busy.any (fun y => x.serveKey < y.serveKey) then { u with busy := none, notices := [] } else u) })
    let s2 := s1.updChan g (fun c => if ch then { c with lastCh := some now, lastChT := none }
                                      else { c with lastCl := some now, lastClT := none })
    forL later (fun p => serveEdge k p.1 p.2) (serveEdge k x [] s2)

/-- EDGE: a comparator of the active path toggles: its output changes (R26). A disabled channel or an edge that slope
selection leaves out gives no stamp and no count (R28, R45, R46); a deskew that listens takes note of any (R330). The
edges of one comparator come in the order of time: one before its last stamped edge is none. (DEDUCED, log 62.) -/
def edge (k : Nat) (c : Nat) (ch rising : Bool) (fs : Nat) (s : State) : State :=
  let g := 16 * k + c
  let out := if ch then (s.chan g).outCh else (s.chan g).outCl
  let early := match (if ch then (s.chan g).lastCh else (s.chan g).lastCl) with
    | some l => decide (s.cycle * fsPerNs + fs < l)
    | none => false
  if !s.domOn k ∨ !s.domOn (32 + k) ∨ fsPerNs ≤ fs ∨ out = rising ∨ early = true then s
  else
    let s1 := noteListen g (s.updChan g (fun c => if ch then { c with outCh := rising } else { c with outCl := rising }))
    if s1.enabledAt g (s.eft + fs * ftPerNs / fsPerNs) ∧ s1.slopeSel g ch rising then takeEdge k g ch rising fs s1 else s1

/-- An edge of the comparator of stamp x, taken before it, still converts (R57). -/
def Skein.before (z : Skein) (x : Stamp) : Bool :=
  z.units.any (fun u => u.busy.any (fun y => y.g == x.g && y.ch == x.ch && decide (y.tap < x.tap)))

/-- A stamp is assembled: it goes on the bus with the notices behind it, and the edge counts as fine (R57, R67). -/
def assemble (k : Nat) (y : Stamp) (notes : List Stamp) (s : State) : State :=
  countEdge y.g y.ch 0 (s.updSkein k (fun z => { z with
    bus := z.bus ++ [.stamp y] ++ notes.map (fun n => BusItem.notice { n with t := (y.t + 1) % ftMod, ep := y.ep }) }))

/-- Insertion of a converted stamp in the order of the edges. -/
def insAsm (p : Stamp × List Stamp) : List (Stamp × List Stamp) → List (Stamp × List Stamp)
  | [] => [p]
  | q :: l => if p.1.tap < q.1.tap then p :: q :: l else q :: insAsm p l

/-- The converted stamps of skein k that no earlier edge holds back are assembled, the earliest first. -/
def assembleAll (k : Nat) (s : State) : State :=
  let z := s.skein k
  let go := z.asm.filter (fun p => !z.before p.1)
  forL go (fun p t => assemble k p.1 p.2 t) (s.updSkein k (fun z => { z with asm := z.asm.filter (fun p => z.before p.1) }))

/-- VERNIER_CONVERSION_COMPLETE: the unit's raw code q gives STEP by its table, and the unit is free from tap
a + 65 + 16q (R55, R56). The stamp is assembled once no earlier edge of its comparator converts (R57). -/
def convComplete (k u q : Nat) (s : State) : State :=
  match ((s.skein k).units[u]?).bind (fun v => v.busy.map (fun x => (v, x))) with
  | none => s
  | some (v, x) =>
    let y := { x with t := x.t + atD v.table q 0 }
    let s1 := s.updSkein k (fun z => { z with
      units := updAt u (fun w => { w with busy := none, notices := [], freeAt := w.tap + 65 + 16 * q }) z.units,
      asm := insAsm (y, v.notices) z.asm })
    assembleAll k (s1.updChan x.g (noteLast y))

/-- VERNIER_UNIT_RELEASE: a unit whose occupancy has passed is free for every later tap (R56). -/
def unitRelease (k u : Nat) (s : State) : State :=
  s.updSkein k (fun z => { z with units := updAt u (fun v =>
    if v.busy.isNone ∧ v.freeAt ≤ s.tapNow then { v with freeAt := 0 } else v) z.units })

/-! ### Delay-line lock (R53) -/

/-- The streams that capture skein k close their open RAW records at the start of the present cycle (R227). -/
def cutSkein (k : Nat) (s : State) : State :=
  cutEvery s.nowFt (fun i => s.rd (bStr i) F.Trs.S_SCFG.SK == k) s

/-- One update of the lock loop: `err` is the phase error in 2^-8 ps (1 ft is 500), `ctrl` the control code. -/
def dllUpdate (k : Nat) (err : Int) (ctrl : BitVec 16) (s : State) : State :=
  let z := s.skein k
  if !s.domOn (32 + k) ∨ s.cycle < z.dllNext then s
  else
    let mag := err.natAbs
    let bad := if 4000 < mag then z.dllBad + 1 else 0
    let good := if mag ≤ 2000 then z.dllGood + 1 else 0
    let errs := (err :: z.dllErrs).take 1024
    let mean := roundDiv (errs.foldl (· + ·) 0) errs.length
    let s1 := s.setSkein k { z with dllBad := bad, dllGood := good, dllErrs := errs, dllNext := s.cycle + 64 }
    let s2 := (s1.wrInt (bSk k) F.Sk.DLLRES.RESID (clampInt (-32768) 32767 mean)).wr (bSk k) F.Sk.DLLRES.CTRL ctrl.toNat
    if s.dllLock k then
      if 16 ≤ bad then
        (noteDll k false (cutSkein k ((s2.wr (bSk k) F.Sk.TCSTAT.DLL_LOCK 0).raise (bSk k) F.Sk.TCSTAT.DLL_ERR 0))).updSkein k
          (fun z => { z with lockSince := s.cycle })
      else s2
    else if 16 ≤ good then
      (noteDll k true (cutSkein k (s2.wr (bSk k) F.Sk.TCSTAT.DLL_LOCK 1))).updSkein k (fun z => { z with lockSince := s.cycle })
    else s2

/-! ### Meanings -/

/-- EDGE (R26, R28, R46, R51-R67). -/
def execEdge (k : Fin 32) (c : Fin 16) (comp : Comp) (rising : Bool) (fs : Nat) (s : State) :
    Outcome State Fault Refusal :=
  act s (edge k c (comp == .ch) rising fs)

/-- VERNIER_CONVERSION_COMPLETE (R55-R57, R67). -/
def execVernierConversionComplete (k : Fin 32) (u : Fin 52) (q : Fin 16) (s : State) : Outcome State Fault Refusal :=
  act s (convComplete k u q)

/-- VERNIER_UNIT_RELEASE (R56). -/
def execVernierUnitRelease (k : Fin 32) (u : Fin 52) (s : State) : Outcome State Fault Refusal :=
  act s (unitRelease k u)

/-- TCCTL.CNT_SNAP, with CNT_CLR in the same write or without (R68, R69). -/
def execCntSnap (k : Fin 32) (alsoClr : Bool) (s : State) : Outcome State Fault Refusal :=
  act s (cmdAccess (bSk k) false false (fun t =>
    if alsoClr then clearCounters k (snapCounters k t) else snapCounters k t))

/-- TCCTL.CNT_CLR (R69). -/
def execCntClr (k : Fin 32) (s : State) : Outcome State Fault Refusal :=
  act s (cmdAccess (bSk k) false false (clearCounters k))

/-- DLL_UPDATE (R53). -/
def execDllUpdate (k : Fin 32) (err : Int) (ctrl : BitVec 16) (s : State) : Outcome State Fault Refusal :=
  act s (dllUpdate k err ctrl)

end Sys2Proof.Machine
end

