-- ==== Sys2Proof/Machine/Pin.lean ====
section
/-! DEFINITION. The pin front end (R18-R46, R453-R455): DAC loads, settling, safe state, the parametric unit. -/

namespace Sys2Proof.Machine

open Host

/-! ### Applying staged fields (R366, R373) -/

/-! ### Safe state (R42-R44, R46) -/

/-- The parametric unit forces the pin (R36): in FVMI and FIMV, outside safe state, where its mode is ignored (R44), with
the analog domain powered (R45) and no boundary-scan instruction that holds the pin (R448). -/
def State.pmuForces (s : State) (g : Nat) : Bool :=
  let mode := s.rd (bCh g) F.Ch.PMUCTL.MODE
  s.domOn (g / 16) && !s.scanOn && !(s.chan g).safe && decide (mode = 1 ∨ mode = 2)

/-- The pin of channel g follows its channel: its analog domain is powered (R45), the channel is enabled (R46), the
parametric unit does not force it (R36), and no boundary-scan instruction holds it (R448). -/
def State.pinLive (s : State) (g : Nat) : Bool :=
  s.domOn (g / 16) && decide (s.rd (bCh g) F.Ch.PECFG.CH_EN = 1) && !s.pmuForces g && !s.scanOn

/-- The driver as the pin sees it. -/
def State.pinDrive (s : State) (g : Nat) : Drive := if s.pinLive g then (s.chan g).drive else .hiZ

/-- The load is connected to the pin (R21, R35, R43). -/
def State.pinLoad (s : State) (g : Nat) : Bool :=
  s.pinLive g && decide (s.rd (bCh g) F.Ch.PECFG.LOADEN = 1) && (s.chan g).loadOn

/-- The safe command reaches channel g (R42, R87): events and windows not yet placed are cancelled, the driver starts
toward its safe condition, a deskew of the channel is aborted (R332). The parametric unit's switch opens: its mode is
ignored in safe state (R44). Echoes of drive events already applied stay expected (R91). -/
def safeCmd (g : Nat) (s : State) : State :=
  (dskAbortCh g s).updChan g (fun c => safeDrive s g { c with
    safe := true, rel := false, safeBy := if c.safe ∧ c.safeBy.isNone then none else some s.cycle, evs := [], cmps := [] })

/-- The channels of a skein are commanded safe. -/
def safeSkein (k : Nat) (s : State) : State := forN 16 (fun c t => safeCmd (16 * k + c) t) s

/-- All 512 channels are commanded safe (R42). -/
def safeAll (s : State) : State := forN 32 safeSkein s

/-- The channel has reached its safe condition: PESTAT.SAFE sets (R42). -/
def reachSafe (g : Nat) (s : State) : State :=
  if (s.chan g).safeBy.isSome then
    (s.updChan g (fun c => { c with safeBy := none })).wr (bCh g) F.Ch.PESTAT.SAFE 1
  else s

/-- Channel g leaves safe state (R44); with its analog domain off PESTAT.SAFE goes on reading 1 (R45).
(DEDUCED, log 61.) -/
def leaveSafe (g : Nat) (s : State) : State :=
  (s.updChan g (fun c => { c with safe := false, rel := false, safeBy := none })).wr (bCh g) F.Ch.PESTAT.SAFE
    (b2n (!s.domOn (g / 16)))

/-- SAFE_RELEASE (R44): only with the engine not running; one written while a freeze is in force is lost and not kept
for the freeze's release. (DESIGN CHOICE, log 123.) -/
def opSafeRelease (g : Nat) (s : State) : State :=
  if s.engRunning (g / 16) ∨ s.frozen ∨ !(s.chan g).safe then s else leaveSafe g s

/-! ### DAC loads and settling (R22-R25, R33) -/

/-- The 128-bit entry n of channel g in the level-set table (R19). -/
def State.levelSet (s : State) (g n : Nat) : BitVec 128 :=
  let x := tLevel + 0x80 * g + 0x10 * n
  s.tw (x + 12) ++ s.tw (x + 8) ++ s.tw (x + 4) ++ s.tw x

/-- The field [hi:lo] of a level set. -/
def lvlField (d : BitVec 128) (lo len : Nat) : Nat := d.toNat / 2 ^ lo % 2 ^ len

/-- The hysteresis a level set acts with, in mV, and the load's two currents, in 6 uA: higher codes act as the largest
(R19). -/
def lvlHyst (d : BitVec 128) : Nat := min 50 (lvlField d 120 6)
def lvlIoh (d : BitVec 128) : Nat := min 4000 (lvlField d 108 12)
def lvlIol (d : BitVec 128) : Nat := min 4000 (lvlField d 96 12)

/-- The effective threshold of a comparator of channel g, in units of 1/125 of 2^-32 code (one mV is 8.192 codes): HYST/2
above the threshold in force while its output is 0, HYST/2 below while it is 1 (R27). -/
def State.effThr (s : State) (g : Nat) (ch : Bool) : Int :=
  let c := s.chan g
  let half : Int := lvlHyst c.dac * 512 * 2 ^ 32
  let thr := 125 * (if ch then c.thrCh else c.thrCl)
  if (if ch then c.outCh else c.outCl) then thr - half else thr + half

/-- What a comparator of channel g outputs at pin level `v`, in the units of `effThr` (R26). -/
def State.compOut (s : State) (g : Nat) (ch : Bool) (v : Int) : Bool := decide (s.effThr g ch < v)

/-- The current the load sources into the pin at pin level `v`, in 1/125 of 2^-32 code, as a number of 6 uA; below 0 it
sinks (R35). The change from IOL to IOH lies in the 200 mV about VCOM, where the manual gives no value: a free value of
the level. (DESIGN CHOICE, log 124.) -/
def State.loadCurrent (s : State) (g : Nat) (v : Int) : Int :=
  let d := (s.chan g).dac
  let com : Int := 125 * (lvlField d 48 16 * 2 ^ 32)
  let half : Int := 102400 * 2 ^ 32
  if !s.pinLoad g then 0
  else if v < com - half then lvlIol d
  else if com + half < v then -(lvlIoh d)
  else clampInt (-(lvlIoh d)) (lvlIol d) (Config.loadBand v)

/-- What the parametric unit puts on the pin (R36, R37). -/
inductive PmuDrive where
  | off
  | volts (code : Nat) (limit : Nat)           -- an R18 code; the current's limit, in 20 nA
  | amps (code : Int) (fs lo hi : Nat)         -- 1/32,768 of FS, in 20 nA; the clamps as R18 codes
  deriving DecidableEq, Repr

/-- The full scale of current range r, in 20 nA: 2 uA, 20 uA, 200 uA, 2 mA, 40 mA; 5 to 7 act as 0 (R37). -/
def pmuScale (r : Nat) : Nat := match r with | 1 => 1000 | 2 => 10000 | 3 => 100000 | 4 => 2000000 | _ => 100

/-- The unit of channel g as the pin sees it (R36, R37). -/
def State.pmuDrive (s : State) (g : Nat) : PmuDrive :=
  let b := bCh g
  let fs := pmuScale (s.rd b F.Ch.PMUCTL.IRANGE)
  if !s.pmuForces g then .off
  else if s.rd b F.Ch.PMUCTL.MODE = 1 then .volts (s.rd b F.Ch.PMUCTL.FORCE) fs
  else .amps (s.rdInt b F.Ch.PMUCTL.FORCE) fs (s.rd b F.Ch.PMUCLAMP.CLAMP_LO) (s.rd b F.Ch.PMUCLAMP.CLAMP_HI)

/-- The trim, in 2^-4 mV, that the factory linearity table gives level DAC j of channel g at a code (R329, R337): linear
between the points at 0x0000, 0x1000, ..., 0xF000, 0xFFFF. One DAC code is 1000/8192 mV. -/
def State.dacTrim (s : State) (g j code : Nat) : Int :=
  let a := 0x250000 + 0x22 * (4 * g + j)
  let i := code / 4096
  let x := s.mramHalf (a + 2 * i)
  let y := s.mramHalf (a + 2 * i + 2)
  let span : Int := if i = 15 then 4095 else 4096
  roundDiv ((x * span + (y - x) * (code % 4096 : Nat)) * 1000) (span * 8192)

/-- A window of channel g is masked by the settle timer and the channel enabled at its close, as both stand now (R24,
R46, R89). -/
def State.winFate (s : State) (g : Nat) (w : Win) : Bool × Bool :=
  let c := s.chan g
  w.fate.getD
    (decide (s.rd (bCh g) F.Ch.PECFG.SETTLE_MASK = 1 ∧ c.settleFrom ≤ w.cls ∧ w.cls < c.settleEnd),
      decide (s.rd (bCh g) F.Ch.PECFG.CH_EN = 1))

/-- A levels boundary of channel g at elapsed ft `at_`: the windows that have closed keep what covered their close. -/
def closeWins (g at_ : Nat) (s : State) : State :=
  let fix := fun (w : Win) => if w.cls < at_ then { w with fate := some (s.winFate g w) } else w
  s.updChan g (fun c => { c with cmps := c.cmps.map (fun m => { m with w0 := m.w0.map fix, w1 := m.w1.map fix }) })

/-- The threshold of a comparator of channel g becomes `v`, in 2^-32 code; THR_NOW reads its nearest code (R32). -/
def setThr (g : Nat) (ch : Bool) (v : Int) (s : State) : State :=
  let code := (clampInt 0 65535 (roundDiv v (2 ^ 32))).toNat
  if ch then (s.updChan g (fun c => { c with thrCh := v })).wr (bCh g) F.Ch.THR_NOW.VCH_NOW code
  else (s.updChan g (fun c => { c with thrCl := v })).wr (bCh g) F.Ch.THR_NOW.VCL_NOW code

/-- The threshold a level set gives a comparator, in 2^-32 code. -/
def lvlThr (d : BitVec 128) (ch : Bool) : Int := lvlField d (if ch then 64 else 80) 16 * 2 ^ 32

/-- Channel g loads level set n at elapsed ft `at_` (R22): the DACs take the entry, the settle timer restarts (R24,
R25), the tracked thresholds start from the entry's (R33) and the level trims from the factory table (R329). -/
def loadDacs (g n at_ : Nat) (s0 : State) : State :=
  let s := closeWins g at_ s0
  let d := s.levelSet g n
  let dur := s.rd (bCh g) F.Ch.PECFG.SETTLE * 8 * ftPerNs
  let running := decide (s.rd (bCh g) F.Ch.PESTAT.SETTLING = 1 ∧ at_ < (s.chan g).settleEnd)
  let s1 := s.updChan g (fun c => { c with dac := d, settleFrom := if running then c.settleFrom else at_,
                                            settleEnd := at_ + dur, lvlAt := List.replicate 4 (at_ / ftPerNs),
                                            lvlTrim := (List.range 4).map (fun j => s.dacTrim g j (lvlField d (16 * j) 16)) })
  setThr g false (lvlThr d false) (setThr g true (lvlThr d true)
    ((s1.wr (bCh g) F.Ch.PESTAT.LVL_ACTIVE n).wr (bCh g) F.Ch.PESTAT.SETTLING (b2n (decide (0 < dur)))))

/-- The settle timer has run out (R24). -/
def settleExpire (g : Nat) (s : State) : State :=
  if s.rd (bCh g) F.Ch.PESTAT.SETTLING = 1 ∧ (s.chan g).settleEnd ≤ s.eft then s.wr (bCh g) F.Ch.PESTAT.SETTLING 0
  else s

/-- The field that switches tracking of a comparator on, and the flag that its loop holds (R32, R34). -/
def fTrk (ch : Bool) : Fld := if ch then F.Ch.CMPCFG.TRK_CH else F.Ch.CMPCFG.TRK_CL
def fFrac (ch : Bool) : Fld := if ch then F.Ch.CMPCFG.TRK_FRAC_CH else F.Ch.CMPCFG.TRK_FRAC_CL
def fLow (ch : Bool) : Fld := if ch then F.Ch.PESTAT.TRK_LOWSWING_CH else F.Ch.PESTAT.TRK_LOWSWING_CL

/-- A comparator whose tracking is off returns to the threshold in its DAC. -/
def trkOff (g : Nat) (ch : Bool) (s : State) : State :=
  if s.rd (bCh g) (fTrk ch) = 1 then s else setThr g ch (lvlThr (s.chan g).dac ch) (s.wr (bCh g) (fLow ch) 0)

/-- PECFG and CMPCFG of channel g take their staged copies at a levels boundary at elapsed ft `at_` (R23): windows closed
before it keep what covered them, crossings before it are edges by the CH_EN before it (R46), and a changed safe condition
applies to a channel in safe state (R44). -/
def applyLevels (snap : Table Word) (g at_ : Nat) (s0 : State) : State :=
  let s := (closeWins g at_ s0).updChan g (fun c => { c with enAt := at_, enWas := s0.enabledAt g at_ })
  let s1 := applyReg snap (bCh g + F.Ch.CMPCFG.TRK_CH.off) (applyReg snap (bCh g + F.Ch.PECFG.SAFE.off) s)
  let s2 := s1.updChan g (fun c => if c.safe then safeDrive s1 g c else c)
  trkOff g false (trkOff g true s2)

/-! ### Threshold tracking (R32-R34) -/

/-- What the loop makes up of its error in one TBCLK cycle, in 2^-48: 2 pi times the bandwidth of TRK_BW, value 7 as 6.
(DESIGN CHOICE, log 125.) -/
def servoGain (bw : Nat) : Int :=
  match bw with
  | 0 => 1768559438 | 1 => 5305678314 | 2 => 17685594380 | 3 => 53056783140 | 4 => 176855943801 | 5 => 530567831402
  | _ => 1768559438007

/-- One TBCLK cycle of the loop of a comparator with tracking on: it holds and sets its LOWSWING while the swing is below
50 mV, resumes above, and stays in the R18 range (R32, R34). The pin's top and bottom, in 2^-16 code, are what the
envelope detector measures, a free value of the channel and the cycle. (DESIGN CHOICE, log 125.) -/
def servo (g : Nat) (ch : Bool) (s : State) : State :=
  if s.rd (bCh g) (fTrk ch) = 0 ∨ !s.domOn (g / 16) then s
  else
    let top := Config.pinTop g s.cycle
    let bot := Config.pinBot g s.cycle
    let swing := 1000 * (top - bot)
    let limit : Int := 50 * 8192 * 2 ^ 16
    let low := decide (swing < limit) || (decide (swing = limit) && decide (s.rd (bCh g) (fLow ch) = 1))
    if low then s.wr (bCh g) (fLow ch) 1
    else
      let thr := if ch then (s.chan g).thrCh else (s.chan g).thrCl
      let goal := bot * 2 ^ 16 + (s.rd (bCh g) (fFrac ch) : Int) * (top - bot)
      let step := roundDiv ((goal - thr) * servoGain (s.rd (bCh g) F.Ch.CMPCFG.TRK_BW)) (2 ^ 48)
      setThr g ch (clampInt 0 (65535 * 2 ^ 32) (thr + step)) (s.wr (bCh g) (fLow ch) 0)

/-- One TBCLK cycle of every loop. -/
def servoTick (s : State) : State := forN 512 (fun g t => servo g false (servo g true t)) s

/-! ### Parametric unit (R36-R41) -/

/-- PMUCTL.START on channel g (R38, R41): the request keeps the AVG_LOG2 of its START. (DESIGN CHOICE, log 126.) -/
def opPmuStart (g : Nat) (s : State) : State :=
  let m := g / 64
  if s.rd (bCh g) F.Ch.PESTAT.PMU_BUSY = 1 then s
  else if !s.domOn (88 + m) then
    (s.wr (bCh g) F.Ch.PMURES.OFFDOMAIN 1).inc (bCh g) F.Ch.PMURES.SEQ 1
  else
    let a := min 8 (s.rd (bCh g) F.Ch.PMUCTL.AVG_LOG2)
    let q := tget (fun _ => []) s.adcQ m
    let start := match q.getLast? with
      | some (_, _, e) => max s.cycle e
      | none => s.cycle
    ({ s with adcQ := tput (fun _ => []) s.adcQ m (q ++ [(g, a, start + 2000 * 2 ^ a)]) }).wr (bCh g)
      F.Ch.PESTAT.PMU_BUSY 1

/-- A conversion code in a mode (R39): signed 18 bits for a current, in FVMI, else unsigned 18 bits; and one at a limit. -/
def adcCode (mode : Nat) (c : Int) : Bool :=
  if mode = 1 then decide (-131072 ≤ c ∧ c ≤ 131071) else decide (0 ≤ c ∧ c ≤ 262143)
def adcLimit (mode : Nat) (c : Int) : Bool :=
  if mode = 1 then decide (c = -131072 ∨ c = 131071) else decide (c = 0 ∨ c = 262143)

/-- ADC m completes the request at the head of its queue (R39): `codes` are its conversions, in the mode the unit is in
now, `clamped` whether a clamp acted during one and `overrange` whether one is at a code limit. A report whose codes or
whose `overrange` do not fit the mode does not occur and does nothing. (DESIGN CHOICE, log 126.) -/
def pmuComplete (m : Nat) (codes : List Int) (clamped overrange : Bool) (s : State) : State :=
  match tget (fun _ => []) s.adcQ m with
  | [] => s
  | (g, a, e) :: rest =>
    let mode := s.rd (bCh g) F.Ch.PMUCTL.MODE
    if s.cycle < e ∨ codes.length ≠ 2 ^ a ∨ !codes.all (adcCode mode) ∨ overrange ≠ codes.any (adcLimit mode) then s
    else
      let s1 : State := { s with adcQ := tput (fun _ => []) s.adcQ m rest }
      let s2 := s1.wr (bCh g) F.Ch.PMURES.RESULT (ofSigned 32 (codes.foldl (· + ·) 0))
      let s3 := ((s2.wr (bCh g) F.Ch.PMURES.CLAMPED (b2n clamped)).wr (bCh g) F.Ch.PMURES.OVERRANGE
        (b2n overrange)).wr (bCh g) F.Ch.PMURES.OFFDOMAIN 0
      (s3.inc (bCh g) F.Ch.PMURES.SEQ 1).wr (bCh g) F.Ch.PESTAT.PMU_BUSY 0

/-! ### Meanings -/

/-- PMU_START: a write of 1 to PMUCTL.START (R38, R41). -/
def execPmuStart (k : Fin 32) (c : Fin 16) (s : State) : Outcome State Fault Refusal :=
  act s (cmdAccess (bCh (16 * k + c)) false false (opPmuStart (16 * k + c)))

/-- SAFE_RELEASE: a write of 1 to PECFG.SAFE_RELEASE (R44). -/
def execSafeRelease (k : Fin 32) (c : Fin 16) (s : State) : Outcome State Fault Refusal :=
  act s (cmdAccess (bCh (16 * k + c)) false false (opSafeRelease (16 * k + c)))

/-- SETTLE_TIMER_EXPIRY (R24). -/
def execSettleTimerExpiry (k : Fin 32) (c : Fin 16) (s : State) : Outcome State Fault Refusal :=
  act s (settleExpire (16 * k + c))

/-- PMU_CONVERSION_COMPLETE (R39). -/
def execPmuConversionComplete (m : Fin 8) (codes : List Int) (clamped overrange : Bool) (s : State) :
    Outcome State Fault Refusal :=
  act s (pmuComplete m codes clamped overrange)

/-- SAFE_CONDITION_REACHED (R42). -/
def execSafeConditionReached (k : Fin 32) (c : Fin 16) (s : State) : Outcome State Fault Refusal :=
  act s (reachSafe (16 * k + c))

end Sys2Proof.Machine
end

