-- ==== Sys2Proof/Machine/Place.lean ====
section
/-! DEFINITION. Edge placement (R75-R95) and the judgement of compare vectors (R197): timing sets, drive events, windows,
echoes and the deskew loop. -/

namespace Sys2Proof.Machine

open Host

/-! ### Timing sets and periods -/

/-- A timing set's positions and control (R81). -/
structure TSet where
  e0 : Nat
  e1 : Nat
  w0o : Nat
  w0c : Nat
  w1o : Nat
  w1c : Nat
  fmt : Nat
  w0en : Bool
  w1en : Bool
  deriving DecidableEq, Repr

/-- Timing set t of channel g as the table holds it at the read (R81, R83). -/
def State.timingSet (s : State) (g t : Nat) : TSet :=
  let x := tTiming + 0x1000 * g + 0x40 * t
  let p := fun i => s.tq (x + 8 * i) % 2 ^ 42
  let c := s.tq (x + 48)
  { e0 := p 0, e1 := p 1, w0o := p 2, w0c := p 3, w1o := p 4, w1c := p 5, fmt := c % 8, w0en := c.testBit 3,
    w1en := c.testBit 4 }

/-- The period entry i of skein k, held to 640 ft to 2^41 ft (R78). -/
def State.period (s : State) (k i : Nat) : Nat := max 640 (min (2 ^ 41) (s.tq (tPeriod + 0x80 * k + 8 * i) % 2 ^ 42))

/-- A position is placed at most 4,096 ft beyond the period (R82). -/
def clampPos (p pos : Nat) : Nat := min pos (p + 4096)

/-! ### Drive events -/

/-- What a state code, a format and the lane bits put on the driver at E0 and E1 (R84, R21): none where no event is
placed. `b0`, `b1` are the lane bits of state 9. -/
def driveLevels (state fmt : Nat) (b0 b1 : Bool) : Option Drive × Option Drive :=
  let lv := fun (b : Bool) => some (if b then Drive.vih else Drive.vil)
  match state with
  | 0 => (lv false, match fmt with | 2 => lv true | 3 => lv true | _ => none)
  | 1 => (lv true, match fmt with | 1 => lv false | 3 => lv false | _ => none)
  | 9 => (lv b0, match fmt with | 1 => lv false | 2 => lv true | 3 => lv (!b0) | 4 => lv b1 | _ => none)
  | 8 => (some .vterm, none)
  | 7 => (none, none)
  | _ => (some .hiZ, none)

/-- The correction a drive event takes by the level it drives (R92). -/
def dskFor (r f : Int) : Drive → Int
  | .vih => r
  | .vil => f
  | _ => 0

/-- Order of placed events: earlier time first, and at one ft the winner last (R85). -/
def evBefore (a b : DriveEv) : Bool :=
  decide (a.at_ < b.at_) || (decide (a.at_ = b.at_) && (decide (a.s < b.s) || (decide (a.s = b.s) && !a.isE1 && b.isE1)))

/-- Insertion of an event in that order. -/
def insEv (e : DriveEv) : List DriveEv → List DriveEv
  | [] => [e]
  | a :: t => if evBefore e a then e :: a :: t else a :: insEv e t

/-- The threshold in force of a comparator lies strictly between VIL and VIH of the loaded set (R91). -/
def State.crossesEcho (s : State) (g : Nat) (ch : Bool) : Bool :=
  let c := s.chan g
  let thr := if ch then c.thrCh else c.thrCl
  let hi : Int := lvlField c.dac 0 16 * 2 ^ 32
  let lo : Int := lvlField c.dac 16 16 * 2 ^ 32
  decide ((lo < thr ∧ thr < hi) ∨ (hi < thr ∧ thr < lo))

/-- An echo that is not found, shed, crowded or too close (R91); a disabled channel counts none (R46). -/
def echoMiss (g : Nat) (s : State) : State :=
  if s.rd (bCh g) F.Ch.PECFG.CH_EN = 1 then s.inc (bCh g) F.Ch.ECHO_MISS 1 else s

/-- DRIVE_EVENT: the earliest placed event of the channel that falls into the present cycle or before it sets the level
it names; events tied with it and losing make no pulse (R85). It expects an echo under R91, with the comparator and the
offset in force at its placement (R95); one tied with another event is too close to it. A drive to VIH expects a rising
stamp and takes +ECHO_OFS also where the loaded set has VIH below VIL (DESIGN CHOICE, log 157), and an event that a
negative correction puts before the S that releases its channel is applied while the channel is still in safe state
(DESIGN CHOICE, log 158). -/
def driveEvent (g : Nat) (s : State) : State :=
  match (s.chan g).evs with
  | [] => s
  | e :: t =>
    if s.eft + ftPerNs ≤ e.at_ then s
    else
      let tied := t.takeWhile (fun a => a.at_ == e.at_)
      let w := tied.getLast?.getD e
      let rest := t.dropWhile (fun a => a.at_ == e.at_)
      let c := s.chan g
      let close := !tied.isEmpty || (match c.lastEv with | some l => decide (e.at_ < l + 320) | none => false) ||
        (match rest with | [] => false | a :: _ => decide (a.at_ < e.at_ + 320))
      let swings := s.pinLive g && ((c.drive == .vil && w.level == .vih) || (c.drive == .vih && w.level == .vil))
      let rising := w.level == .vih
      let s1 := s.updChan g (fun c => { c with evs := rest, drive := w.level, loadOn := w.level == .hiZ, lastEv := some e.at_ })
      match w.echo with
      | some (ch, ofs) =>
        if !swings || !s.crossesEcho g ch then s1
        else if close then echoMiss g s1
        else
          let x := shiftFt (s.toLocal w.intended) (if rising then ofs else -ofs)
          s1.updChan g (fun c => { c with echoes := c.echoes ++ [{ x := x, rising := rising, ch := ch }] })
      | none => s1

/-! ### Echoes and the deskew loop (R91, R92) -/

/-- ECHO_LOCK of R92: a direction has had an echo, and every one that has, a last residual under half an ft.
(DEDUCED, log 127.) -/
def echoLockUpd (g : Nat) (s : State) : State :=
  let c := s.chan g
  s.wr (bCh g) F.Ch.EPSTAT.ECHO_LOCK (b2n ((c.echoR || c.echoF) && (!c.echoR || c.smallR) && (!c.echoF || c.smallF)))

/-- No direction of channel g counts as having had an echo: at the engine's start and where TRK_EN applies as 1 (R92). -/
def echoAnew (g : Nat) (s : State) : State :=
  echoLockUpd g (s.updChan g (fun c => { c with echoR := false, echoF := false }))

/-- An expectation is over: one of a deskew pulse stays until its pulse phase ends (R332). -/
def echoOver (g : Nat) (e : Echo) (s : State) : State :=
  s.updChan g (fun c =>
    let l := if e.code.isSome then c.echoes.map (fun a => if a = e then { a with got := true, cand := none } else a)
      else c.echoes.erase e
    { c with echoes := l })

/-- The echo of an expectation is the edge at `t`: a fine stamp's skew enters the sums, or the sample of the deskew whose
pulse it is (R331); a shed or crowded one is a miss (R91). ECHO_CNT counts what enters the loop.
(DEDUCED, log 161.) -/
def echoTake (g : Nat) (e : Echo) (t : Nat) (kind : EvKind) (s : State) : State :=
  let s1 := echoOver g e s
  if kind ≠ .fine then echoMiss g s1
  else if e.code.isSome then dskSkew g e.rising (e.code.getD 0) (delta e.x t) s1
  else if s.rd (bCh g) F.Ch.PECFG.CH_EN = 0 then s1
  else
    let d := delta e.x t
    echoLockUpd g ((s1.updChan g (fun c => if e.rising then { c with sumR := c.sumR + d, cntR := c.cntR + 1, echoR := true }
      else { c with sumF := c.sumF + d, cntF := c.cntF + 1, echoF := true })).inc (bCh g) F.Ch.ECHO_CNT 1)

/-- The expectations of channel g whose first edge by time is known take it (R91). -/
def echoSettle (g : Nat) (s : State) : State :=
  forL (s.chan g).echoes (fun e t => match e.cand with
    | some (at_, kind) => if t.outstandingCmp g e.ch at_ then t else echoTake g e at_ kind t
    | none => t) s

/-- An edge read by echo matching: a stamp or a crowded notice of the echo comparator with the matching slope, in
X - 128 to X + 128 ft, is the echo if no earlier one is still outstanding (R91). (DEDUCED, log 127.) -/
def echoMatch (g : Nat) (ch rising : Bool) (t : Nat) (kind : EvKind) (s : State) : State :=
  let hit := fun (e : Echo) => !e.got && e.ch == ch && e.rising == rising && decide (-128 ≤ delta e.x t ∧ delta e.x t ≤ 128)
  match (s.chan g).echoes.find? hit with
  | none => echoSettle g s
  | some e =>
    let first := match e.cand with
      | some (u, k) => if 0 < delta t u then (t, kind) else (u, k)
      | none => (t, kind)
    echoSettle g (s.updChan g (fun c => { c with echoes := c.echoes.map (fun a => if a = e then { a with cand := some first } else a) }))

/-- ECHO_MISS: the oldest expected echo whose window has passed, with no edge that could match it outstanding (R91). -/
def echoExpire (g : Nat) (s : State) : State :=
  match (s.chan g).echoes.find? (fun e => !e.got) with
  | none => s
  | some e =>
    if e.cand.isNone ∧ 128 < delta e.x s.nowFt ∧ !s.outstandingCmp g e.ch (shiftFt e.x 129) then
      echoMiss g (echoOver g e s)
    else s

/-- One direction of the loop's evaluation: the new correction, whether its clamp cut the step, RESID and whether it is
under half an ft (R92). A step that ends at the limit without being cut is not held there. (DESIGN CHOICE, log 128.) -/
def dskStep (sum : Int) (cnt : Nat) (d : Int) : Int × Bool × Int × Bool :=
  let n : Int := cnt
  let d1 := if n ≤ 2 * sum then d - 1 else if 2 * sum ≤ -n then d + 1 else d
  let d2 := clampInt (-2048) 2047 d1
  (d2, decide (d1 ≠ d2), clampInt (-32768) 32767 (roundDiv (500 * sum) n), decide (2 * sum.natAbs < cnt))

/-- The registers of one direction of the loop: correction and residual. -/
def fDsk (r : Bool) : Fld := if r then F.Ch.DSKEW.DSK_R else F.Ch.DSKEW.DSK_F
def fResid (r : Bool) : Fld := if r then F.Ch.ECHORES.RESID_R else F.Ch.ECHORES.RESID_F

/-- The evaluation of one direction of channel g (R92, R93): nothing where its window held no echo; the correction stays
while TRK_EN is 0. -/
def dskEval (g : Nat) (r : Bool) (s : State) : State :=
  let c := s.chan g
  let n := if r then c.cntR else c.cntF
  if n = 0 then s
  else
    let e := dskStep (if r then c.sumR else c.sumF) n (s.rdInt (bCh g) (fDsk r))
    let s1 := (s.wrInt (bCh g) (fResid r) e.2.2.1).updChan g (fun c =>
      if r then { c with smallR := e.2.2.2 } else { c with smallF := e.2.2.2 })
    if s.rd (bCh g) F.Ch.EPCFG.TRK_EN = 1 then (s1.wrInt (bCh g) (fDsk r) e.1).flag (bCh g) F.Ch.EPSTAT.DSK_LIMIT e.2.1
    else s1

/-- The deskew loop at the issue of a vector on channel g (R92): at every 2^DSK_SLEW-th vector it is evaluated. The
corrections it leaves apply from the next vector: the vector at hand takes those that were in force before. -/
def dskIssue (g : Nat) (s : State) : State :=
  let n := (s.chan g).vecN
  let s1 := s.updChan g (fun c => { c with vecN := n + 1 })
  if 0 < n ∧ n % 2 ^ s.rd (bCh g) F.Ch.EPCFG.DSK_SLEW = 0 then
    echoLockUpd g ((dskEval g false (dskEval g true s1)).updChan g (fun c => { c with sumR := 0, cntR := 0, sumF := 0, cntF := 0 }))
  else s1

/-! ### Placing a vector on a channel (R76, R82-R89, R92, R193) -/

/-- The next lane bits of state 9 (R193): the bits, the channel with its pointer advanced, and whether a bit was drawn
past bit 63. -/
def laneBits (dual : Bool) (c : Chan) : Bool × Bool × Chan × Bool :=
  let bit := fun i => if i < 64 then c.sub.toNat.testBit i else false
  let n := if dual then 2 else 1
  (bit c.subPtr, if dual then bit (c.subPtr + 1) else false, { c with subPtr := min 64 (c.subPtr + n) },
    decide (64 < c.subPtr + n))

/-- An open and a close become a window; a close before its open is a point strobe at the open (R88). Both are compared
as placed, after the clamp of R82. (DESIGN CHOICE, log 129.) -/
def mkWin (s p o c : Nat) : Win × Bool :=
  let o' := s + clampPos p o
  let c' := s + clampPos p c
  if c' < o' then ({ opn := o', cls := o' }, true) else ({ opn := o', cls := c' }, false)

/-- Vector number `n`, the idx-th from START, with pin start `sft` and period `p` placed on channel g of a skein under the
corrections `r` and `f`: `state` is the code in force after parking and R182, `parked` whether the channel is parked. A
channel that is safe places nothing (R87), but one that a restarted engine releases at an S of its run does (R44). -/
def placeCode (g n idx sft p : Nat) (r f : Int) (v : Vec) (state : Nat) (parked : Bool) (s0 : State) : State :=
  let c0 := s0.chan g
  let ts := s0.timingSet g v.tsi
  let test := if state = 7 then c0.lastState else state
  let lb := laneBits (ts.fmt == 4) c0
  let takes := decide (state = 9) && !parked
  let c1 := if takes then lb.2.2.1 else c0
  let lv := driveLevels state ts.fmt (takes && lb.1) (takes && lb.2.1)
  let s := s0
  let safe := c1.safe && !c1.rel
  let echo := if s.rd (bCh g) F.Ch.EPCFG.TRK_EN = 1 then
      some (decide (s.rd (bCh g) F.Ch.EPCFG.ECHO_COMP = 1), s.rdInt (bCh g) F.Ch.EPCFG.ECHO_OFS) else none
  let mk := fun (pos : Nat) (isE1 : Bool) (l : Option Drive) => match l with
    | none => ([] : List DriveEv)
    | some d => [{ at_ := ((sft + clampPos p pos : Nat) + dskFor r f d : Int).toNat, intended := sft + clampPos p pos,
                   s := sft, isE1 := isE1, level := d, echo := echo }]
  let es := if safe then [] else mk ts.e0 false lv.1 ++ mk ts.e1 true lv.2
  let evs := es.foldl (fun l e => insEv e l) c1.evs
  let near := fun (a b : DriveEv) => decide (a ≠ b) && decide (a.at_ < b.at_ + 320 ∧ b.at_ < a.at_ + 320)
  let tight := es.any (fun e => c1.evs.any (near e) || es.any (near e) ||
    (match c1.lastEv with | some l => decide (e.at_ < l + 320) | none => false))
  let windows := decide (3 ≤ test ∧ test ≤ 6) && !parked
  let far := fun (x : Nat) => decide (p + 4096 < x)
  let ovr := !safe && ((lv.1.isSome && far ts.e0) || (lv.2.isSome && far ts.e1) ||
    (windows && ((ts.w0en && (far ts.w0o || far ts.w0c)) || (ts.w1en && (far ts.w1o || far ts.w1c)))))
  let w0 := mkWin sft p ts.w0o ts.w0c
  let w1 := mkWin sft p ts.w1o ts.w1c
  let judged := windows && decide (test ≤ 5) && !safe
  let rev := windows && !safe && ((ts.w0en && w0.2) || (ts.w1en && w1.2))
  let cmp : Cmp := { vec := n, idx := idx, s := sft, final := sft + p + 24 * ftPerNs, state := test,
                     w0 := if ts.w0en then some w0.1 else none, w1 := if ts.w1en then some w1.1 else none,
                     latchable := !v.nolatch && s.bit (bSk (g / 16)) F.Sk.FAILLAT.MASK (g % 16), ftrg := v.ftrg,
                     cleared := false }
  let s1 := s0.setChan g { c1 with evs := evs, lastState := test, cmps := if judged then c1.cmps ++ [cmp] else c1.cmps }
  let s2 := (s1.flag (bCh g) F.Ch.EPSTAT.TIGHT tight).flag (bCh g) F.Ch.EPSTAT.POSCLAMP ovr
  (s2.flag (bCh g) F.Ch.EPSTAT.WREV rev).flag (bSk (g / 16)) F.Sk.VSTAT.SUBEMPTY (takes && lb.2.2.2)

/-- A vector placed on channel g: the deskew loop first, under whose earlier corrections the vector is placed (R92). -/
def placeOn (g : Nat) (n idx sft p : Nat) (v : Vec) (state : Nat) (parked : Bool) (s : State) : State :=
  placeCode g n idx sft p (s.rdInt (bCh g) F.Ch.DSKEW.DSK_R) (s.rdInt (bCh g) F.Ch.DSKEW.DSK_F) v state parked (dskIssue g s)

/-! ### Judgement (R88, R89, R197, R24) -/

/-- Whether a window passes: its condition holds at the open and no output it tests changes from the open to the close,
inclusive (R88); a point strobe has one ft. -/
def winPass (state : Nat) (o : WinObs) : Bool :=
  match state with
  | 3 => !o.cl && !o.clChanged
  | 4 => o.ch && !o.chChanged
  | 5 => o.cl && !o.ch && !o.clChanged && !o.chChanged
  | _ => true

/-- COMPARE_JUDGEMENT: the oldest compare vector of the channel whose judgement is final. -/
def judge (g : Nat) (o0 o1 : WinObs) (s : State) : State :=
  match (s.chan g).cmps with
  | [] => s
  | m :: rest =>
    if s.eft < m.final then s
    else
      let s1 := s.updChan g (fun c => { c with cmps := rest })
      let bad := fun (w : Option Win) (o : WinObs) => match w with
        | some w => !winPass m.state o && (s.winFate g w).2
        | none => false
      let msk := fun (w : Option Win) => match w with | some w => (s.winFate g w).1 | none => false
      let nMask := b2n (bad m.w0 o0 && msk m.w0) + b2n (bad m.w1 o1 && msk m.w1)
      let fail := (bad m.w0 o0 && !msk m.w0) || (bad m.w1 o1 && !msk m.w1)
      let s2 := s1.inc (bCh g) F.Ch.SETTLE_MASKED nMask
      if !fail then s2
      else
        let k := g / 16
        let i := g % 16
        let bs := bSk k + 8 * i
        let s3 := s2.inc bs F.Sk.FAILCNT 1
        let s4 := if m.latchable && !m.cleared then
            let t := s3.raise (bSk k) F.Sk.FAILLAT.LATCH i
            if t.rd bs F.Sk.FIRSTFAIL.VALID = 0 then (t.wr bs F.Sk.FIRSTFAIL.VEC m.vec).wr bs F.Sk.FIRSTFAIL.VALID 1
            else t
          else s3
        if m.latchable && m.ftrg then
          raiseCond 2 (fun _ sel => sel.testBit k) (stampAt (s.toLocal m.s)) s4
        else s4

/-! ### Meanings -/

/-- DRIVE_EVENT (R84-R86, R91). -/
def execDriveEvent (k : Fin 32) (c : Fin 16) (s : State) : Outcome State Fault Refusal :=
  act s (driveEvent (16 * k + c))

/-- COMPARE_JUDGEMENT (R88, R89, R197). -/
def execCompareJudgement (k : Fin 32) (c : Fin 16) (w0 w1 : WinObs) (s : State) : Outcome State Fault Refusal :=
  act s (judge (16 * k + c) w0 w1)

/-- ECHO_MISS (R91). -/
def execEchoMiss (k : Fin 32) (c : Fin 16) (s : State) : Outcome State Fault Refusal :=
  act s (echoExpire (16 * k + c))

end Sys2Proof.Machine
end

