-- ==== Sys2Proof/Machine/Measure.lean ====
section
/-! DEFINITION. Measurement arithmetic (R96-R134): slot configuration, gates, results and their publication. -/

namespace Sys2Proof.Machine

open Host

/-! ### Configuration (R97-R99, R103) -/

/-- The wait window of a source for a slot of skein k, in ns (R97). -/
def srcWait (k c : Nat) : Nat :=
  let j := c % 32
  if j = k then 32 else if j + 1 = k ∨ k + 1 = j then 72 else 300

/-- The slot's wait window (R97); a SKEW slot adds PAIR_BACK (R121). -/
def MCfg.wait (c : MCfg) (k : Nat) : Nat :=
  (c.sources.map (srcWait k)).foldl max 32 + (if c.type = 12 then (c.back + 511) / 512 else 0)

/-- The LEN range of each gate mode (R103). -/
def MCfg.lenOk (c : MCfg) : Bool :=
  match c.gmode with
  | 0 => decide (1 ≤ c.len ∧ c.len ≤ 1000000000)
  | 1 => true
  | 2 => decide (1 ≤ c.len ∧ c.len ≤ 2 ^ 40)
  | _ => decide (2 ≤ c.len ∧ c.len ≤ 2 ^ 44)

/-- One slope alone. -/
def single (c : Nat) : Bool := srcSlope c == 1 || srcSlope c == 2

/-- The rules a configuration must keep by itself (R99, R103, R125, R126). -/
def MCfg.valid (c : MCfg) (k j : Nat) : Bool :=
  c.lenOk &&
  (c.gmode != 2 || srcSlope c.arm != 0) &&
  (srcSlope c.arm == 0 || decide (c.arm % 32 = k ∨ c.arm % 32 + 1 = k ∨ k + 1 = c.arm % 32)) &&
  (match c.type with
   | 1 | 2 | 3 => single c.srcA
   | 9 => c.opt.testBit 0 || (single c.srcA && single c.srcB)
   | 10 => single c.srcA && c.refper != 0
   | 6 | 7 => srcSlope c.srcA == 3
   | 11 => decide (j < 8) && (c.opt % 4 != 3 || c.refper != 0)
   | 13 | 14 | 15 => false
   | _ => true)

/-- The comparators that valid slots of skein k take from skeins the test selects, as slot j finds them (R98): every other
slot, but of the ones whose configurations applied in the same cycle only the lower. -/
def State.copies (s : State) (k j : Nat) (sel : Nat → Bool) : List Nat :=
  let mine := (s.slot k j).applied.map (·.cyc)
  ((List.range 64).flatMap (fun i =>
    if i = j ∨ (s.slot k i).cfgErr ∨ (j < i ∧ mine.isSome ∧ (s.slot k i).applied.map (·.cyc) = mine) then []
    else ((s.mcfg k i).sources.filter (fun c => sel (c % 32))).map srcCmp)).eraseDups

/-- The link limits of R98: 4 comparators of each neighbour, 8 of the other skeins. -/
def State.linksOk (s : State) (k j : Nat) (c : MCfg) : Bool :=
  let mine := fun (sel : Nat → Bool) => (c.sources.filter (fun x => sel (x % 32))).map srcCmp
  let fits := fun (sel : Nat → Bool) (n : Nat) => decide (mine sel = [] ∨ ((s.copies k j sel ++ mine sel).eraseDups).length ≤ n)
  fits (fun x => x + 1 == k) 4 && fits (fun x => k + 1 == x) 4 &&
    fits (fun x => x != k && x + 1 != k && k + 1 != x) 8

/-- The applied configuration of slot j is judged (R98, R99); an error sets its bit in MAUERR. TYPE = OFF is no error
whatever its other fields hold. (DESIGN CHOICE, log 131.) -/
def judgeCfg (k j : Nat) (s : State) : State :=
  let c := s.mcfg k j
  let err := c.type != 0 && !(c.valid k j && s.linksOk k j c)
  let s1 := s.updSlot k j (fun x => { x with cfgErr := err })
  if err then s1.raise (bSk k) F.Sk.MAUERR.CFGERR j else s1

/-- The slot acts under a valid configuration other than OFF. -/
def State.slotLive (s : State) (k j : Nat) : Bool := (s.mcfg k j).type != 0 && !(s.slot k j).cfgErr

/-- CNT.GSTATE follows the slot. -/
def gstateUpd (k j : Nat) (s : State) : State :=
  let x := s.slot k j
  s.wr (bSlot k j) F.Slot.CNT.GSTATE
    (if x.opn.isSome then 2 else if x.armReady then 1 else if !x.fins.isEmpty || !x.jobs.isEmpty then 3 else 0)

/-! ### Gates (R102-R108) -/

/-- A gate opens at O. -/
def openGate (k j o : Nat) (s : State) : State :=
  gstateUpd k j (s.updSlot k j (fun x => { x with
    opn := some o, deferC := none, str := false, armReady := false }))

/-- A slot is ready at `o` under its present configuration with no gate open: an ARMED slot waits for its ARM stamp, a
COUNT slot opens at `o`, TIMED and PROGRAM slots wait (R103, R104). (DEDUCED, log 66.) -/
def slotReady (k j o : Nat) (s : State) : State :=
  let s1 := s.updSlot k j (fun x => { x with
    opn := none, deferC := none, str := false, chain := 0, reopen := false,
    armReady := s.slotLive k j && (s.mcfg k j).gmode == 2, armFrom := o, spent := false })
  if s1.slotLive k j ∧ (s1.mcfg k j).gmode = 3 then openGate k j o s1 else gstateUpd k j s1

/-- The elapsed ft of an instant `t` near now of the local scale after `ep` loads. -/
def State.elapsedOn (s : State) (ep t : Nat) : Int := (s.eft : Int) + delta (s.nowOn ep) t

/-- The elapsed ns from which a gate of slot configuration m that closes at C may be computed (R97, R134). -/
def State.readyFrom (s : State) (k ep c : Nat) (m : MCfg) : Nat := (s.elapsedOn ep c + 511).toNat / 512 + m.wait k

/-- The edges of the sources slot j has named so far are kept under their SCFG and scale for the gates that are finishing
under them; from now on it takes those of `new` alone, on the present scale (R106, R108). -/
def newGen (keepA keepB : Bool) (scfg : Word) (ep : Nat) (x : Slot) : Slot :=
  { x with
    gen := x.gen + 1
    olds := if (x.fins ++ x.armOld.toList).any (fun f => f.gen == x.gen) then x.olds ++ [{ gen := x.gen, scfg := scfg, ep := ep, evA := x.evA, evB := x.evB }]
            else x.olds
    evA := if keepA then x.evA else []
    evB := if keepB then x.evB else [] }

/-- The bins and the counts of a HIST slot return to zero. -/
def zeroHist (k j : Nat) (s : State) : State :=
  if j < 8 then
    (forN 256 (fun i t => t.setTw (tHist + 0x2000 * k + 0x400 * j + 4 * i) 0#32) s).updSlot k j
      (fun x => { x with under := 0, ovr := 0, entered := 0 })
  else s

/-- Insertion of an ARM stamp in time order. -/
def insArm (a : Arm) : List Arm → List Arm
  | [] => [a]
  | b :: l => if 0 < delta a.t b.t then a :: b :: l else b :: insArm a l

/-- The first ARM stamp that a configuration takes at or after an instant of the scale after `ep` loads (R103). -/
def firstArm (arms : List Arm) (m : MCfg) (ep from_ : Nat) : Option Nat :=
  (arms.find? (fun a => a.ep == ep && srcTakes m.arm a.g a.ch a.rising && decide (0 ≤ delta from_ a.t))).map (·.t)

/-- A slot goes on after its configuration has applied, or after a close: the next gate opens as the mode and REARM say
(R104, R106, R202). A TIMED configuration that applies at C opens its gate there only where C is a boundary of its own LEN
and REARM is 1. (DESIGN CHOICE, log 133.) -/
def goOn (k j : Nat) (a : Applied) (s : State) : State :=
  let m := s.mcfg k j
  let live := s.slotLive k j && !(s.slot k j).spent
  if a.now then slotReady k j a.c s
  else match m.gmode with
    | 0 => if live ∧ !a.epj ∧ m.rearm ∧ (a.c / 512) % (1000 * m.len) = 0 then openGate k j a.c s else gstateUpd k j s
    | 1 =>
      if !live ∨ a.epj ∨ (a.chain = 0 ∧ !a.reopen) then gstateUpd k j s
      else if a.chain = 0 then openGate k j a.c s
      else (openGate k j a.c s).updSlot k j (fun y => { y with
        deferC := some ((a.c + 512000) % ftMod), str := true, chain := a.chain - 1, reopen := a.reopen })
    | 2 => match live, firstArm (s.slot k j).arms m s.loads a.next with
      | true, some t => openGate k j t s
      | _, _ => gstateUpd k j (s.updSlot k j (fun y => { y with armReady := live }))
    | _ => if live then openGate k j a.next s else gstateUpd k j s

/-- A MAUERR bit set in the present cycle by a judgement that does not stand is taken back. -/
def unErr (k j : Nat) (s : State) : State :=
  let f := F.Sk.MAUERR.CFGERR
  let x := bSk k + f.off
  if (fget (tget regReset s.regs0 x) f.hi f.lo).testBit j then s
  else { s.setBit (bSk k) f j false with
    raised := tput (fun _ => 0#64) s.raised x (s.raisedAt x &&& ~~~ (fmask (f.lo + j) (f.lo + j))) }

/-- Slot i has taken its configuration in the present cycle and a lower slot takes one now: judged again, it stops, or goes
on as if it had been judged in ascending order (R98). -/
def rejudge (k i : Nat) (a : Applied) (s : State) : State :=
  let was := (s.slot k i).cfgErr
  let s1 := judgeCfg k i s
  if (s1.slot k i).cfgErr = was then s1
  else if was then goOn k i a (unErr k i s1)
  else gstateUpd k i (s1.updSlot k i (fun x => { newGen true true (s1.reg (bSlot k i)) s.loads x with
    opn := none, deferC := none, str := false, chain := 0, reopen := false, armReady := false }))

/-- Slot j has taken a configuration in this cycle: it is judged, and so are the higher slots that did too, in ascending
order (R98). -/
def judgeFrom (k j : Nat) (a : Applied) (s : State) : State :=
  forN 64 (fun i t => match (t.slot k i).applied with
      | some b => if j < i ∧ b.cyc = t.cycle then rejudge k i b t else t
      | none => t)
    (judgeCfg k j (s.updSlot k j (fun x => { x with applied := some a })))

/-- A staged configuration applies to slot j (R106, R99): it is judged; with changed sources, or where it is OFF or in
error, the edges that finishing gates own go on to them under the old one; and a changed TYPE, SRCA, SRCB or GMODE zeroes
the histogram, at once: what a gate that closed at this instant contributes enters the zeroed bins.
(DESIGN CHOICE, log 132.) -/
def loadCfg (snap : Table Word) (k j : Nat) (a : Applied) (s : State) : State :=
  let b := bSlot k j
  let old := s.mcfg k j
  let s1 := forL [b, b + 0x8, b + 0x10, b + 0x18, b + 0x20] (applyReg snap) s
  let new := s1.mcfg k j
  let sameA := old.srcA == new.srcA
  let sameB := old.srcB == new.srcB && old.usesB == new.usesB
  let s2 := judgeFrom k j a s1
  let same := sameA && sameB && (new.gmode != 2 || old.sources == new.sources) && s2.slotLive k j
  let s3 := if same then s2 else s2.updSlot k j (newGen sameA sameB old.scfg s.loads)
  if old.type != new.type || !sameA || old.srcB != new.srcB || old.gmode != new.gmode then zeroHist k j s3 else s3

/-- A gate closes at C (R102, R106): what it owned is finishing; a commit that waits for this C applies and governs the
gate that opens at it; the slot goes on (R104). `epj`: closed by a coarse-count load, with `o2` the load boundary on the
new scale: ARMED slots are ready again and COUNT slots open (R108). -/
def closeGate (k j c : Nat) (epj : Bool) (o2 : Nat) (s : State) : State :=
  match (s.slot k j).opn with
  | none => s
  | some o =>
    let x := s.slot k j
    let m := s.mcfg k j
    let next := if epj then o2 else c
    let fin : Fin_ := { o := o, c := c, gen := x.gen, ep := s.loads, armFrom := x.armFrom, prev := x.lastC,
                        readyAt := s.readyFrom k s.loads c m, str := x.str && !epj, epj := epj, scfg := m.scfg,
                        gcfg := m.gcfg, param := m.param, limMin := m.limMin, limMax := m.limMax }
    let s1 := s.setSlot k j { x with opn := none, deferC := none, str := false, fins := x.fins ++ [fin], lastC := some next,
                                      armFrom := next, chain := 0, reopen := false }
    let a : Applied := { cyc := s.cycle, now := false, c := c, next := next, epj := epj, chain := x.chain, reopen := x.reopen }
    let s2 := match s1.unitSnap (uSlot k j) with
      | some snap => unitDone (uSlot k j) ((loadCfg snap k j a s1).updSlot k j (fun x => { x with spent := false }))
      | none => if m.rearm || m.gmode == 1 || (epj && m.gmode != 0) then s1
                else s1.updSlot k j (fun x => { x with spent := true })
    goOn k j a s2

/-- A close at C, deferred to 512,000 ft after the slot's previous close where it would fall earlier (R105). -/
def closeAt (k j c : Nat) (s : State) : State :=
  let x := s.slot k j
  if x.deferC.isSome then s
  else match x.lastC with
    | some l => if delta l c < 512000 then
        s.updSlot k j (fun y => { y with deferC := some ((l + 512000) % ftMod), str := true })
      else closeGate k j c false 0 s
    | none => closeGate k j c false 0 s

/-- A slot is cleared (R107, R205): an open gate and a pending result are abandoned, each counting in ABANDONED where
there are both (DESIGN CHOICE, log 134), sums and HIST bins are zeroed, and the slot is ready under its present
configuration. RDY clears. -/
def clearSlot (k j : Nat) (s : State) : State :=
  let x := s.slot k j
  let n := b2n x.opn.isSome + b2n (!x.fins.isEmpty || !x.jobs.isEmpty)
  let s1 := (s.inc (bSlot k j) F.Slot.CNT.ABANDONED n).setSlot k j { x with
    evA := [], evB := [], olds := [], fins := [], jobs := [], arms := [], armOld := none, rdy := false, opn := none, entered := 0, under := 0, ovr := 0 }
  let s2 := s1.updSkein k (fun z => { z with divQ := z.divQ.filter (· ≠ j), divBusy := z.divBusy.filter (fun p => p.1 ≠ j) })
  let s3 := if (s2.mcfg k j).type = 11 then zeroHist k j s2 else s2
  slotReady k j s3.nowFt s3

/-- MAUCLR or MCLR on every slot whose bit is set. -/
def clearSlots (k : Nat) (mask : Nat) (s : State) : State :=
  forN 64 (fun j t => if mask.testBit j then clearSlot k j t else t) s

/-- A slot with no gate open applies a snapshot at once (R106): an ARMED slot still waiting included. -/
def applySlotNow (snap : Table Word) (k j : Nat) (s : State) : State :=
  let a : Applied := { cyc := s.cycle, now := true, c := s.nowFt, next := s.nowFt, epj := false, chain := 0, reopen := false }
  goOn k j a (loadCfg snap k j a s)

/-- A GATE item acts on slot j at instant `inst` (R202). While a close is deferred, the gate that opens at the deferred C
counts as open from its item on, and what closes it then is deferred in turn: `chain` counts the gates that open and
close so. A deferred C at or before the instant comes first, and the item finds the gate closed. -/
def gateSlot (k op inst : Nat) (j : Nat) (s0 : State) : State :=
  let s := match (s0.slot k j).deferC with
    | some c => if 0 ≤ delta c inst then closeGate k j c false 0 s0 else s0
    | none => s0
  let x := s.slot k j
  let ign := s.raise (bSk k) F.Sk.VSTAT.GATEIGN 0
  if !s.slotLive k j ∨ (s.mcfg k j).gmode ≠ 1 then ign
  else
    let defer := x.deferC.isSome
    let isOpen := if defer then x.reopen else x.opn.isSome
    let doOpen := fun (t : State) =>
      if (t.slot k j).deferC.isSome then t.updSlot k j (fun y => { y with rdy := false, reopen := true })
      else if t.slotLive k j ∧ (t.mcfg k j).gmode = 1 then openGate k j inst (t.updSlot k j (fun y => { y with rdy := false }))
      else t
    let doClose := fun (t : State) =>
      if defer then t.updSlot k j (fun y => { y with reopen := false, chain := y.chain + 1 }) else closeAt k j inst t
    match op with
    | 0 => if isOpen then ign else doOpen s
    | 1 => if isOpen then doClose s else ign
    | _ => if isOpen then doOpen (doClose s) else doOpen s

/-- A GATE item with instant `inst` in local ft. -/
def gateItem (k : Nat) (mask : Word) (op inst : Nat) (s : State) : State :=
  forN 64 (fun j t => if mask.toNat.testBit j then gateSlot k op inst j t else t) s

/-- TIMED_GATE_BOUNDARY: the close of a TIMED gate that has reached its C, and the open of one at its boundary (R103,
R104). -/
def timedBoundary (k j : Nat) (s : State) : State :=
  let m := s.mcfg k j
  if !s.slotLive k j ∨ m.gmode ≠ 0 then s
  else match (s.slot k j).opn with
    | some o => let c := (o + m.len * 512000) % ftMod
                if 0 ≤ delta c s.nowFt ∧ (s.slot k j).deferC.isNone then closeAt k j c s else s
    | none => if s.coarse % (1000 * m.len) = 0 ∧ !(s.slot k j).spent then openGate k j s.nowFt s else s

/-- ARMED_GATE_CLOSE: the close of an ARMED gate LEN ns after its O (R103). -/
def armedClose (k j : Nat) (s : State) : State :=
  let m := s.mcfg k j
  if !s.slotLive k j ∨ m.gmode ≠ 2 then s
  else match (s.slot k j).opn with
    | some o => let c := (o + m.len * 512) % ftMod
                if 0 ≤ delta c s.nowFt then closeAt k j c s else s
    | none => s

/-- DEFERRED_CLOSE: a deferred C has come (R105). -/
def deferredClose (k j : Nat) (s : State) : State :=
  match (s.slot k j).deferC with
  | some c => if 0 ≤ delta c s.nowFt then closeGate k j c false 0 s else s
  | none => s

/-! ### Edges into slots (R8, R97-R101) -/

/-- Insertion in time order, behind edges of the same time. -/
def insEvt (e : Ev) : List Ev → List Ev
  | [] => [e]
  | a :: t => if 0 < delta e.t a.t then e :: a :: t else a :: insEvt e t

/-- The configurations under which slot j takes edges of scale `ep`: the applied one where it is live, and those of the
gates that are finishing under other sources or on another scale. -/
def State.takers (s : State) (k j ep : Nat) : List MCfg :=
  (if s.slotLive k j && ep == s.loads then [s.mcfg k j] else []) ++
    ((s.slot k j).olds.filter (fun p => p.ep == ep)).map (fun p => MCfg.ofScfg p.scfg)

/-- Slot j takes the edge as one of its sources or as its ARM. -/
def State.takesEdge (s : State) (k j ep g : Nat) (ch rising : Bool) : Bool :=
  (s.takers k j ep).any (fun m => m.sources.any (fun c => srcTakes c g ch rising))

/-- The configuration a finishing gate ran under. -/
def Fin_.cfg (f : Fin_) : MCfg := { scfg := f.scfg, gcfg := f.gcfg, param := f.param, limMin := f.limMin, limMax := f.limMax }

/-- C of a gate that would close at `c0`, the previous close being `prev` (R105). -/
def spacedC (prev : Option Nat) (c0 : Nat) : Nat :=
  match prev with
  | some p => if delta p c0 < 512000 then (p + 512000) % ftMod else c0
  | none => c0

/-- Gate f closes at `c0`, spaced from the close before it, and not at the load boundary that it was closed at if it had
been open there (R105, R108). -/
def Fin_.closedAt (f : Fin_) (c0 : Nat) : Fin_ :=
  let c := spacedC f.prev c0
  if f.epj ∧ delta c f.c ≤ 0 then f else { f with c := c, str := decide (c ≠ c0), epj := false }

/-- The gate that stays open from `o` up to the load boundary after gate f, which closes before it. -/
def Fin_.upTo (f : Fin_) (o : Nat) (g : Fin_) : Fin_ := { f with o := o, armFrom := g.c, prev := some g.c, str := false }

/-- The ARMED gates of a scale that are finishing, with the ARM stamps known now (R103, R104): each opens at the first one
from where it was ready, the next is ready at its C, and one that a load had closed may close before it, the slot being
ready again up to the boundary. -/
def rearmFins (arms : List Arm) (ep : Nat) : Option Nat → List Fin_ → List Fin_
  | _, [] => []
  | from_, f :: l =>
    if f.cfg.gmode ≠ 2 ∨ f.ep ≠ ep then f :: rearmFins arms ep none l
    else
      let f1 := match from_ with | some c => { f with armFrom := c, prev := some c } | none => f
      match firstArm arms f.cfg ep f1.armFrom with
      | none => f1 :: rearmFins arms ep none l
      | some t =>
        let g := { f1 with o := t }.closedAt ((t + f.cfg.len * 512) % ftMod)
        let more := match f.epj && !g.epj && f.cfg.rearm, firstArm arms f.cfg ep g.c with
          | true, some u => if 0 < delta u f.c then [f.upTo u g] else []
          | _, _ => []
        g :: more ++ rearmFins arms ep (some g.c) l

/-- The open or waiting ARMED gate of the present scale, with the ARM stamps known now: ready from the C of the last gate
that is finishing, else from where it was. -/
def rearmOpen (k j : Nat) (s : State) : State :=
  let x := s.slot k j
  let m := s.mcfg k j
  let last := (x.fins.getLast?).filter (fun f => f.ep = s.loads && f.cfg.gmode == 2)
  let from_ := match last with | some f => f.c | none => x.armFrom
  let s1 := s.updSlot k j (fun y => { y with armFrom := from_, lastC := match last with | some f => some f.c | none => y.lastC })
  if !s.slotLive k j ∨ m.gmode ≠ 2 ∨ !(x.armReady || x.opn.isSome) then s1
  else match firstArm x.arms m s.loads from_, x.armReady with
    | some t, true => openGate k j t s1
    | some t, false => s1.updSlot k j (fun y => { y with opn := some t })
    | none, _ => s1

/-- An ARM stamp reaches an ARMED slot (R103, R104): the earliest at or after the slot is ready opens the gate. One that
comes behind a later one moves the O that the later one gave, the C of a gate that has closed, and what follows from it;
one from before a coarse-count load opens the gate that the load closed. (DEDUCED, log 135.) -/
def armStamp (k j : Nat) (a : Arm) (s : State) : State :=
  let x := s.slot k j
  let arms := insArm a x.arms
  let old := match x.armOld with
    | some f => match firstArm arms f.cfg a.ep f.armFrom with
      | some _ => if f.ep = a.ep then some f else none
      | none => none
    | none => none
  let fins := rearmFins arms a.ep none (x.fins ++ old.toList)
  let s1 := s.setSlot k j { x with
    arms := arms, fins := fins.map (fun f => { f with readyAt := s.readyFrom k f.ep f.c f.cfg })
    armOld := if old.isSome then none else x.armOld }
  match old with
  | some f => if f.cfg.rearm ∨ f.cfg ≠ s.mcfg k j then gstateUpd k j s1
              else gstateUpd k j (s1.updSlot k j (fun y => { y with opn := none, deferC := none, armReady := false, spent := true }))
  | none => if a.ep = s.loads then rearmOpen k j s1 else s1

/-- The edge is an ARM stamp of slot j: of its configuration, or of a gate that is finishing (R103). -/
def State.armsSlot (s : State) (k j g : Nat) (ch : Bool) (ep : Nat) (e : Ev) : Bool :=
  let x := s.slot k j
  let of_ := fun (m : MCfg) => m.gmode == 2 && srcTakes m.arm g ch e.rising
  e.kind != .crowd && !e.late && ((s.slotLive k j && ep == s.loads && of_ (s.mcfg k j)) ||
    (x.fins ++ x.armOld.toList).any (fun f => f.ep == ep && of_ f.cfg))

/-- An edge of scale `ep` reaches slot j of skein k: it enters the sources that take it, of the applied configuration and
of those that gates are finishing under, and an ARM stamp acts (R102-R104, R106). -/
def slotEdge (k j g : Nat) (ch : Bool) (ep : Nat) (e : Ev) (s : State) : State :=
  let m := s.mcfg k j
  let cur := s.slotLive k j && ep == s.loads
  let s0 := if s.armsSlot k j g ch ep e then armStamp k j { t := e.t, g := g, ch := ch, rising := e.rising, ep := ep } s else s
  let takes := fun (m : MCfg) => (srcTakes m.srcA g ch e.rising, m.usesB && srcTakes m.srcB g ch e.rising)
  s0.updSlot k j (fun x => { x with
    evA := if cur && (takes m).1 then insEvt e x.evA else x.evA
    evB := if cur && (takes m).2 then insEvt e x.evB else x.evB
    olds := x.olds.map (fun p =>
      let d := takes (MCfg.ofScfg p.scfg)
      if p.ep ≠ ep then p
      else { p with evA := if d.1 then insEvt e p.evA else p.evA, evB := if d.2 then insEvt e p.evB else p.evB }) })

/-- The edges a gate owns (R102). -/
def ownedEvs (o c : Nat) (l : List Ev) : List Ev := l.filter (fun e => decide (0 ≤ delta o e.t ∧ 0 < delta e.t c))

/-- The edges of the sources gate f ran under. -/
def Slot.evsOf (x : Slot) (f : Fin_) : List Ev × List Ev :=
  if f.gen = x.gen then (x.evA, x.evB)
  else match x.olds.find? (fun p => p.gen == f.gen) with
    | some p => (p.evA, p.evB)
    | none => ([], [])

/-- No edge and no crowded notice of source code c from before `t`, on the scale after `ep` loads, is on its way (R103). -/
def State.edgeFinal (s : State) (c ep t : Nat) : Bool :=
  let mine := fun (x : Stamp) => x.g == 16 * (c % 32) + c / 32 % 16 && x.ep == ep && decide (0 < delta x.t t)
  !s.inFlight (c % 32) mine && (s.skein (c % 32)).bus.all (fun b => match b with | .notice x => !mine x | .stamp _ => true)

/-- The LEN-th edge of source A from O on that a COUNT gate knows of. -/
def lenth (m : MCfg) (o : Nat) (l : List Ev) : Option Ev := (l.filter (fun e => !e.late && decide (0 ≤ delta o e.t)))[m.len - 1]?

/-- COUNT_GATE_CLOSE (R103): the LEN-th owned edge, final, closes a COUNT gate 1 ft after it. (DEDUCED, log 65.) -/
def countCheck (k j : Nat) (s : State) : State :=
  let m := s.mcfg k j
  let x := s.slot k j
  if !s.slotLive k j ∨ m.gmode ≠ 3 ∨ x.deferC.isSome then s
  else match x.opn with
    | none => s
    | some o =>
      match lenth m o x.evA with
      | some e => if s.edgeFinal m.srcA s.loads e.t then closeAt k j ((e.t + 1) % ftMod) s else s
      | none => s

/-- A COUNT gate that a coarse-count load has closed, and whose LEN-th edge was then on its way (R103, R108): it closed
1 ft after that edge, and with REARM = 1 the next one was open from there to the load boundary. -/
def countOld (k j : Nat) (s : State) : State :=
  let x := s.slot k j
  match x.fins.find? (fun f => f.epj && f.cfg.gmode == 3) with
  | none => s
  | some f =>
    match lenth f.cfg f.o (x.evsOf f).1 with
    | none => s
    | some e =>
      let g := f.closedAt ((e.t + 1) % ftMod)
      if g.epj ∨ !s.edgeFinal f.cfg.srcA f.ep e.t then s
      else
        let h := { g with readyAt := s.readyFrom k g.ep g.c g.cfg }
        let s1 := s.updSlot k j (fun y => { y with fins := y.fins.flatMap (fun a =>
          if a = f then (if f.cfg.rearm then [h, f.upTo g.c g] else [h]) else [a]) })
        if f.cfg.rearm ∨ f.cfg ≠ s.mcfg k j then s1
        else gstateUpd k j (s1.updSlot k j (fun y => { y with opn := none, deferC := none, spent := true }))

/-- Every COUNT slot of a live configuration is judged. (DEDUCED, log 65.) -/
def countChecks (s : State) : State :=
  forL (s.slots.map (·.1)) (fun i t => countOld (i / 64) (i % 64) (countCheck (i / 64) (i % 64) t)) s

/-! ### Computing a result (R109-R127) -/

/-- Stamps of a list with their edge index n: notices before the first stamp take none (R101). -/
def indexed (l : List Ev) : List (Nat × Ev) :=
  ((l.dropWhile (fun e => e.kind == .crowd)).zipIdx.map (fun p => (p.2, p.1))).filter (fun p => p.2.kind != .crowd)

/-- The sums of R109 over indexed stamps; adding stops where t_i reaches 2^52 ft or N 2^44 (R113). The Bool tells
whether it stopped. -/
def sumUp (t0 : Nat) : List (Nat × Ev) → Sums → Sums × Bool
  | [], a => (a, false)
  | (n, e) :: l, a =>
    let t := (delta t0 e.t).toNat
    if 2 ^ 52 ≤ t ∨ 2 ^ 44 ≤ a.n + 1 then (a, true)
    else sumUp t0 l { n := a.n + 1, sn := a.sn + n, sn2 := a.sn2 + n * n, st := a.st + t, snt := a.snt + n * t,
                      st2 := a.st2 + t * t }

/-- D of R111. -/
def Sums.d (a : Sums) : Int := (a.n * a.sn2 : Nat) - (a.sn * a.sn : Nat)
/-- M of R111. -/
def Sums.m (a : Sums) : Int := (a.n * a.snt : Nat) - (a.sn * a.st : Nat)

/-- The residual RMS of R112 in 2^-8 ps. -/
def Sums.resid (a : Sums) : Nat :=
  let num := a.d * ((a.n * a.st2 : Nat) - (a.st * a.st : Nat)) - a.m * a.m
  roundSqrt (250000 * num.toNat) (a.n * a.n * a.d.toNat)

/-- The fit of a source over its owned edges: the sums, T_first, and whether R113 stopped them. -/
def fit (skip : Bool) (l : List Ev) : Sums × Bool :=
  let ix := indexed l
  let t0 := match ix with | [] => 0 | (_, e) :: _ => e.t
  sumUp t0 (ix.filter (fun p => !(skip && p.2.kind == .shed))) {}

/-- The outcome of pairing (R116-R121): the pairs (start, stop), the number of unpaired starts, the stops consumed, and
the starts for which no stop is known. -/
structure Pairing where
  pairs : List (Ev × Ev) := []
  unpaired : Nat := 0
  used : List Ev := []
  without : List Ev := []
  deriving DecidableEq, Repr

/-- TI and PHASE pairing (R116, R117). -/
def pairTi (back tmoFt : Nat) : List Ev → List Ev → Pairing → Pairing
  | [], _, p => p
  | a :: as_, bs, p =>
    let rest := bs.dropWhile (fun b => decide (delta a.t b.t < -(back : Int)))
    match rest with
    | b :: bs' =>
      if delta a.t b.t ≤ tmoFt then
        if b.kind = .crowd then pairTi back tmoFt as_ bs' { p with unpaired := p.unpaired + 1, used := p.used ++ [b] }
        else pairTi back tmoFt as_ bs' { p with pairs := p.pairs ++ [(a, b)], used := p.used ++ [b] }
      else pairTi back tmoFt as_ rest { p with unpaired := p.unpaired + 1, without := p.without ++ [a] }
    | [] => pairTi back tmoFt as_ [] { p with unpaired := p.unpaired + 1, without := p.without ++ [a] }

/-- The candidate nearest to a start, the earlier of two equally near (R121). -/
def nearest (back : Nat) (a : Ev) (bs : List Ev) : Option Ev :=
  bs.foldl (fun best b =>
    if (delta a.t b.t).natAbs ≤ back then
      match best with
      | none => some b
      | some y => if (delta a.t b.t).natAbs < (delta a.t y.t).natAbs then some b else some y
    else best) none

/-- SKEW pairing (R121). -/
def pairSkew (back : Nat) : List Ev → List Ev → Pairing → Pairing
  | [], _, p => p
  | a :: as_, bs, p =>
    match nearest back a bs with
    | none => pairSkew back as_ bs { p with unpaired := p.unpaired + 1 }
    | some b =>
      if b.kind = .crowd then
        pairSkew back as_ (bs.erase b) { p with unpaired := p.unpaired + 1, used := p.used ++ [b] }
      else pairSkew back as_ (bs.erase b) { p with pairs := p.pairs ++ [(a, b)], used := p.used ++ [b] }

/-- A pair whose sign R74 cannot give (R118). -/
def unresolved (a b : Ev) : Bool :=
  let d := delta a.t b.t
  if d = 0 then true
  else match a.kind == .shed, b.kind == .shed with
    | false, false => decide (d.natAbs < 2)
    | true, true => a.t / 16 == b.t / 16
    | _, _ => decide (d.natAbs ≤ 8)

/-- The pulses a list opens (R122): for each owned opening stamp the next edge, if it lies within TMO. -/
def pulses (rising : Bool) (tmoFt : Nat) (o c : Nat) : List Ev → List (Ev × Option Ev)
  | [] => []
  | a :: t =>
    let rest := pulses rising tmoFt o c t
    if a.kind ≠ .crowd ∧ a.rising = rising ∧ 0 ≤ delta o a.t ∧ 0 < delta a.t c then
      (a, match t with | b :: _ => if delta a.t b.t ≤ tmoFt then some b else none | [] => none) :: rest
    else rest

/-- The cycles of DUTY (R123): for each owned rising stamp the edges behind it, two at most, that lie within TMO. -/
def cycles (tmoFt : Nat) (o c : Nat) : List Ev → List (Ev × List Ev)
  | [] => []
  | a :: t =>
    let rest := cycles tmoFt o c t
    if a.kind ≠ .crowd ∧ a.rising ∧ 0 ≤ delta o a.t ∧ 0 < delta a.t c then
      (a, (t.take 2).takeWhile (fun b => decide (delta a.t b.t ≤ tmoFt))) :: rest
    else rest

/-- Saturation of a value to `w` unsigned bits, and whether it saturated. -/
def satU (w : Nat) (v : Int) : Nat × Bool :=
  if v < 0 then (0, true) else if 2 ^ w ≤ v then (2 ^ w - 1, true) else (v.toNat, false)

/-- Saturation to `w` signed bits, as the bits of the value. -/
def satS (w : Nat) (v : Int) : Nat × Bool :=
  if v < -2 ^ (w - 1) then (2 ^ (w - 1), true) else if 2 ^ (w - 1) ≤ v then (2 ^ (w - 1) - 1, true) else (ofSigned w v, false)

/-- A type's value: RES, SECOND, N, NODATA and RANGE. -/
structure Val where
  res : Nat := 0
  second : Nat := 0
  n : Nat := 0
  nodata : Bool := false
  range : Bool := false
  deriving DecidableEq, Repr

/-- FREQ (1) and PER (3) (R111-R113). -/
def valFit (freq : Bool) (a : Sums) (edges : Nat) : Val :=
  if a.n < 2 then { n := edges, nodata := true }
  else
    let r := if freq then roundDiv (2 ^ 24 * 512 * 1000000000 * a.d) a.m else roundDiv (8000 * a.m) a.d
    let v := satU 64 r
    let q := satU 32 a.resid
    { res := v.1, second := q.1, n := edges, range := v.2 || q.2 }

/-- FREQC (R114). -/
def valFreqc (skip : Bool) (l : List Ev) : Val :=
  let us := (indexed l).filter (fun p => !(skip && p.2.kind == .shed))
  let sheds := min (2 ^ 32 - 1) (l.filter (fun e => e.kind == .shed)).length
  match us.head?, us.getLast? with
  | some (n1, a), some (n2, b) =>
    if us.length < 2 then { second := sheds, n := l.length, nodata := true }
    else
      let v := satU 64 (roundDiv (2 ^ 24 * 512 * 1000000000 * ((n2 : Int) - n1)) (delta a.t b.t))
      { res := v.1, second := sheds, n := l.length, range := v.2 }
  | _, _ => { second := sheds, n := l.length, nodata := true }

/-- RATIO (R115): `na`, `nb` stamps and `ea`, `eb` edges of the two sources. -/
def valRatio (opt0 : Bool) (a b : Sums) (na nb ea eb : Nat) : Val :=
  let second := min (2 ^ 32 - 1) eb
  if na < 2 ∨ nb < 2 ∨ eb = 0 ∨ (!opt0 ∧ (a.n < 2 ∨ b.n < 2)) then { second := second, n := ea, nodata := true }
  else
    let v := satU 64 (if opt0 then roundDiv (2 ^ 32 * (ea : Int)) eb else roundDiv (2 ^ 32 * (b.m * a.d)) (b.d * a.m))
    { res := v.1, second := second, n := ea, range := v.2 }

/-- The sum of the intervals of the pairs. -/
def pairSum (p : Pairing) : Int := (p.pairs.map (fun q => delta q.1.t q.2.t)).foldl (· + ·) 0

/-- TI and SKEW (R119, R121). Without a pair RES is 0 and NODATA sets, as R113 says of sums: so in every type that has too few
stamps or pairs. (DESIGN CHOICE, log 156.) -/
def valTi (p : Pairing) (starts : Nat) : Val :=
  let n := p.pairs.length
  if n = 0 then { n := starts, nodata := true }
  else
    let v := satS 64 (roundDiv (8000 * pairSum p) n)
    { res := v.1, second := min (2 ^ 32 - 1) n, n := starts, range := v.2 }

/-- PHASE (R120): φ reduced to -0.5 to below 0.5, in 2^-32 cycle. -/
def valPhase (p : Pairing) (a : Sums) (starts : Nat) : Val :=
  let n := p.pairs.length
  if n = 0 ∨ a.n < 2 then { second := min (2 ^ 32 - 1) n, n := starts, nodata := true }
  else
    let num := pairSum p * a.d
    let den := (n : Int) * a.m
    let k := (2 * num + den) / (2 * den)
    let r := roundDiv (2 ^ 32 * (num - k * den)) den
    { res := ofSigned 64 (toSigned 32 (ofSigned 32 r)), second := min (2 ^ 32 - 1) n, n := starts }

/-- PW (R122). -/
def valPw (ps : List (Ev × Option Ev)) : Val :=
  let ws := ps.filterMap (fun p => match p.2 with
    | some b => if b.kind = .crowd then none else some (delta p.1.t b.t)
    | none => none)
  if ws = [] then { n := ps.length, nodata := true }
  else
    let v := satU 64 (roundDiv (8000 * ws.foldl (· + ·) 0) ws.length)
    { res := v.1, second := min (2 ^ 32 - 1) ws.length, n := ps.length, range := v.2 }

/-- A cycle is used: both its further edges are there, stamps, and fall and rise (R123). -/
def cycleUsed (q : Ev × List Ev) : Option (Int × Int) :=
  match q.2 with
  | [f, r] => if f.kind ≠ .crowd ∧ r.kind ≠ .crowd ∧ !f.rising ∧ r.rising then some (delta q.1.t f.t, delta q.1.t r.t) else none
  | _ => none

/-- DUTY (R123). -/
def valDuty (opt0 : Bool) (cs : List (Ev × List Ev)) (edges : Nat) : Val :=
  let good := cs.filterMap cycleUsed
  if good = [] then { n := edges, nodata := true }
  else
    let hi := (good.map (·.1)).foldl (· + ·) (0 : Int)
    let all := (good.map (·.2)).foldl (· + ·) (0 : Int)
    let v := satU 32 (roundDiv (2 ^ 32 * (if opt0 then all - hi else hi)) all)
    { res := v.1, second := min (2 ^ 32 - 1) good.length, n := edges, range := v.2 }

/-- The errors e_i of R125 in 2^-16 ft. -/
def tieErrs (skip : Bool) (refper : Nat) (l : List Ev) : List Int :=
  let ix := indexed l
  let t0 := match ix with | [] => 0 | (_, e) :: _ => e.t
  (ix.filter (fun p => !(skip && p.2.kind == .shed))).map (fun p => 2 ^ 16 * delta t0 p.2.t - p.1 * refper)

/-- TIE (R125). -/
def valTie (es : List Int) (edges sheds : Nat) : Val :=
  match es with
  | [] => { second := sheds, n := edges, nodata := true }
  | e0 :: _ =>
    if es.length < 2 then { second := sheds, n := edges, nodata := true }
    else
      let hi := es.foldl max e0
      let lo := es.foldl min e0
      let se := es.foldl (· + ·) 0
      let se2 := es.foldl (fun a e => a + e * e) 0
      let n : Int := es.length
      let pk := satU 32 (roundDiv (500 * (hi - lo)) (2 ^ 16))
      let rms := satU 32 (roundSqrt (250000 * (n * se2 - se * se).toNat) (n.toNat * n.toNat * 2 ^ 32))
      { res := pk.1 * 2 ^ 32 + rms.1, second := min (2 ^ 32 - 1) sheds, n := edges, range := pk.2 || rms.2 }

/-- The values of HIST with OPT = 0: the period between successive owned edges that are both stamps (R126). -/
def histPeriods : List Ev → List Int
  | a :: b :: t => if a.kind ≠ .crowd ∧ b.kind ≠ .crowd then delta a.t b.t :: histPeriods (b :: t) else histPeriods (b :: t)
  | _ => []

/-- The pairing a finishing gate makes of the edges known (R116, R121). -/
def finPairing (c : MCfg) (owned evB : List Ev) : Pairing :=
  let starts := owned.filter (fun e => e.kind != .crowd)
  if c.type = 12 then pairSkew c.back starts evB {} else pairTi c.back (c.tmo * 512) starts evB {}

/-- Some edge that came too late would have been owned by gate f or paired in it (R98). -/
def Fin_.missed (f : Fin_) (evA evB : List Ev) : Bool :=
  let c := f.cfg
  let own := ownedEvs f.o f.c evA
  let lost := fun (l : List Ev) => l.any (·.late)
  let pair := c.type == 4 || c.type == 5 || c.type == 12
  lost own || (c.type == 9 && lost (ownedEvs f.o f.c evB)) || (pair && lost (finPairing c own evB).used) ||
    (c.type == 7 && lost ((pulses (!c.opt.testBit 0) (c.tmo * 512) f.o f.c evA).filterMap (·.2))) ||
    (c.type == 6 && lost ((cycles (c.tmo * 512) f.o f.c evA).flatMap (·.2)))

/-- A copy that arrives after its wait window is not used: the results it would have entered carry LATE, those of gates
that are open or finishing and those that the divide unit holds (R98). -/
def lateCopy (k j g : Nat) (ch : Bool) (ep : Nat) (e0 : Ev) (s : State) : State :=
  let e := { e0 with late := true }
  let add := fun (w : Job) =>
    let m := w.fin.cfg
    let v := { w with
      evA := if srcTakes m.srcA g ch e.rising then insEvt e w.evA else w.evA
      evB := if m.usesB && srcTakes m.srcB g ch e.rising then insEvt e w.evB else w.evB }
    if w.fin.ep ≠ ep then w
    else if v.fin.missed v.evA v.evB then { v with res := { v.res with flags := v.res.flags ||| 2 ^ 11 } } else v
  (slotEdge k j g ch ep e s).updSlot k j (fun x => { x with jobs := x.jobs.map add })

/-- A stamp or notice crosses FAB into skein k once, for every slot that takes it, in half a ns of the skein's 2 G
stamps/s; what arrives after its wait window is late (R97, R98). (DEDUCED, log 67.) -/
def fabCopy (k g : Nat) (ch : Bool) (ep : Nat) (e : Ev) (js : List Nat) (s : State) : State :=
  let z := s.skein k
  let start := max z.fabFree (2 * s.cycle)
  let age := (delta e.t (s.nowOn ep)).toNat / 512 + (start - 2 * s.cycle) / 2
  let s1 := s.updSkein k (fun z => { z with fabFree := start + 1 })
  forL js (fun j t => if 300 < age then lateCopy k j g ch ep e t else slotEdge k j g ch ep e t) s1

/-- An edge is offered to every slot that names its comparator: of its own skein, of the neighbours over the pair link,
of the others over FAB (R8, R97). -/
def offerSlots (g : Nat) (ch : Bool) (ep : Nat) (e : Ev) (s : State) : State :=
  let sk := g / 16
  forN 32 (fun k t =>
    if !t.domOn (32 + k) then t
    else
      let js := (List.range 64).filter (fun j => t.takesEdge k j ep g ch e.rising)
      if k = sk ∨ k + 1 = sk ∨ sk + 1 = k then forL js (fun j u => slotEdge k j g ch ep e u) t
      else if js = [] then t else fabCopy k g ch ep e js t) s

/-- The flags of R130 from bit 1 to 12 as a number. -/
def flagBits (l : List Bool) : Nat := (l.zipIdx.map (fun p => if p.1 then 2 ^ (p.2 + 1) else 0)).sum

/-- DLL_LOCK of a source skein was 0 at an instant from O to C (R130). -/
def State.unlocked (s : State) (f : Fin_) : Bool :=
  let a := s.elapsedOn f.ep f.o
  let b := s.elapsedOn f.ep f.c
  f.cfg.sources.any (fun c => (s.unlks (c % 32)).any (fun p => decide ((p.1 : Int) < b) &&
    (match p.2 with | some e => decide (a < (e : Int)) | none => true)))

/-- The device was in holdover at an instant from O to the last stamp used, on the scale of the gate (R130). -/
def State.heldOver (s : State) (f : Fin_) (last : Nat) : Bool :=
  let back := fun (t : Nat) => shiftFt t (-(s.tbs.shifts.drop f.ep).sum)
  holdMeets (s.holdLog.map (fun p => (back p.1, p.2.map back))) f.o last

/-- The result of a finishing gate (all types but HIST), and the stops it consumed; copies that came late are not used
(R98). -/
def computeRes (s : State) (f : Fin_) (allA allB : List Ev) : Res × List Ev :=
  let c := f.cfg
  let evA := allA.filter (!·.late)
  let evB := allB.filter (!·.late)
  let own := ownedEvs f.o f.c evA
  let ownB := ownedEvs f.o f.c evB
  let fa := fit c.skip own
  let fb := fit c.skip ownB
  let p := finPairing c own evB
  let stamps := fun (l : List Ev) => (l.filter (fun e => e.kind != .crowd)).length
  let starts := stamps own
  let ps := pulses (!c.opt.testBit 0) (c.tmo * 512) f.o f.c evA
  let cs := cycles (c.tmo * 512) f.o f.c evA
  let sheds := (own.filter (fun e => e.kind == .shed)).length
  let es := tieErrs c.skip c.refper own
  let v : Val := match c.type with
    | 1 => valFit true fa.1 own.length
    | 2 => valFreqc c.skip own
    | 3 => valFit false fa.1 own.length
    | 4 => valTi p starts
    | 5 => valPhase p fa.1 starts
    | 6 => valDuty (c.opt.testBit 0) cs own.length
    | 7 => valPw ps
    | 8 => { res := own.length % 2 ^ 48, n := own.length }
    | 9 => valRatio (c.opt.testBit 0) fa.1 fb.1 starts (stamps ownB) own.length ownB.length
    | 10 => valTie es own.length sheds
    | _ => valTi p starts
  let pairing := decide (c.type = 4 ∨ c.type = 5 ∨ c.type = 12)
  let ratio := decide (c.type = 9)
  let crowdIn := fun (l : List Ev) => l.any (fun e => e.kind == .crowd)
  let shedIn := fun (l : List Ev) => l.any (fun e => e.kind == .shed)
  let usedStops := p.pairs.map (·.2)
  let ends := ps.filterMap (·.2)
  let cycEnds := cs.flatMap (·.2)
  let shed := shedIn own || (ratio && shedIn ownB) || (pairing && shedIn usedStops) || (c.type == 7 && shedIn ends) ||
    (c.type == 6 && shedIn cycEnds)
  let crowd := crowdIn own || (ratio && crowdIn ownB) || (c.type == 6 && crowdIn cycEnds)
  let unres := pairing && p.pairs.any (fun q => unresolved q.1 q.2)
  let unp := (pairing && decide (0 < p.unpaired)) ||
    (c.type == 7 && ps.any (fun q => match q.2 with | none => true | some b => b.kind == .crowd)) ||
    (c.type == 6 && cs.any (fun q => decide (q.2.length < 2)))
  let reg := ratio && !c.opt.testBit 0
  let fits := decide (c.type = 1 ∨ c.type = 3 ∨ c.type = 5) || reg
  let ovf := (fits && fa.2) || (reg && fb.2)
  let last := (own ++ (if ratio then ownB else []) ++ (if pairing then usedStops else []) ++ (if c.type = 7 then ends else []) ++
    (if c.type = 6 then cycEnds else [])).foldl (fun m e => if 0 < delta m e.t then e.t else m) f.o
  ({ o := f.o, c := f.c, res := BitVec.ofNat 64 v.res, second := v.second, n := v.n % 2 ^ 48,
     flags := flagBits [v.nodata, shed, crowd, unres, unp, s.heldOver f last, s.unlocked f, ovf, f.str, v.range,
                     f.missed allA allB, f.epj],
     scfg := f.scfg, limMin := f.limMin, limMax := f.limMax }, if pairing then p.used else [])

/-! ### Finishing, the divide unit and publication (R128-R134) -/

/-- Every start, pulse or cycle of a finishing gate was paired, complete or timed out `d` ns ago, `w` ns being the wait
window (R134): starts are paired with the stops known then, and one without a stop has to time out, which takes TMO and the
wait window behind it, within which a stop in time could still arrive. (DESIGN CHOICE, log 155.) -/
def finComplete (s : State) (w d : Nat) (f : Fin_) (allA allB : List Ev) : Bool :=
  let c := f.cfg
  let evA := allA.filter (!·.late)
  let evB := allB.filter (!·.late)
  let now := shiftFt (s.nowOn f.ep) (-((512 * d : Nat) : Int))
  let starts := (ownedEvs f.o f.c evA).filter (fun e => e.kind != .crowd)
  let known := fun (t : Nat) => decide ((w * 512 : Nat) ≤ delta t now)
  let out := fun (t : Nat) => decide (((c.tmo + w) * 512 : Nat) ≤ delta t now)
  let ti := fun (_ : Unit) =>
    (pairTi c.back (c.tmo * 512) starts (evB.filter (fun b => known b.t)) {}).without.all (fun a => out a.t)
  let pw := fun (rising : Bool) => (pulses rising (c.tmo * 512) f.o f.c evA).all (fun q => out q.1.t || q.2.any (fun b => known b.t))
  match c.type with
  | 4 => ti ()
  | 5 => ti ()
  | 6 => (cycles (c.tmo * 512) f.o f.c evA).all (fun q => out q.1.t || (decide (q.2.length = 2) && q.2.all (fun b => known b.t)))
  | 7 => pw (!c.opt.testBit 0)
  | 11 => if c.opt % 4 = 1 then ti () else if c.opt % 4 = 2 then pw true else true
  | _ => true

/-- The edges kept after a gate closed at C has been computed: those at C or later, and the stops not consumed that a
later start could still take. -/
def pruneA (c : Nat) (l : List Ev) : List Ev := l.filter (fun e => decide (0 ≤ delta c e.t))
def pruneB (c : Nat) (used l : List Ev) : List Ev :=
  (l.filter (fun e => !used.contains e)).filter (fun e => decide (-65536 ≤ delta c e.t))

/-- The oldest finishing gate f has been computed: `used` stops are gone, and so are the edges that no gate needs. -/
def Slot.finDone (x : Slot) (f : Fin_) (used : List Ev) : Slot :=
  let y := { x with fins := x.fins.drop 1 }
  if f.gen = x.gen then { y with evA := pruneA f.c y.evA, evB := pruneB f.c used y.evB, arms := y.arms.filter (fun a => a.ep != f.ep || decide (0 ≤ delta f.c a.t)) }
  else { y with olds := (y.olds.filter (fun p => (y.fins ++ y.armOld.toList).any (fun h => h.gen == p.gen))).map (fun p =>
    if p.gen = f.gen then { p with evA := pruneA f.c p.evA, evB := pruneB f.c used p.evB } else p) }

/-- The oldest finishing gate of a slot may be computed: its wait window has passed and everything in it is paired or timed
out, `extra` ns ago; no job of the slot waits for the divide unit, and 1,000 ns have passed since the last (R108, R134). -/
def State.finDue (s : State) (k j : Nat) (f : Fin_) (extra : Nat) : Bool :=
  let x := s.slot k j
  let e := x.evsOf f
  decide (f.readyAt + extra ≤ s.cycle) && !(s.skein k).divQ.contains j &&
    !(decide (0 < x.lastJob) && decide (s.cycle < x.lastJob + 1000)) && finComplete s (f.cfg.wait k) extra f e.1 e.2

/-- WAIT_WINDOW_END and PAIRING_TIMEOUT: the oldest finishing gate of slot j hands its job to the divide unit (R134).
(DEDUCED, log 66.) -/
def handJob (k j : Nat) (s : State) : State :=
  let x := s.slot k j
  match x.fins with
  | [] => s
  | f :: _ =>
    let ty := f.cfg.type
    if ty = 8 ∨ ty = 11 ∨ !s.finDue k j f 0 then s
    else
      let e := x.evsOf f
      let r := computeRes s f e.1 e.2
      let w : Job := { res := r.1, fin := f, evA := e.1, evB := e.2 }
      let s1 := s.setSlot k j { x.finDone f r.2 with jobs := x.jobs ++ [w], lastJob := s.cycle }
      gstateUpd k j (s1.updSkein k (fun z => { z with divQ := z.divQ ++ [j] }))

/-- The limit check of R131 and R132. -/
def limPass (r : Res) : Bool :=
  let ty := fw r.scfg F.Slot.SCFG.TYPE
  if ty = 4 ∨ ty = 5 ∨ ty = 12 then
    decide (r.limMin.toInt ≤ r.res.toInt ∧ r.res.toInt ≤ r.limMax.toInt)
  else if ty = 10 then
    decide (fget r.limMin 63 32 ≤ fget r.res 63 32 ∧ fget r.res 63 32 ≤ fget r.limMax 63 32)
  else decide (r.limMin.toNat ≤ r.res.toNat ∧ r.res.toNat ≤ r.limMax.toNat)

/-- A slot publishes a result in one cycle (R128): RES, AUX and CNT, SEQ advances, RDY sets, a RESULT record goes out
with EMIT = 1, and a result without PASS raises the limit condition (R132, R133). What MGET of the same cycle reads is
kept (R204). A slot in a configuration error publishes nothing (R99). -/
def publish (k j : Nat) (r : Res) (s0 : State) : State :=
  if (s0.slot k j).cfgErr then gstateUpd k j s0 else
  let b := bSlot k j
  let s := s0.updSlot k j (fun x => { x with
    prev := some { at_ := s0.cycle, res := s0.reg (b + 0x28), aux := s0.reg (b + 0x30), cnt := s0.reg (b + 0x38) } })
  let ty := fw r.scfg F.Slot.SCFG.TYPE
  let limen := fw r.scfg F.Slot.SCFG.LIMEN == 1 && ty != 11
  let nodata := r.flags.testBit 1
  let pass := limen && !nodata && limPass r
  let s1 := ((s.wr b F.Slot.RES r.res.toNat).wr b F.Slot.AUX.SECOND r.second).wr b F.Slot.AUX.FLAGS (r.flags + b2n pass)
  let s2 := (s1.inc b F.Slot.AUX.SEQ 1).wr b F.Slot.CNT.N r.n
  let s3 := s2.updSlot k j (fun x => { x with rdy := true })
  let s4 := gstateUpd k j s3
  let rec_ : Rec := {
    kind := 2, sub := 0, flags := 128 * b2n (r.flags.testBit 6) + 64 * b2n (r.flags.testBit 7),
    ref := stampAt r.c, raw := 0, dec := 0,
    payload := leBytes 8 (s4.reg (b + 0x28)).toNat ++ leBytes 8 (s4.reg (b + 0x30)).toNat ++
      leBytes 8 (s4.reg (b + 0x38)).toNat ++ leBytes 8 (stampAt r.o).toNat ++ leBytes 2 (j + 64 * k) ++ leBytes 14 0 }
  let s5 := if fw r.scfg F.Slot.SCFG.EMIT = 1 then offer (fw r.scfg F.Slot.SCFG.STREAM) rec_ s4 else s4
  if limen && fw r.scfg F.Slot.SCFG.TRIGEN == 1 && !pass then
    raiseCond 3 (fun _ sel => sel.testBit k) (stampAt r.c) s5
  else s5

/-- DIVIDE_JOB_START: at most one job per 14 ns, the lowest waiting slot first (R134). -/
def divStart (k : Nat) (s : State) : State :=
  let z := s.skein k
  let due := match z.divAt with | some t => decide (t + 14 ≤ s.cycle) | none => true
  match z.divQ with
  | [] => s
  | a :: t =>
    if !due then s
    else
      let j := t.foldl min a
      s.setSkein k { z with divQ := z.divQ.erase j, divAt := some s.cycle, divBusy := z.divBusy ++ [(j, s.cycle + 168)] }

/-- DIVIDE_JOB_COMPLETE: the job started first completes 168 ns after its start, and its slot publishes (R134). -/
def divComplete (k : Nat) (s : State) : State :=
  match (s.skein k).divBusy with
  | [] => s
  | (j, t) :: rest =>
    if s.cycle < t then s
    else
      let s1 := s.updSkein k (fun z => { z with divBusy := rest })
      match (s1.slot k j).jobs with
      | w :: l => publish k j w.res (s1.updSlot k j (fun x => { x with jobs := l }))
      | [] => s1

/-- One value entered into a histogram (R126, R127). -/
def histAdd (k j bw : Nat) (hofs : Int) (x : Int) (s : State) : State :=
  let i := (x - hofs) / (bw : Int)
  let s1 := s.updSlot k j (fun y => { y with entered := y.entered + 1 })
  if 0 ≤ i ∧ i < 256 then
    let a := tHist + 0x2000 * k + 0x400 * j + 4 * i.toNat
    s1.setTw a (BitVec.ofNat 32 (min (2 ^ 32 - 1) ((s1.tw a).toNat + 1)))
  else if i < 0 then s1.updSlot k j (fun y => { y with under := y.under + 1 })
  else s1.updSlot k j (fun y => { y with ovr := y.ovr + 1 })

/-- The values a gate enters into a histogram (R126). -/
def histVals (c : MCfg) (f : Fin_) (evA evB : List Ev) : List Int :=
  let own := ownedEvs f.o f.c evA
  match c.opt % 4 with
  | 0 => histPeriods own
  | 1 => (finPairing { c with scfg := fset c.scfg 3 0 4 } own evB).pairs.map (fun q => delta q.1.t q.2.t)
  | 2 => (pulses true (c.tmo * 512) f.o f.c evA).filterMap (fun q => match q.2 with
      | some b => if b.kind = .crowd then none else some (delta q.1.t b.t)
      | none => none)
  | _ => (tieErrs c.skip c.refper own).map (fun e => roundDiv e (2 ^ 16))

/-- The type whose flags a HIST gate carries (R126, R130): TI where it pairs, PW where it takes pulses, else TOT; of them
NODATA, OVF and RANGE are not HIST's. -/
def histType (c : MCfg) : Nat := match c.opt % 4 with | 1 => 4 | 2 => 7 | _ => 8
def histFlags : Nat := 2 ^ 13 - 1 - (2 ^ 1 + 2 ^ 8 + 2 ^ 10)

/-- TOT_HIST_PUBLISH: 8 ns after the wait window, or after the last pair or pulse, a TOT or HIST slot publishes, at most
once per 1,000 ns (R108, R124, R126, R127, R134). -/
def totHist (k j : Nat) (s : State) : State :=
  let x := s.slot k j
  match x.fins with
  | [] => s
  | f :: _ =>
    let c := f.cfg
    let e := x.evsOf f
    if (c.type ≠ 8 ∧ c.type ≠ 11) ∨ !s.finDue k j f 8 then s
    else
      let ty := if c.type = 8 then 8 else histType c
      let base := computeRes s { f with scfg := fset f.scfg 3 0 ty } e.1 e.2
      let r : Res := { base.1 with scfg := f.scfg }
      let s1 := s.setSlot k j { x.finDone f base.2 with lastJob := s.cycle }
      if c.type = 8 then publish k j r s1
      else
        let s2 := forL (histVals c f (e.1.filter (!·.late)) (e.2.filter (!·.late))) (histAdd k j (fget f.limMax 15 0 + 1) (toSigned 48 (fget f.limMin 47 0))) s1
        let y := s2.slot k j
        let full := (List.range 256).any (fun i => (s2.tw (tHist + 0x2000 * k + 0x400 * j + 4 * i)).toNat == 2 ^ 32 - 1)
        let sat := full || decide (2 ^ 32 ≤ y.under ∨ 2 ^ 32 ≤ y.ovr)
        publish k j { r with res := BitVec.ofNat 64 (min (2 ^ 32 - 1) y.ovr * 2 ^ 32 + min (2 ^ 32 - 1) y.under),
                             second := 0, n := y.entered % 2 ^ 48,
                             flags := (r.flags &&& histFlags) ||| (if sat then 2 ^ 10 else 0) } s2

/-! ### Stamp delivery (R8, R57, R90, R100) -/

/-- STAMP_DELIVERY: the item at the head of the skein's stamp bus reaches its consumers, each once: every slot that
names its comparator, echo matching, a deskew in its pulse phase, the EDGE conditions and the streams that capture it. A crowded notice reaches the
slots and echo matching alone. -/
def deliver (k : Nat) (s : State) : State :=
  match (s.skein k).bus with
  | [] => s
  | b :: rest =>
    let s1 := s.updSkein k (fun z => { z with bus := rest })
    match b with
    | .notice x => echoMatch x.g x.ch x.rising x.t .crowd
        (countChecks (offerSlots x.g x.ch x.ep { t := x.t, kind := .crowd, rising := x.rising } s1))
    | .stamp x =>
      let e : Ev := { t := x.t, kind := if x.shed then .shed else .fine, rising := x.rising }
      let s2 := countChecks (offerSlots x.g x.ch x.ep e s1)
      let s3 := dskStray x.g x.ch x.t (echoMatch x.g x.ch x.rising x.t e.kind s2)
      let s4 := raiseCond 1 (fun _ sel => srcTakes (sel % 4096) x.g x.ch x.rising) (stampAt x.t) s3
      forN 64 (fun i t => format i (takeStamp i x t)) s4

/-! ### Meanings -/

/-- STAMP_DELIVERY. -/
def execStampDelivery (k : Fin 32) (s : State) : Outcome State Fault Refusal := act s (deliver k)

/-- TIMED_GATE_BOUNDARY (R103, R104). -/
def execTimedGateBoundary (k : Fin 32) (j : Fin 64) (s : State) : Outcome State Fault Refusal :=
  act s (timedBoundary k j)

/-- ARMED_GATE_CLOSE (R103). -/
def execArmedGateClose (k : Fin 32) (j : Fin 64) (s : State) : Outcome State Fault Refusal := act s (armedClose k j)

/-- DEFERRED_CLOSE (R105). -/
def execDeferredClose (k : Fin 32) (j : Fin 64) (s : State) : Outcome State Fault Refusal := act s (deferredClose k j)

/-- WAIT_WINDOW_END (R109, R134). -/
def execWaitWindowEnd (k : Fin 32) (j : Fin 64) (s : State) : Outcome State Fault Refusal := act s (handJob k j)

/-- PAIRING_TIMEOUT (R116, R122, R123, R134): the last start, pulse or cycle of the gate has timed out. -/
def execPairingTimeout (k : Fin 32) (j : Fin 64) (s : State) : Outcome State Fault Refusal :=
  act s (fun t => handJob k j t)

/-- DIVIDE_JOB_START (R134). -/
def execDivideJobStart (k : Fin 32) (s : State) : Outcome State Fault Refusal := act s (divStart k)

/-- DIVIDE_JOB_COMPLETE (R111-R134). -/
def execDivideJobComplete (k : Fin 32) (s : State) : Outcome State Fault Refusal := act s (divComplete k)

/-- TOT_HIST_PUBLISH (R124, R126-R128, R134). -/
def execTotHistPublish (k : Fin 32) (j : Fin 64) (s : State) : Outcome State Fault Refusal := act s (totHist k j)

/-- MAUCLR (R107). -/
def execMauclr (k : Fin 32) (mask : Word) (s : State) : Outcome State Fault Refusal :=
  act s (cmdAccess (bSk k + F.Sk.MAUCLR.off) false false (clearSlots k mask.toNat))

end Sys2Proof.Machine
end

