-- ==== Sys2Proof/Machine/MemOps.lean ====
section
/-! DEFINITION. The stack's contents and the ports that every requester uses (R256-R262, R265). -/

namespace Sys2Proof.Machine

/-! ### Locations and contents (R256-R258, R411) -/

/-- Parity of a number's low 34 bits. -/
def parity34 (n : Nat) : Bool := ((List.range 34).filter (fun i => n.testBit i)).length % 2 == 1

/-- The hashed field of address `a`: bit i is the parity of a under MAP[i] (R257). -/
def State.hashed (s : State) (a : Nat) : Nat :=
  ((List.range 9).map (fun i => if parity34 (a &&& s.rd (bMem + 8 * i) F.Mem.MAP) then 2 ^ i else 0)).sum

/-- The location of a physical address: its plain slices with the home bits replaced by the hashed outputs. -/
def State.loc (s : State) (a : Nat) : Nat :=
  let b := a % 2 ^ 34
  b / 2 ^ 16 * 2 ^ 16 + s.hashed b * 2 ^ 7 + b % 2 ^ 7

/-- The pseudo-channel of an address. -/
def State.pcOf (s : State) (a : Nat) : Nat := s.hashed (a % 2 ^ 34) % 32

/-- The row of an address within its PC: SID, BG, BA and ROW as one key, ROW in the high bits. -/
def State.rowKey (s : State) (a : Nat) : Nat :=
  let b := a % 2 ^ 34
  b / 2 ^ 20 * 32 + b / 2 ^ 19 % 2 * 16 + s.hashed b / 32

/-- The epoch of a location's unknown byte; none where it is known to be zero. The pseudo-channel of a location stands
in its bits [11:7]. (DESIGN CHOICE, log 25.) -/
def Hbm.epoch (h : Hbm) (loc : Nat) : Option Nat :=
  match h.lostPc.find? (fun p => p.1 == loc / 128 % 32) with
  | some p => some p.2
  | none => h.lost

/-- What an unlisted location reads as: zero after the fill, else a free byte. (DESIGN CHOICE, log 8.) -/
def Hbm.dflt (h : Hbm) (loc : Nat) : Byte :=
  match h.epoch loc with
  | none => 0#8
  | some e => Config.freeByte (e * 2 ^ 34 + loc)

/-- The byte at a location. (DESIGN CHOICE, log 8.) -/
def Hbm.get (h : Hbm) (loc : Nat) : Byte := tget h.dflt h.cells loc

/-- The byte at a location written: after the fill a zero byte is not listed. -/
def Hbm.put (h : Hbm) (loc : Nat) (b : Byte) : Hbm :=
  let t := tdel loc h.cells
  if h.epoch loc = none ∧ b = 0#8 then { h with cells := t } else { h with cells := tins loc b t }

/-- The canonical form of the contents: locations strictly rising, and no zero byte listed after the fill. -/
def Hbm.wf (h : Hbm) : Bool :=
  h.cells.Pairwise (fun a b => a.1 < b.1) && h.cells.all (fun c => (h.epoch c.1).isSome || c.2 != 0#8)

/-- The byte at a physical address. -/
def State.memByte (s : State) (a : Nat) : Byte := s.hbm.get (s.loc a)

/-- The bytes of a transfer; addresses wrap at 2^34. -/
def State.memBytes (s : State) (a n : Nat) : List Byte := (List.range n).map (fun i => s.memByte (a + i))

/-- Bytes stored at a physical address. The check bits of the units written are valid again. -/
def memWrite (a : Nat) (bs : List Byte) (s : State) : State :=
  let h := bs.zipIdx.foldl (fun h p => h.put (s.loc (a + p.2)) p.1) s.hbm
  let u := s.loc a / 128
  let v := s.loc (a + (bs.length - 1)) / 128
  { s with hbm := { h with ecc := h.ecc.filter (fun p => p.1 != u && p.1 != v) } }

/-! ### Ports (R265) -/

/-- A transfer is handed to a port, which takes it up in order. -/
def portReq (n a len : Nat) (w : Option (List Byte)) (why : Why) (s : State) : State :=
  s.updPort n (fun p => { p with wait := p.wait ++ [{ addr := a % 2 ^ 34, len := len, write := w, why := why, at_ := 0, issued := false }] })

/-- A port still holds work for a purpose. -/
def State.portHas (s : State) (n : Nat) (w : Why) : Bool :=
  (s.port n).wait.any (fun r => r.why == w) || (s.port n).outs.any (fun r => r.why == w)

end Sys2Proof.Machine
end

