-- ==== Sys2Proof/Machine/Flags.lean ====
section
/-! DEFINITION. The flags Z, N, C and V (R139, R156, R168, R169). -/

namespace Sys2Proof.Machine

/-- The four flags. -/
structure Flags where
  z : Bool
  n : Bool
  c : Bool
  v : Bool
  deriving DecidableEq, Repr

/-- ESTAT.FLAGS: [46] Z, [45] N, [44] C, [43] V. -/
def Flags.code (f : Flags) : Nat := 8 * b2n f.z + 4 * b2n f.n + 2 * b2n f.c + b2n f.v

/-- The flags of engine k. -/
def State.flags (s : State) (k : Nat) : Flags :=
  let x := s.rd (bEng k) F.Eng.ESTAT.FLAGS
  { z := x.testBit 3, n := x.testBit 2, c := x.testBit 1, v := x.testBit 0 }

/-- The flags of engine k replaced. -/
def setFlags (k : Nat) (f : Flags) (s : State) : State := s.wr (bEng k) F.Eng.ESTAT.FLAGS f.code

/-- Z and N of a result, with C and V given (R168). -/
def flagsOf (r : Word) (c v : Bool) : Flags := { z := r == 0#64, n := r.msb, c := c, v := v }

/-- ADD: C is the carry out of bit 63, V signed overflow (R168). -/
def flagsAdd (a b : Word) : Flags :=
  flagsOf (a + b) (decide (2 ^ 64 ≤ a.toNat + b.toNat))
    (decide (a.toInt + b.toInt < -2 ^ 63 ∨ 2 ^ 63 ≤ a.toInt + b.toInt))

/-- SUB and CMP: C = 1 where a ≥ b unsigned (R168). -/
def flagsSub (a b : Word) : Flags :=
  flagsOf (a - b) (decide (b.toNat ≤ a.toNat))
    (decide (a.toInt - b.toInt < -2 ^ 63 ∨ 2 ^ 63 ≤ a.toInt - b.toInt))

/-- MUL: V = 1 where the signed product does not fit in 64 signed bits, C = 0 (R168). -/
def flagsMul (a b : Word) : Flags :=
  flagsOf (a * b) false (decide (a.toInt * b.toInt < -2 ^ 63 ∨ 2 ^ 63 ≤ a.toInt * b.toInt))

/-- The high 64 bits of the signed 128-bit product (MULH). -/
def mulHigh (a b : Word) : Word := BitVec.ofInt 64 (a.toInt * b.toInt / 2 ^ 64)

/-- SHL by s: C is the last bit shifted out, 0 for s = 0 (R169). -/
def flagsShl (a : Word) (n : Nat) : Flags :=
  flagsOf (a <<< n) (if n = 0 then false else a.toNat.testBit (64 - n)) false

/-- SHR by s, logical or arithmetic (R169). -/
def shr (a : Word) (n : Nat) (arith : Bool) : Word := if arith then a.sshiftRight n else a >>> n

/-- The flags of SHR (R169). -/
def flagsShr (a : Word) (n : Nat) (arith : Bool) : Flags :=
  flagsOf (shr a n arith) (if n = 0 then false else a.toNat.testBit (n - 1)) false

/-- A flag condition COND[2:0] (R156). -/
def flagCond (f : Flags) : Nat → Bool
  | 0 => true
  | 1 => f.z
  | 2 => !f.z
  | 3 => f.n != f.v
  | 4 => f.n == f.v
  | 5 => !f.c
  | 6 => f.c
  | _ => !f.z && f.n == f.v

end Sys2Proof.Machine
end

