-- ==== Sys2Proof/Machine/Operands.lean ====
section
/-! DEFINITION. The registers of an engine as TYM instructions name them (R139-R144, R155-R157): g, l and p registers,
ACTIVE, the selection of lanes and the immediate forms. -/

namespace Sys2Proof.Machine

/-- g r (R139). -/
def State.g (s : State) (k r : Nat) : Word := s.reg (bEng k + 0x100 + 8 * (r % 16))
/-- g r written. -/
def setG (k r : Nat) (w : Word) (s : State) : State := s.setReg (bEng k + 0x100 + 8 * (r % 16)) w

/-- Lane i of l r (R140). -/
def State.lane (s : State) (k r i : Nat) : Word := s.reg (bEng k + 0x400 + 0x80 * (r % 8) + 8 * (i % 16))
/-- Lane i of l r written. -/
def setLane (k r i : Nat) (w : Word) (s : State) : State := s.setReg (bEng k + 0x400 + 0x80 * (r % 8) + 8 * (i % 16)) w

/-- The ACTIVE mask the latched site table and the site enable table give now (R144). -/
def State.activeNow (s : State) (k : Nat) : Nat :=
  ((s.eng k).site.zipIdx.map (fun p =>
    let w := p.1
    let site := w % 512
    if w.testBit 31 ∧ (s.tw (tSiteEn + 4 * (site / 32))).toNat.testBit (site % 32) then 2 ^ p.2 else 0)).sum

/-- ACTIVE as the engine holds it: the value of the last vector boundary while a run is open, else the present one
(R144). -/
def State.active (s : State) (k : Nat) : Nat :=
  if s.rd (bSk k) F.Sk.VSTAT.RUN = 1 then s.rd (bEng k) F.Eng.ACTIVE else s.activeNow k

/-- The field of predicate pj in its register. -/
def pFld (j : Nat) : Fld := { off := if j < 4 then 0x180 else 0x188, hi := 16 * (j % 4) + 15, lo := 16 * (j % 4) }

/-- pj as an operand: p0 is ACTIVE, the others are ANDed with it (R141). -/
def State.p (s : State) (k j : Nat) : Nat :=
  if j = 0 then s.active k else s.rd (bEng k) (pFld (j % 8)) &&& s.active k

/-- pj written: ANDed with ACTIVE; p0 takes no write (R141). -/
def setP (k j v : Nat) (s : State) : State := if j = 0 then s else s.wr (bEng k) (pFld (j % 8)) (v &&& s.active k)

/-- The lanes a lane instruction selects (R156, R141). -/
def State.sel (s : State) (k : Nat) (cond : BitVec 4) : Nat :=
  if cond.toNat < 8 then s.active k else s.p k (cond.toNat - 8)

/-- The condition gates the whole instruction (R156): a flag condition, or a predicate with a lane selected. -/
def State.condOk (s : State) (k : Nat) (cond : BitVec 4) : Bool :=
  if cond.toNat < 8 then flagCond (s.flags k) cond.toNat else s.p k (cond.toNat - 8) != 0

/-- A lane instruction is gated by a flag condition alone (R156). -/
def State.laneCondOk (s : State) (k : Nat) (cond : BitVec 4) : Bool :=
  if cond.toNat < 8 then flagCond (s.flags k) cond.toNat else true

/-- An immediate of `w` bits, sign-extended to 64. -/
def immS (w : Nat) (i : BitVec 40) : Word := BitVec.ofInt 64 (toSigned w i.toNat)

/-- Source b: SRCB, or IMM sign-extended in the immediate form (R167). -/
def State.srcb (s : State) (k : Nat) (o : TymOps) : Word := if o.form then immS 40 o.imm else s.g k o.srcb.toNat

/-- The bits [hi:lo] of IMM. -/
def immF (o : TymOps) (hi lo : Nat) : Nat := o.imm.toNat / 2 ^ lo % 2 ^ (hi + 1 - lo)

/-- IMM has no bit set outside the given mask. -/
def immOnly (o : TymOps) (mask : Nat) : Bool := o.imm.toNat &&& (2 ^ 40 - 1 - mask) == 0

/-- Lanes of a mask, ascending. -/
def lanesOf (m : Nat) : List Nat := (List.range 16).filter (fun i => m.testBit i)

end Sys2Proof.Machine
end

