-- ==== Sys2Proof/Machine/Engine.lean ====
section
/-! DEFINITION. The engine (R135-R154, R174-R177): faults, start, stop, code fetch, and the frame that every TYM
instruction shares. -/

namespace Sys2Proof.Machine

open Host

def State.pc (s : State) (k : Nat) : Nat := s.rd (bEng k) F.Eng.ESTAT.PC
def setPc (k pc : Nat) (s : State) : State := s.wr (bEng k) F.Eng.ESTAT.PC pc
def setEst (k st : Nat) (s : State) : State := s.wr (bEng k) F.Eng.ESTAT.STATE st

/-- The members of the braid engine k runs in: itself alone where it runs unbraided (R146). -/
def State.members (s : State) (k : Nat) : List Nat :=
  let b := (s.eng k).braid
  if b = 0 then [k] else (List.range 32).filter (fun j => b.testBit j)

/-- The leader of the braid: its lowest-numbered member (R146). -/
def State.leader (s : State) (k : Nat) : Nat := (s.members k).head?.getD k

/-! ### Faults (R148, R174) -/

/-- One engine stops with a fault code: its state and the fault are recorded, its vector unit stops, its channels are
commanded safe; what it was is kept for a cause of its own in the same cycle (R426). (DEDUCED, log 78.) -/
def stopEngine (k code : Nat) (s : State) : State :=
  let e := s.eng k
  let was : EngWas := { at_ := s.cycle, st := s.engState k, wait := e.wait, rpt := e.rpt, run := s.rd (bSk k) F.Sk.VSTAT.RUN,
                        nextS := (s.vu k).nextS, draining := e.draining }
  let s1 := (setEst k 6 s).wr (bEng k) F.Eng.ESTAT.FAULT code
  let s2 := (s1.wr (bEng k) F.Eng.EFAULT.PC (s.pc k)).wr (bEng k) F.Eng.EFAULT.VEC (s.rd (bSk k) F.Sk.VCOUNT)
  let s3 := s2.updEng k (fun e => { e with wait := .none, rpt := none, loading := false, timed := none,
                                            draining := false, was := some was })
  let s4 := (s3.updVu k (fun v => { v with
    nextS := none, release := false, atS := v.atS.filter (fun x => x.2 != .release) })).wr (bSk k) F.Sk.VSTAT.RUN 0
  safeSkein k s4

/-- Engine k has stopped in the present cycle: a cause of its own in that cycle can still be recorded (R426). -/
def State.stoppedNow (s : State) (k : Nat) : Bool :=
  decide (s.engState k = 6) && (s.eng k).was.any (fun w => w.at_ == s.cycle)

/-- An engine fault (R174): in a running engine the other running members of the braid stop in the same cycle with BRAID. An
engine that has stopped in this cycle records a cause of its own in place of BRAID and FREEZE, and of several the lowest code
(R426); in any other a fault cannot occur (R175). (DEDUCED, log 78.) -/
def engineFault (k code : Nat) (s : State) : State :=
  if s.engRunning k then
    let ms := (s.members k).filter (fun j => s.engRunning j && (s.eng j).braid == (s.eng k).braid)
    forL ms (fun j t => stopEngine j (if j = k then code else 6) t) s
  else if s.stoppedNow k then
    let now := s.rd (bEng k) F.Eng.ESTAT.FAULT
    if now = 6 ∨ now = 7 ∨ code < now then s.wr (bEng k) F.Eng.ESTAT.FAULT code else s
  else s

/-- Engine k as it was before it stopped in the present cycle. -/
def revive (k : Nat) (s : State) : State :=
  match (s.eng k).was with
  | some w =>
    if s.stoppedNow k then
      (((setEst k w.st s).wr (bSk k) F.Sk.VSTAT.RUN w.run).updEng k (fun e => { e with
        wait := w.wait, rpt := w.rpt, draining := w.draining })).updVu k (fun v => { v with nextS := w.nextS })
    else s
  | none => s

/-- What engine k's own units do in a cycle. Where it has stopped in that cycle, for BRAID, FREEZE or a cause of its own,
nothing happens but that the causes its braid meets in that cycle are recorded (R285, R426). -/
def ownCause (k : Nat) (f : State → State) (s : State) : State :=
  if !s.stoppedNow k then f s
  else
    let r := f (forL (s.members k) revive s)
    forL (s.members k) (fun j t =>
      let c := r.rd (bEng j) F.Eng.ESTAT.FAULT
      if r.engState j = 6 ∧ c ≠ 6 ∧ c ≠ 7 then engineFault j c t else t) s

/-! ### Start (R137, R145, R146, R151, R176, R193, R196) -/

/-- The memory port from which engine k fetches its program (R153). -/
def fetchPort (k : Nat) : Nat := 72 + k / 8

/-- A transfer that waits at a port is the PIN load of a later engine than k and has not begun (R153). -/
def MReq.laterPin (k : Nat) (r : MReq) : Bool :=
  match r.why with
  | .pinLoad j => decide (k < j ∧ r.len = 65536)
  | _ => false

/-- The PIN load of engine k is handed to its port, before the loads of later engines: the loads on one port are served in
ascending engine number (R151, R153). -/
def pinReq (k addr : Nat) (s : State) : State :=
  let r : MReq := { addr := addr % 2 ^ 34, len := 65536, write := none, why := .pinLoad k, at_ := 0, issued := false }
  s.updPort (fetchPort k) (fun p => { p with
    wait := p.wait.takeWhile (fun x => !x.laterPin k) ++ r :: p.wait.dropWhile (fun x => !x.laterPin k) })

/-- A member of a braid of mask `b` starts: PC, flags, stacks, pending events and the vector count clear, g, l and p
stay, the site table is latched, substitution registers and the fail latch return to their START values. A deskew of the skein is
aborted (R332). The sums and counts of the deskew loop begin anew with the vector numbers (R92).
(DESIGN CHOICE, log 148.) -/
def startOne (b lead : Nat) (timed : Option Nat) (k : Nat) (s0 : State) : State :=
  let s := dskAbortSk k s0
  let pin := decide (s.rd (bEng k) F.Eng.ECFG.PIN = 1)
  let base := s.rd (bEng k) F.Eng.ECFG.PIN_BASE / 16 * 16
  let e := s.eng k
  let s1 := s.setEng k { e with
    nextAt := s.cycle, wait := .none, calls := [], loops := [], rpt := none, hitchEv := false, signalEv := false,
    busyDst := [], site := (List.range 16).map (fun c => (s.tw (tSite + 4 * (16 * k + c))).toNat), cache := [], code := [], seen := [],
    wanted := [], pinBase := base, loading := pin, timed := timed, late := false, braid := b, draining := false }
  let s2 := s1.setVu k { perIdx := s.rd (bSk lead) F.Sk.EPSK.PER_SEL, release := true, reqNo := (s.vu k).reqNo, atS := (s.vu k).atS }
  let s3 := setPc k (s.rd (bEng k) F.Eng.ECFG.START_PC) s2
  let s4 := ((s3.wr (bEng k) F.Eng.ESTAT.FLAGS 0).wr (bEng k) F.Eng.ESTAT.CALL_DEPTH 0).wr (bEng k) F.Eng.ESTAT.LOOP_DEPTH 0
  let s5 := ((s4.wr (bEng k) F.Eng.ESTAT.PINNED 0).wr (bSk k) F.Sk.VCOUNT 0).wr (bEng k) F.Eng.ESTAT.LEADER
    (b2n (decide (b ≠ 0 ∧ lead = k)))
  let s6 := ((s5.wr (bSk k) F.Sk.FAILLAT.MASK 0xffff).wr (bSk k) F.Sk.FAILLAT.LATCH 0).wr (bSk k) F.Sk.VSTAT.RUN 0
  let s7 := forN 16 (fun c t =>
    echoAnew (16 * k + c) ((t.setReg (bSk k + 0x380 + 8 * c) 0#64).updChan (16 * k + c) (fun h => { h with
      sub := 0#64, subPtr := 64, vecN := 0, sumR := 0, cntR := 0, sumF := 0, cntF := 0, evs := [], cmps := [] }))) s6
  let s8 := if pin then pinReq k (s.rd (bEng k) F.Eng.ECODE.BASE * 128 + 8 * base) s7 else s7
  setEst k 1 (s8.wr (bSk k) F.Sk.VSTAT.FIFO_LEVEL 0 |>.wr (bSk k) F.Sk.VSTAT.VQ_LEVEL 0)

/-- The coarse count of a timed start of engine k: what ESTART_AT, a LIVE register, holds now (R137, R372). -/
def State.startCount (s : State) (k : Nat) : Option Nat := (s.eng k).timed.map (fun l => s.rd (bEng l) F.Eng.ESTART_AT)

/-- Execution begins in every member once every load is complete and a timed start has reached its count (R137). -/
def beginRun (k : Nat) (s : State) : State :=
  let ms := s.members k
  let ready := ms.all (fun j => decide (s.engState j = 1) && !(s.eng j).loading &&
    (match s.startCount j with | none => true | some a => s.reached a))
  if ready then
    forL ms (fun j t =>
      let t1 := t.flag (bEng j) F.Eng.ESTAT.LATESTART (t.eng j).late
      (setEst j 2 t1).updEng j (fun e => { e with nextAt := s.cycle, timed := none })) s
  else s

/-- A write of 1 to ECTL.START of engine k (R137, R146). Where its nonzero MASK does not name it, it counts as no leader.
(DESIGN CHOICE, log 149.) -/
def opStart (k : Nat) (timed : Bool) (s : State) : State :=
  let mask := s.rd (bEng k) F.Eng.EBRAID
  let alone := decide (mask = 0 ∨ mask = 2 ^ k)
  let ms := if alone then [k] else (List.range 32).filter (fun j => mask.testBit j)
  let isLead := alone || (ms.head? == some k)
  let ok := ms.all (fun j => decide (s.engState j = 0) && (alone || decide (s.rd (bEng j) F.Eng.EBRAID = mask)) &&
    decide (s.rd (bEng j) F.Eng.ECFG.HGRP = s.rd (bEng k) F.Eng.ECFG.HGRP))
  let drop := s.raise (bEng k) F.Eng.ESTAT.WDROP 0
  if s.engState k ≠ 0 ∨ s.frozen ∨ !isLead then drop
  else if !ok then drop.raise (bEng k) F.Eng.ESTAT.BRAIDERR 0
  else
    beginRun k (forL ms (startOne (if alone then 0 else mask) k (if timed then some k else none)) s)

/-- A write of 1 to ECTL.ABORT (R176). -/
def opAbort (k : Nat) (s : State) : State := engineFault k 8 s

/-- A write of 1 to ECTL.ENGRESET (R176). -/
def opEngreset (k : Nat) (s : State) : State :=
  let e := s.engState k
  if (e = 5 ∨ e = 6) ∧ !s.frozen then
    let s1 := (setEst k 0 s).wr (bEng k) F.Eng.ESTAT.FAULT 0
    let s2 := (s1.wr (bEng k) F.Eng.ESTAT.CALL_DEPTH 0).wr (bEng k) F.Eng.ESTAT.LOOP_DEPTH 0
    s2.updEng k (fun x => { x with calls := [], loops := [], hitchEv := false, signalEv := false, rpt := none, wait := .none })
  else s.raise (bEng k) F.Eng.ESTAT.WDROP 0

/-- PIN_LOAD_COMPLETE: the load of engine k is in its buffer (R151); where it ends after the count of a timed start, the
whole braid starts late (R137). -/
def pinLoaded (k : Nat) (s : State) : State :=
  let waiting := s.portHas (fetchPort k) (.pinLoad k)
  if !(s.eng k).loading ∨ s.engState k ≠ 1 ∨ waiting then s
  else
    let late := match s.startCount k with
      | some a => s.reached a && decide (s.coarse ≠ a)
      | none => false
    let s1 := forL (s.members k) (fun j t => t.updEng j (fun e => { e with late := e.late || late })) s
    beginRun k ((s1.updEng k (fun e => { e with loading := false })).wr (bEng k) F.Eng.ESTAT.PINNED 1)

/-! ### Code fetch (R151, R152) -/

/-- The line of a PC is in the buffer: always in PIN mode inside the pinned range. -/
def State.lineHere (s : State) (k pc : Nat) : Bool :=
  if s.rd (bEng k) F.Eng.ESTAT.PINNED = 1 then true
  else ((s.eng k).cache.find? (fun p => p.1 == pc / 16 % 256)).any (fun p => p.2.contains (pc / 16))

/-- A PC outside the pinned instructions (R151). -/
def State.pinMiss (s : State) (k : Nat) : Bool :=
  let b := (s.eng k).pinBase
  decide (s.rd (bEng k) F.Eng.ESTAT.PINNED = 1) && !decide (b ≤ s.pc k ∧ s.pc k < b + 8192)

/-- A request for a code line that is neither present nor wanted yet. -/
def wantLine (k line : Nat) (s : State) : State :=
  if s.lineHere k (16 * line) ∨ (s.eng k).wanted.contains line ∨ 2 ^ 20 ≤ line then s
  else portReq (fetchPort k) (s.rd (bEng k) F.Eng.ECODE.BASE * 128 + 128 * line) 128 none (.fetchLine k line)
    (s.updEng k (fun e => { e with wanted := e.wanted ++ [line] }))

/-- A line placed in its set, the most recently used first, two per set (R152). -/
def cachePut (line : Nat) (c : List (Nat × List Nat)) : List (Nat × List Nat) :=
  let i := line % 256
  let old := ((c.find? (fun p => p.1 == i)).map (·.2)).getD []
  (i, (line :: old.filter (· ≠ line)).take 2) :: c.filter (fun p => p.1 != i)

/-- The fetch of the instruction at PC in cache mode: its line becomes the most recently used, and the first execution
of one of its last four instructions asks for the next line (R152). (DEDUCED, log 74.) -/
def fetchTouch (k : Nat) (s : State) : State :=
  if s.rd (bEng k) F.Eng.ESTAT.PINNED = 1 then s
  else
    let line := s.pc k / 16
    let s1 := s.updEng k (fun e => { e with cache := cachePut line e.cache })
    if 12 ≤ s.pc k % 16 ∧ !(s.eng k).seen.contains line then
      wantLine k (line + 1) (s1.updEng k (fun e => { e with seen := line :: e.seen }))
    else s1

/-- The words of instruction `pc` on enter engine k's buffer as HBM has them when the read completes (R150). -/
def codeIn (k pc : Nat) (bs : List Byte) (s : State) : State :=
  s.updEng k (fun e => { e with code := (List.range (bs.length / 8)).foldl (fun c i =>
    tput (fun _ => 0#64) c (pc + i) (BitVec.ofNat 64 (leNat ((bs.drop (8 * i)).take 8)))) e.code })

/-- The words of lines that the cache no longer holds, nor waits for, are gone (R152). -/
def codeTrim (e : Eng) : Eng :=
  { e with code := e.code.filter (fun p => e.wanted.contains (p.1 / 16) ||
      (e.cache.find? (fun c => c.1 == p.1 / 16 % 256)).any (fun c => c.2.contains (p.1 / 16))) }

/-- A cache miss at PC: the engine stalls and asks for the line and the next (R152, R153). -/
def cacheMiss (k : Nat) (s : State) : State :=
  let line := s.pc k / 16
  let s1 := (s.updEng k (fun e => { e with wait := .line (s.pc k) })).inc (bEng k) F.Eng.EMISS 1
  wantLine k (line + 1) (wantLine k line s1)

/-- CACHE_LINE_FILL: the oldest line whose read has completed enters the cache; an engine that missed it resumes in the
next cycle (R152). -/
def lineFill (k : Nat) (s : State) : State :=
  match (s.eng k).wanted.find? (fun l => !s.portHas (fetchPort k) (.fetchLine k l)) with
  | none => s
  | some l =>
    let s1 := s.updEng k (fun e => codeTrim { e with
      wanted := e.wanted.erase l, cache := cachePut l e.cache, seen := e.seen.filter (· ≠ l) })
    match (s.eng k).wait with
    | .line pc => if pc / 16 = l then s1.updEng k (fun e => { e with wait := .none, nextAt := s.cycle + 1 }) else s1
    | _ => s1

/-! ### The frame of an instruction (R155-R159) -/

/-- No operand the instruction reads is still on its way (R159, R204). -/
def State.hazardFree (s : State) (k : Nat) (reads : List Dst) : Bool :=
  (s.eng k).busyDst.all (fun p => decide (p.2 ≤ s.cycle) || !reads.contains p.1)

/-- The engine may issue an instruction now. -/
def State.mayIssue (s : State) (k : Nat) (reads : List Dst) : Bool :=
  s.phase == .running && decide (s.engState k = 2) && (s.eng k).wait == .none && decide ((s.eng k).nextAt ≤ s.cycle) &&
    s.hazardFree k reads && !s.pinMiss k

/-- What the condition field reads: nothing (AL), the flags, or a predicate (R158, R159). -/
def condReads (cond : BitVec 4) : List Dst :=
  if cond = 0#4 then [] else if cond.toNat < 8 then [.flags] else [.p (cond.toNat - 8)]

/-- The instruction has issued and takes `cost` cycles: PC moves on, but not within an RPT (R163); a PC that would pass
2^24 - 1 is an ILLEGAL fault (R175). (DEDUCED, log 73.) -/
def advance (k cost : Nat) (s : State) : State :=
  let s1 := s.updEng k (fun e => { e with nextAt := s.cycle + cost })
  match (s.eng k).rpt with
  | some (n + 2) => s1.updEng k (fun e => { e with rpt := some (n + 1) })
  | _ =>
    let s2 := s1.updEng k (fun e => { e with rpt := none })
    if s.pc k + 1 = 2 ^ 24 then engineFault k 1 s2 else setPc k (s.pc k + 1) s2

/-- The instruction due stands at the last PC and does not repeat: going on would pass 2^24 - 1 (R175). -/
def State.lastPc (s : State) (k : Nat) : Bool :=
  decide (s.pc k + 1 = 2 ^ 24) && (match (s.eng k).rpt with | some (_ + 2) => false | _ => true)

/-- What an instruction that goes on to the next PC does: at the last PC it is an ILLEGAL fault and has no effect (R174,
R175). -/
def goesOn (k : Nat) (f : State → State) (s : State) : State := if s.lastPc k then engineFault k 1 s else f s

/-- A jump: PC becomes the target. -/
def jumpTo (k target cost : Nat) (s : State) : State :=
  setPc k (target % 2 ^ 24) (s.updEng k (fun e => { e with nextAt := s.cycle + cost, rpt := none }))

/-- The opcode of an instruction with two forms (R167, R171, R191, R200). -/
def twoForm (o : TymOps) (op : BitVec 8) : BitVec 8 := if o.form then op + 1#8 else op

/-- Instruction PC of engine k as its buffer holds it (R150, R151, R152). -/
def State.codeWord (s : State) (k : Nat) : Word := tget (fun _ => 0#64) (s.eng k).code (s.pc k)

/-- The frame of every TYM instruction: it issues only where the engine is due one and its operands are ready, misses
the cache where its line is absent, is nothing where another word than its own stands at PC (R150), is ILLEGAL where its
fields or an RPT before a control instruction make it so, and takes 1 cycle without effect where its condition fails.
`stall` holds it back (a full vector queue). An instruction that controls no flow goes on to the next PC.
(DEDUCED, log 74.) -/
def tymCore (k : Nat) (op : BitVec 8) (o : TymOps) (reads : List Dst) (legal ctl gate stall : Bool) (body : State → State) (s : State) :
    State :=
  if !s.mayIssue k (condReads o.cond ++ reads) then s
  else if !s.lineHere k (s.pc k) then cacheMiss k s
  else if s.codeWord k ≠ tymWord op o then s
  else if !legal || (ctl && (s.eng k).rpt.isSome) then engineFault k 1 s
  else if !gate then advance k 1 (fetchTouch k s)
  else if stall then s
  else if ctl then body (fetchTouch k s)
  else goesOn k body (fetchTouch k s)

/-- The same in an engine that may have stopped in this cycle (R426). -/
def tymStep (k : Nat) (op : BitVec 8) (o : TymOps) (reads : List Dst) (legal ctl gate stall : Bool) (body : State → State) (s : State) :
    State :=
  ownCause k (tymCore k op o reads legal ctl gate stall body) s

/-- A destination whose result is not ready before cycle `t` (R159, R204). -/
def busyUntil (k : Nat) (ds : List Dst) (t : Nat) (s : State) : State :=
  s.updEng k (fun e => { e with busyDst := (e.busyDst.filter (fun p => decide (s.cycle < p.2) && !ds.contains p.1)) ++
                                  ds.map (fun d => (d, t)) })

/-- A destination written by an instruction without delay. -/
def readyNow (k : Nat) (ds : List Dst) (s : State) : State :=
  s.updEng k (fun e => { e with busyDst := e.busyDst.filter (fun p => !ds.contains p.1) })

/-- The engine enters WAIT. -/
def waitFor (k : Nat) (w : Wait) (s : State) : State :=
  setEst k 3 (s.updEng k (fun e => { e with wait := w, arrived := s.cycle }))

/-- A wait ends: the next instruction issues at cycle `t`, and STATE reads RUN until then. (DESIGN CHOICE, log 150.) -/
def resumeAt (k t : Nat) (s : State) : State :=
  setEst k 2 (s.updEng k (fun e => { e with wait := .none, nextAt := t }))

/-! ### Meanings -/

/-- ECTL_START (R137, R146). -/
def execEctlStart (k : Fin 32) (timed : Bool) (s : State) : Outcome State Fault Refusal :=
  act s (cmdAccess (bEng k) false false (opStart k timed))

/-- TIMED_START: the coarse count has reached ESTART_AT (R137). -/
def execTimedStart (k : Fin 32) (s : State) : Outcome State Fault Refusal := act s (beginRun k)

/-- PIN_LOAD_COMPLETE (R151, R137). -/
def execPinLoadComplete (k : Fin 32) (s : State) : Outcome State Fault Refusal := act s (pinLoaded k)

/-- ECTL_ABORT (R176). -/
def execEctlAbort (k : Fin 32) (s : State) : Outcome State Fault Refusal :=
  act s (cmdAccess (bEng k) false false (opAbort k))

/-- ECTL_ENGRESET (R176). -/
def execEctlEngreset (k : Fin 32) (s : State) : Outcome State Fault Refusal :=
  act s (cmdAccess (bEng k) false false (opEngreset k))

/-- CACHE_LINE_FILL (R152, R153). -/
def execCacheLineFill (k : Fin 32) (s : State) : Outcome State Fault Refusal := act s (lineFill k)

/-- PINMISS: the instruction due lies outside the pinned instructions (R151). -/
def execPinmiss (k : Fin 32) (s : State) : Outcome State Fault Refusal :=
  act s (ownCause k (fun t =>
    whenB (decide (t.engState k = 2) && (t.eng k).wait == .none && decide ((t.eng k).nextAt ≤ t.cycle) && t.pinMiss k)
      (engineFault k 3) t))

end Sys2Proof.Machine
end

