-- ==== Sys2Proof/Machine/Arith.lean ====
section
/-! DEFINITION. The scalar arithmetic instructions (R167-R170) and ILLEGAL opcodes (R157). -/

namespace Sys2Proof.Machine

open Host

/-- A two-operand scalar instruction: IMM is 0 in the register form, SRCB in the immediate form. -/
def arithLegal (o : TymOps) : Bool := if o.form then o.srcb == 0#4 else immOnly o 0

/-- The legality of the shifts: R169 names the bits of IMM that must be 0 for both, and bit 6 is not one of them; SHL
makes no use of it. (DEDUCED, log 71.) -/
def shiftLegal (o : TymOps) : Bool := if o.form then o.srcb == 0#4 && immOnly o 0x7f else immOnly o 0x40

/-- The legality of CMP, MOV and MOVI. -/
def cmpLegal (o : TymOps) : Bool := arithLegal o && o.dst == 0#4
def movLegal (o : TymOps) : Bool := o.srcb == 0#4 && immOnly o 0
def moviLegal (o : TymOps) : Bool := o.srcb == 0#4 && (o.srca == 0#4 || (o.srca == 1#4 && immOnly o 0xffffff))

/-- The g registers a two-operand instruction reads. -/
def arithReads (o : TymOps) : List Dst := .g o.srca.toNat :: (if o.form then [] else [.g o.srcb.toNat])

/-- A scalar result: gd and the flags are written, the next instruction issues in the next cycle. -/
def arithDone (k d : Nat) (r : Word) (f : Flags) (s : State) : State :=
  advance k 1 (readyNow k [.g d, .flags] (setFlags k f (setG k d r s)))

/-- MUL and MULH: gd and the flags may be read 3 cycles after issue (R159). -/
def mulDone (k d : Nat) (r : Word) (f : Flags) (s : State) : State :=
  advance k 1 (busyUntil k [.g d, .flags] (s.cycle + 3) (setFlags k f (setG k d r s)))

/-- The frame of the two-operand scalar instructions: their result and flags as functions of ga and b. -/
def arith2 (k : Nat) (op : BitVec 8) (o : TymOps) (res : Word → Word → Word) (fl : Word → Word → Flags) (s : State) : State :=
  tymStep k op o (arithReads o) (arithLegal o) false (s.condOk k o.cond) false
    (arithDone k o.dst.toNat (res (s.g k o.srca.toNat) (s.srcb k o)) (fl (s.g k o.srca.toNat) (s.srcb k o))) s

/-- ADD (R167, R168). -/
def execTymAdd (k : Fin 32) (o : TymOps) (s : State) : Outcome State Fault Refusal :=
  act s (arith2 k (twoForm o 0x60#8) o (· + ·) flagsAdd)

/-- SUB (R167, R168). -/
def execTymSub (k : Fin 32) (o : TymOps) (s : State) : Outcome State Fault Refusal :=
  act s (arith2 k (twoForm o 0x62#8) o (· - ·) flagsSub)

/-- MUL (R167, R168, R159). -/
def execTymMul (k : Fin 32) (o : TymOps) (s : State) : Outcome State Fault Refusal :=
  act s (tymStep k (twoForm o 0x64#8) o (arithReads o) (arithLegal o) false (s.condOk k o.cond) false
    (mulDone k o.dst.toNat (s.g k o.srca.toNat * s.srcb k o) (flagsMul (s.g k o.srca.toNat) (s.srcb k o))))

/-- MULH (R167, R159). -/
def execTymMulh (k : Fin 32) (o : TymOps) (s : State) : Outcome State Fault Refusal :=
  act s (tymStep k (twoForm o 0x66#8) o (arithReads o) (arithLegal o) false (s.condOk k o.cond) false
    (let r := mulHigh (s.g k o.srca.toNat) (s.srcb k o); mulDone k o.dst.toNat r (flagsOf r false false)))

/-- AND (R167). -/
def execTymAnd (k : Fin 32) (o : TymOps) (s : State) : Outcome State Fault Refusal :=
  act s (arith2 k (twoForm o 0x68#8) o (· &&& ·) (fun a b => flagsOf (a &&& b) false false))

/-- OR (R167). -/
def execTymOr (k : Fin 32) (o : TymOps) (s : State) : Outcome State Fault Refusal :=
  act s (arith2 k (twoForm o 0x6a#8) o (· ||| ·) (fun a b => flagsOf (a ||| b) false false))

/-- XOR (R167). -/
def execTymXor (k : Fin 32) (o : TymOps) (s : State) : Outcome State Fault Refusal :=
  act s (arith2 k (twoForm o 0x6c#8) o (· ^^^ ·) (fun a b => flagsOf (a ^^^ b) false false))

/-- The shift count of R169: IMM[5:0], or gb[5:0]. -/
def shiftCount (s : State) (k : Nat) (o : TymOps) : Nat :=
  if o.form then immF o 5 0 else (s.g k o.srcb.toNat).toNat % 64

/-- SHL (R169): the arithmetic bit makes no difference to it. (DEDUCED, log 71.) -/
def execTymShl (k : Fin 32) (o : TymOps) (s : State) : Outcome State Fault Refusal :=
  act s (tymStep k (twoForm o 0x6e#8) o (arithReads o) (shiftLegal o) false
    (s.condOk k o.cond) false
    (let a := s.g k o.srca.toNat; let n := shiftCount s k o
     arithDone k o.dst.toNat (a <<< n) (flagsShl a n)))

/-- SHR (R169): IMM[6] is the arithmetic bit in both forms. -/
def execTymShr (k : Fin 32) (o : TymOps) (s : State) : Outcome State Fault Refusal :=
  act s (tymStep k (twoForm o 0x70#8) o (arithReads o) (shiftLegal o) false
    (s.condOk k o.cond) false
    (let a := s.g k o.srca.toNat; let n := shiftCount s k o; let ar := o.imm.getLsbD 6
     arithDone k o.dst.toNat (shr a n ar) (flagsShr a n ar)))

/-- CMP (R167): flags of ga - b; DST must be 0. -/
def execTymCmp (k : Fin 32) (o : TymOps) (s : State) : Outcome State Fault Refusal :=
  act s (tymStep k (twoForm o 0x72#8) o (arithReads o) (cmpLegal o) false (s.condOk k o.cond) false
    (fun t => advance k 1 (readyNow k [.flags] (setFlags k (flagsSub (s.g k o.srca.toNat) (s.srcb k o)) t))))

/-- MOV (R167). -/
def execTymMov (k : Fin 32) (o : TymOps) (s : State) : Outcome State Fault Refusal :=
  act s (tymStep k 0x74#8 o [.g o.srca.toNat] (movLegal o) false (s.condOk k o.cond) false
    (let a := s.g k o.srca.toNat; arithDone k o.dst.toNat a (flagsOf a false false)))

/-- The value MOVI writes: IMM sign-extended, or with HI gd[63:40] := IMM[23:0] (R170). -/
def moviVal (s : State) (k : Nat) (o : TymOps) : Word :=
  if o.srca = 0#4 then immS 40 o.imm
  else BitVec.ofNat 64 (immF o 23 0 * 2 ^ 40 + (s.g k o.dst.toNat).toNat % 2 ^ 40)

/-- MOVI (R170): SRCA 0 or 1 (HI); with HI IMM[39:24] is 0. -/
def execTymMovi (k : Fin 32) (o : TymOps) (s : State) : Outcome State Fault Refusal :=
  act s (tymStep k 0x75#8 o (if o.srca = 0#4 then [] else [.g o.dst.toNat])
    (moviLegal o) false (s.condOk k o.cond) false
    (let r := moviVal s k o; arithDone k o.dst.toNat r (flagsOf r false false)))

end Sys2Proof.Machine
end

