-- ==== Sys2Proof/Machine/Ring.lean ====
section
/-! DEFINITION. The LANYARD ring's shared operations (R306-R312): sending under credits, the receiver's order check,
forwarding, broadcasts and the queue of scheduled actions. -/

namespace Sys2Proof.Machine

/-! ### The bytes of a packet (R306, R307) -/

/-- One bit of the CRC-32C of R306, reflected. -/
def crcCStep (c : Nat) : Nat := if c % 2 = 1 then (c / 2) ^^^ 0x82f63b78 else c / 2

/-- CRC-32C of a list of bytes (R306). -/
def crc32c (bs : List Byte) : BitVec 32 :=
  BitVec.ofNat 32 ((bs.foldl (fun c b => Nat.repeat crcCStep 8 (c ^^^ b.toNat)) 0xffffffff) ^^^ 0xffffffff)

/-- The payload of a packet, little-endian (R6, R307). -/
def Pkt.body (p : Pkt) : List Byte :=
  let g := fun i => atD p.payload i 0
  match p.kind with
  | 0x01 => []
  | 0x11 => leBytes 8 (g 0) ++ leBytes 8 (g 1)
  | 0x12 => leBytes 8 (g 0) ++ leBytes 8 (g 1)
  | 0x20 => leBytes 8 (g 0) ++ leBytes 1 (g 1) ++ leBytes 1 (g 2) ++ leBytes 6 (g 3)
  | 0x21 => leBytes 8 (g 0) ++ leBytes 1 (g 1) ++ leBytes 7 (g 2)
  | 0x23 => []
  | 0x30 => (p.payload.drop 2).map (BitVec.ofNat 8)
  | 0x40 => leBytes 16 (g 0 + 2 ^ 8 * g 1 + 2 ^ 9 * g 2)
  | 0x42 => leBytes 16 (g 0 + 2 ^ 8 * g 1)
  | 0x43 => leBytes 16 (g 0 + 2 ^ 8 * g 1)
  | _ => leBytes 16 (g 0)

/-- The first word of the header (R306); LINKCTL has the credit units it returns in [23:8] (R307). -/
def Pkt.word0 (p : Pkt) : Nat :=
  2 ^ 48 * (p.lseq % 2 ^ 16) + 2 ^ 40 * (p.kind % 256) + 2 ^ 38 * (p.vc % 4) + 2 ^ 37 * b2n p.bcast + 2 ^ 36 * (p.dir % 2) +
    2 ^ 30 * (p.src % 64) + 2 ^ 24 * (p.dst % 64) + (if p.kind = 0x01 then 2 ^ 8 * (atD p.payload 0 0 % 2 ^ 16) else 0) +
    p.len % 128

/-- The bytes of a packet on the link: the header with the CRC-32C over the whole packet, its own bytes taken as zero, and
the payload (R306). -/
def Pkt.wire (p : Pkt) : List Byte :=
  let h := leBytes 8 p.word0 ++ leBytes 4 p.tag
  h ++ leBytes 4 (crc32c (h ++ leBytes 4 0 ++ p.body)).toNat ++ p.body

/-- A packet leaves the device. -/
def sendOut (p : Pkt) (s : State) : State := s.out (.packet p p.wire)

/-! ### Sending (R306-R310) -/

/-- Port q is up (R304). -/
def State.portUp (s : State) (q : Nat) : Bool := decide (s.rd (bLp q) F.Lnk.PSTAT.UP = 1)

/-- The credit register of virtual channel v at port q: there are two ports of four channels (R304, R309).
(DEDUCED, log 101.) -/
def bCred (q v : Nat) : Nat := bLp (q % 2) + 8 * (v % 4)

/-- The virtual channel of a packet kind (R307). -/
def kindVc (kind : Nat) : Nat :=
  if kind = 0x10 ∨ kind = 0x11 ∨ kind = 0x21 ∨ kind = 0x22 ∨ kind = 0x23 then 0
  else if kind = 0x12 ∨ kind = 0x31 then 1
  else if kind = 0x30 then 3
  else 2

/-- A packet of this device. -/
def mkPkt (s : State) (kind tag dst : Nat) (bcast : Bool) (len : Nat) (payload : List Nat) : Pkt :=
  { kind := kind, vc := kindVc kind, len := len, dir := 0, lseq := 0, tag := tag, src := s.pos, dst := dst, bcast := bcast,
    payload := payload }

/-- A LINKCTL packet leaves port q: the LSEQ acknowledged or asked for again, and the credits returned on `vc`. It takes no
credit and is not kept for replay. -/
def linkctl (q seq : Nat) (nak : Bool) (units vc : Nat) (s : State) : State :=
  sendOut { mkPkt s 0x01 (seq + 2 ^ 16 * b2n nak) 0 false 1 [units] with dir := q, vc := vc } s

/-- One more use of a received packet keeps it in its buffer. -/
def holdRx (r : Option (Nat × Nat)) (s : State) : State :=
  match r with
  | none => s
  | some (q, l) => s.updLp q (fun x => { x with rx := x.rx.map (fun e => if e.seq = l then { e with uses := e.uses + 1 } else e) })

/-- A use of a received packet ends: with the last it leaves the receiver's buffer, and its credits go back by LINKCTL
(R309). (DEDUCED, log 141.) -/
def releaseRx (r : Option (Nat × Nat)) (s : State) : State :=
  match r with
  | none => s
  | some (q, l) =>
    match (s.lp q).rx.find? (fun e => e.seq == l) with
    | none => s
    | some e =>
      if 1 < e.uses then
        s.updLp q (fun x => { x with rx := x.rx.map (fun e => if e.seq = l then { e with uses := e.uses - 1 } else e) })
      else
        let c := bCred q e.vc
        let s1 := s.updLp q (fun x => { x with rx := x.rx.filter (fun e => e.seq != l) })
        linkctl q (((s.lp q).rxSeq + 2 ^ 16 - 1) % 2 ^ 16) false e.units e.vc
          (s1.wr c F.Lnk.PCRED.RXUSED (s.rd c F.Lnk.PCRED.RXUSED - e.units))

/-- One packet leaves port q where its virtual channel has credits and the 32 KB replay buffer has room (R308, R309);
none means that it waits. A packet received by the other port has now been forwarded. -/
def transmit (q : Nat) (p : Pkt) (s : State) : Option State :=
  let b := bCred q p.vc
  let av := s.rd b F.Lnk.PCRED.AVAIL
  let x := s.lp q
  let kept := (x.replay.map (·.len)).sum
  if av < p.len ∨ 2048 < kept + p.len then none
  else
    let p1 := { p with lseq := x.txSeq, dir := q, held := none }
    let s1 := (s.wr b F.Lnk.PCRED.AVAIL (av - p.len)).inc b F.Lnk.PCRED.OUT p.len
    some (releaseRx p.held
      (sendOut p1 (s1.updLp q (fun x => { x with txSeq := (x.txSeq + 1) % 2 ^ 16, replay := x.replay ++ [p1] }))))

/-- The waiting packets of a port in order; a packet that cannot go holds back the later ones of its virtual channel
alone (R309, R310). -/
def pumpList (q : Nat) : List Pkt → List Nat → State → List Pkt × State
  | [], _, s => ([], s)
  | p :: t, blocked, s =>
    if blocked.contains p.vc then
      let r := pumpList q t blocked s
      (p :: r.1, r.2)
    else match transmit q p s with
      | some s1 => pumpList q t blocked s1
      | none =>
        let r := pumpList q t (p.vc :: blocked) s
        (p :: r.1, r.2)

/-- Port q sends what it can. -/
def pump (q : Nat) (s : State) : State :=
  let r := pumpList q (s.lp q).sendQ [] s
  r.2.updLp q (fun x => { x with sendQ := r.1 })

/-- A packet for the next device alone: the kinds of discovery but DONE (R316). -/
def Pkt.hop (p : Pkt) : Bool := 0x40 ≤ p.kind && decide (p.kind ≤ 0x42)

/-- A packet is handed to port q. Where that port is not up, a broadcast has come to the chain's end and a packet of
discovery has no neighbour; any other packet takes the other direction, and where neither port is up it waits (R14,
R318). (DEDUCED, log 141.) -/
def sendBy (q : Nat) (p : Pkt) (s : State) : State :=
  let put := fun (t : State) => t.updLp q (fun x => { x with sendQ := x.sendQ ++ [p] })
  if s.portUp q then pump q (put s)
  else if p.bcast || p.hop then releaseRx p.held s
  else if s.portUp (1 - q) then pump (1 - q) (s.updLp (1 - q) (fun x => { x with sendQ := x.sendQ ++ [p] }))
  else put s

/-- Packets from this device reach position `dst` clockwise: no known break lies on the way (R310, R318). -/
def State.reachCw (s : State) (dst : Nat) : Bool :=
  let n := s.rd bLnk F.Lnk.LSTAT.N
  let away := fun (p : Nat) => (p + n - s.pos) % (max n 1)
  s.portUp 0 && s.lnk.brks.all (fun b => decide (away dst ≤ away b))

/-- The same counter-clockwise. -/
def State.reachCcw (s : State) (dst : Nat) : Bool :=
  let n := s.rd bLnk F.Lnk.LSTAT.N
  let from_ := fun (p : Nat) => (p + n - dst) % (max n 1)
  s.portUp 1 && s.lnk.brks.all (fun b => decide (from_ s.pos ≤ from_ b))

/-- A second break has cut position `dst` off from this device (R318). -/
def State.cutOff (s : State) (dst : Nat) : Bool :=
  decide (s.rd bLnk F.Lnk.LSTAT.MODE = 2) && !s.reachCw dst && !s.reachCcw dst

/-- The port by which a packet for position `dst` leaves (R310). In chain mode it is the only direction that reaches the
destination, by the places of the breaks as the reports of discovery and of breaks that passed here name them. A device that
no report has reached, its own ports both up, has no place for one: a free value. (DESIGN CHOICE, log 12.) -/
def State.route (s : State) (dst : Nat) : Nat :=
  if s.portUp 0 && !s.portUp 1 then 0
  else if s.portUp 1 && !s.portUp 0 then 1
  else
    let n := s.rd bLnk F.Lnk.LSTAT.N
    if s.rd bLnk F.Lnk.LSTAT.MODE = 2 then
      if s.lnk.brks = [] then Config.freeNat s.free % 2 else if s.reachCw dst then 0 else 1
    else if 2 * ((dst + n - s.pos) % (max n 1)) ≤ n then 0 else 1

/-- A packet for one position. (DESIGN CHOICE, log 12.) -/
def sendTo (kind tag dst len : Nat) (payload : List Nat) (s : State) : State :=
  sendBy (s.route dst) (mkPkt s kind tag dst false len payload) s.fresh

/-- A broadcast leaves in both directions under the next broadcast tag (R310). -/
def broadcast (kind len : Nat) (payload : List Nat) (s : State) : State :=
  let p := mkPkt s kind s.lnk.btag 0 true len payload
  sendBy 1 p (sendBy 0 p (s.updLnk (fun x => { x with btag := (x.btag + 1) % 2 ^ 32 })))

/-- A SCHED broadcast leaves once discovery is done (R316 step 6). (DEDUCED, log 142.) -/
def schedCast (payload : List Nat) (s : State) : State :=
  if s.rd bLnk F.Lnk.LSTAT.READY = 1 then broadcast 0x20 2 payload s else s

/-! ### Receiving (R306-R311) -/

/-- A head device that has found another head (R315). -/
def State.conflict (s : State) : Bool := s.isHead && decide (s.rd bLnk F.Lnk.LSTAT.HEADCONFLICT = 1)

/-- The received packet that a header names in its port's buffer. -/
def rxRef (h : PktHdr) : Option (Nat × Nat) := some (h.port.val, h.lseq.toNat)

/-- A received packet that is the next in order is accepted: it takes its units in the buffer of its virtual channel and
is acknowledged (R308, R309). -/
def acceptPkt (h : PktHdr) (s : State) : Option State :=
  let q := h.port.val
  let l := h.lseq.toNat
  if !s.portUp q ∨ l ≠ (s.lp q).rxSeq then none
  else
    let e : RxPkt := { seq := l, vc := h.vc, units := h.len, uses := 1 }
    let s1 := s.updLp q (fun x => { x with rxSeq := (x.rxSeq + 1) % 2 ^ 16, rx := x.rx ++ [e] })
    some (linkctl q l false 0 h.vc (s1.inc (bCred q h.vc) F.Lnk.PCRED.RXUSED h.len))

/-- What a port answers to a packet that is not the next in order: ahead of it, NAK asks for the missing one; behind it, it
is acknowledged again (R308). -/
def refusePkt (h : PktHdr) (s : State) : State :=
  let q := h.port.val
  if !s.portUp q then s
  else
    let rx := (s.lp q).rxSeq
    let ahead := (h.lseq.toNat + 2 ^ 16 - rx) % 2 ^ 16
    if ahead < 2 ^ 15 then linkctl q rx true 0 h.vc s else linkctl q ((rx + 2 ^ 16 - 1) % 2 ^ 16) false 0 h.vc s

/-- A packet goes on in its direction (R310, R311) and stays in the receiver's buffer until it has left (R309). A head in
conflict forwards nothing (R315). -/
def forward (h : PktHdr) (kind : Nat) (payload : List Nat) (s : State) : State :=
  if s.conflict then s
  else
    let p : Pkt := { kind := kind, vc := h.vc, len := h.len, dir := b2n h.dir, lseq := 0, tag := h.tag.toNat, src := h.src,
                     dst := h.dst, bcast := h.bcast, payload := payload, held := (rxRef h) }
    sendBy (b2n h.dir) p (holdRx (rxRef h) s)

/-- A received packet: checked, and then acted on here, forwarded, or both for a broadcast's first copy (R310). -/
def receive (h : PktHdr) (kind : Nat) (payload : List Nat) (f : State → State) (s : State) : State :=
  match acceptPkt h s with
  | none => refusePkt h s
  | some s1 =>
    releaseRx (rxRef h) (
      if h.bcast then
        let key := (h.src.val, h.tag.toNat)
        if h.src.val = s.pos ∨ s.lnk.seen.contains key then s1
        else f (forward h kind payload (s1.updLnk (fun x => { x with seen := key :: x.seen })))
      else if h.dst.val = s.pos then f s1
      else forward h kind payload s1)

/-- A packet that concerns this device alone (discovery). -/
def receiveHere (h : PktHdr) (f : State → State) (s : State) : State :=
  match acceptPkt h s with
  | none => refusePkt h s
  | some s1 => releaseRx (rxRef h) (f s1)

/-- A received packet is one of port q's. -/
def rxOf (q : Nat) (r : Option (Nat × Nat)) : Bool := match r with | some (p, _) => p == q | none => false

/-- What waits in the receive buffer of port q is discarded, wherever it waits (R305). The packets of the port's own queue
stay, and its numbering starts anew. -/
def portDrop (q : Nat) (s : State) : State :=
  let s1 := (s.updLp q (fun x => { sendQ := x.sendQ.filter (fun p => !rxOf q p.held) })).updLp (1 - q) (fun x =>
    { x with sendQ := x.sendQ.filter (fun p => !rxOf q p.held) })
  let s2 := s1.updLnk (fun x => { x with held := x.held.filter (fun h => !rxOf q h.1) })
  forL (s.hrings.map (·.1)) (fun h t => t.updHring h (fun x => { x with
    waiting := x.waiting.filter (fun r => !rxOf q r.held), early := x.early.filter (fun r => !rxOf q r.held) })) s2

/-! ### Scheduled actions (R312) -/

/-- SCHEDQ follows the queue. -/
def schedUpd (s : State) : State :=
  let n := s.lnk.schedQ.length
  (s.wr bLnk F.Lnk.SCHEDQ.DEPTH n).wr bLnk F.Lnk.SCHEDQ.PEAK (max n (s.rd bLnk F.Lnk.SCHEDQ.PEAK))

/-- The device holds its 32 pending actions. -/
def State.schedFull (s : State) : Bool := decide (32 ≤ s.lnk.schedQ.length)

/-- An action joins the pending ones; with 32 pending it waits in the link, in the received packet `r`. -/
def schedPush (r : Option (Nat × Nat)) (a : Sched) (s : State) : State :=
  if s.schedFull then holdRx r (s.updLnk (fun x => { x with held := x.held ++ [(r, a)] }))
  else schedUpd (s.updLnk (fun x => { x with schedQ := x.schedQ ++ [a] }))

end Sys2Proof.Machine
end

