-- ==== Sys2Proof/Machine/Trigger.lean ====
section
/-! DEFINITION. Trigger domains (R213-R221, R239-R241, R252): arm and disarm requests, the states of a domain, firings,
line edges, hold-off. -/

namespace Sys2Proof.Machine

open Host

def setDomState (d st : Nat) (s : State) : State := s.wr (bDom d) F.Trs.DSTAT.STATE st

/-- Domain d takes part (R213). -/
def State.takesPart (s : State) (d : Nat) : Bool := s.domOn 87 && decide (s.rd (bDom d) F.Trs.DCFG.EN = 1)

/-- Domain d enters ARMED under the arm for coarse count `a`: its conditions count afresh (R214, R217, R231). -/
def enterArmed (d a : Nat) (s : State) : State :=
  let s1 := forN 16 (fun i t => if t.rd (bCond i) F.Trs.TCOND.DOM = d then
    { t with condCnt := tput (fun _ => 0) t.condCnt i 0 } else t) s
  (setDomState d 2 s1).updDom d (fun x => { x with inForce := a, hoEnd := none, fired := none })

/-- Domain d goes to DISARMED. -/
def enterDisarmed (d : Nat) (s : State) : State :=
  (setDomState d 0 s).updDom d (fun x => { x with hoEnd := none })

/-- A scheduled ARM for d at coarse count `a` reaches this device in the received packet `r`, or is its own (R215, R312).
A device that does not take part takes none. The domain goes to ARMING with the action, not while the packet still waits in
the link. (DEDUCED, log 82.) -/
def recvArm (r : Option (Nat × Nat)) (d a : Nat) (s : State) : State :=
  if !s.takesPart d then s
  else if s.reached a then
    enterArmed d a ((s.raise (bDom d) F.Trs.DSTAT.ARMLATE 0).raise bLnk F.Lnk.LSTAT.SCHEDLATE 0)
  else
    let s1 := schedPush r { act := 2, at_ := a, arg := d } s
    if s1.domState d = 0 ∧ !s.schedFull then setDomState d 1 s1 else s1

/-- A scheduled DISARM for d. -/
def recvDisarm (r : Option (Nat × Nat)) (d a : Nat) (s : State) : State :=
  if !s.takesPart d then s
  else if s.reached a then enterDisarmed d (s.raise bLnk F.Lnk.LSTAT.SCHEDLATE 0)
  else schedPush r { act := 3, at_ := a, arg := d } s

/-- A scheduled HITCH reaches this device: late, it takes its commit at once (R312, R378). -/
def recvHitch (r : Option (Nat × Nat)) (at_ mask : Nat) (s : State) : State :=
  if s.reached at_ then takeCommits mask none (s.raise bLnk F.Lnk.LSTAT.SCHEDLATE 0)
  else schedPush r { act := 1, at_ := at_, arg := mask } s

/-- The actions that the link holds back come in as far as the queue has room; one whose AT has passed by then is late and
takes effect at once (R312). Its packet leaves the receiver's buffer. -/
def schedAdmitL : List (Option (Nat × Nat) × Sched) → State → State
  | [], s => s
  | (r, a) :: t, s =>
    if s.schedFull then s
    else
      let s1 := s.updLnk (fun x => { x with held := t })
      schedAdmitL t (releaseRx r (match a.act with
        | 1 => recvHitch none a.at_ a.arg s1
        | 2 => recvArm none a.arg a.at_ s1
        | _ => recvDisarm none a.arg a.at_ s1))

/-- The queue has room again. -/
def schedAdmit (s : State) : State := schedAdmitL s.lnk.held (schedUpd s)

/-- One action has taken effect and leaves the queue: of equal ones the first. -/
def schedDrop (a : Sched) (s : State) : State :=
  schedAdmit (s.updLnk (fun x => { x with schedQ := x.schedQ.erase a }))

/-- Every pending action that satisfies a test is discarded, those that the link holds back among them. -/
def schedPurge (p : Sched → Bool) (s : State) : State :=
  let gone := s.lnk.held.filter (fun h => p h.2)
  let s1 := s.updLnk (fun x => { x with schedQ := x.schedQ.filter (fun a => !p a), held := x.held.filter (fun h => !p h.2) })
  schedAdmit (forL gone (fun h t => releaseRx h.1 t) s1)

/-- The low 48 bits of the coarse count, as SCHED carries them. -/
def State.coarse48 (s : State) : Nat := s.coarse % ctrMod

/-- The master of d answers a request for count A (R215): an arm is dropped unless its own domain is DISARMED; the
broadcast names max(A, now + LEAD µs), and the master acts on it too. (DESIGN CHOICE, log 11.) (DEDUCED, log 79.) -/
def masterRequest (d a : Nat) (disarm : Bool) (s : State) : State :=
  if !disarm && decide (s.domState d ≠ 0) then s
  else
    let lead := (s.coarse + 1000 * s.rd (bDom d) F.Trs.DCFG.LEAD) % coarseMod
    let a1 := max (a % coarseMod) lead
    let s1 := schedCast [a1, if disarm then 3 else 2, d, s.coarse48] s
    if disarm then recvDisarm none d a1 s1 else recvArm none d a1 s1

/-- This device is a master of d (R213). -/
def State.isMaster (s : State) (d : Nat) : Bool := s.takesPart d && decide (s.rd (bDom d) F.Trs.DCFG.MASTER = 1)

/-- A request of this device for domain d (R206, R213, R215). A master serves its own request in the same cycle, unless a
device at a lower position is a master too (R252); alone in its system the device finds no other master. Whether and where
another device is a master is not known here: a free value below 64 that names a position of the system takes the request,
any other finds none. (DESIGN CHOICE, log 11.) -/
def armRequest (d a : Nat) (disarm : Bool) (s : State) : State :=
  if !s.domOn 87 then s
  else
    let n := s.rd bLnk F.Lnk.LSTAT.N
    let m := Config.freeNat s.free % 65
    let s1 := s.fresh
    let other := decide (s.rd bLnk F.Lnk.LSTAT.READY = 1 ∧ m < n ∧ m ≠ s.pos)
    if s.isMaster d ∧ !(other && decide (m < s.pos)) then masterRequest d a disarm s1
    else if other then sendTo 0x21 0 m 2 [a, d, b2n disarm] s1
    else s1.raise (bDom d) F.Trs.DSTAT.NOMASTER 0

/-- The requests of the ARM instructions of the cycle that ends; with a host arm request for d in the same cycle there is
one request, the host's (R251). -/
def armTick (d : Nat) (s : State) : State :=
  let rs := (s.dom d).reqs
  if rs = [] then s
  else
    let s1 := s.updDom d (fun x => { x with reqs := [] })
    if (s.dom d).hostArm = some s.cycle then s1 else forL rs (fun a t => armRequest d a false t) s1

/-- The hold-off of d ends (R214, R220). -/
def holdoffOver (d : Nat) (s : State) : State :=
  if s.rd (bDom d) F.Trs.DCFG.REARM = 1 then enterArmed d (s.dom d).inForce s
  else (setDomState d 0 s).updDom d (fun x => { x with hoEnd := none })

/-- What an accepted trigger does to stream i of its domain (R239-R241): a windowed stream opens its window, or restarts
the POST count of a running one; the mark goes to the stream. (DEDUCED, log 80.) -/
def streamTrigger (i d : Nat) (t : Nat) (acc : Nat) (s : State) : State :=
  if !s.strOn i ∨ s.rd (bStr i) F.Trs.S_SCFG.DOM ≠ d then s
  else
    let f := (s.dom d).fired
    let ref := shiftFt t (-s.ofs)
    let k : TrigMark := { src := d + 16 * (match f with | some (c, _) => c | none => 15), arg0 := BitVec.ofNat 64 acc,
                          arg2 := match f with | some (_, r) => r | none => 0#64, ref := stampAt t, hold := s.holdAt ref }
    let mark := fun (kind n : Nat) => offer i (markRec kind k.src k.arg0 (BitVec.ofNat 64 n) k.arg2 k.ref k.hold)
    let pre := s.rd (bStr i) F.Trs.SWIN.PRE
    let post := let p := s.rd (bStr i) F.Trs.SWIN.POST
                if p = 0 then 2 ^ 40 else p
    let m := s.rawMode i
    let cut : RawCut := { ref := ref, ep := s.loads, level := m.level, win := m.win, wno := m.wno }
    if !s.windowed i then mark 1 0 s
    else
      let x := s.strm i
      match x.post with
      | none =>
        format i ((s.updStrm i (fun x => { x with
          cuts := insCut { cut with trig := some k } x.cuts, post := some post, winRaw := 0, wno := x.wno + 1 })).wr
            (bStr i) F.Trs.SSTAT.WINOPEN 1)
      | some _ =>
        let n := min pre x.winRaw
        mark (if n < pre then 2 else 1) n (format i (s.updStrm i (fun x => { x with cuts := insCut cut x.cuts, post := some post })))

/-- TWAITs on d that issued before this accepted trigger take its time (R208). -/
def twaitGot (d : Nat) (w : Word) (s : State) : State :=
  forN 32 (fun k t => match (t.eng k).wait with
    | .twait dst d' dl none => if d' = d then t.updEng k (fun e => { e with wait := .twait dst d dl (some w) }) else t
    | _ => t) s

/-- An accepted trigger with trigger time `t` of an edge that reached the ball at elapsed ft `at_` (R220, R221). A hit of
the same cycle pulls nothing, whichever came first (R251). (DEDUCED, log 80.) -/
def acceptTrigger (d t at_ : Nat) (s0 : State) : State :=
  let s := unfire d s0
  let ho := max 2000 (min 1000000000 (s.rd (bDom d) F.Trs.DCFG.HOLDOFF))
  let s1 := ((s.inc (bDom d) F.Trs.DOBS 1).inc (bDom d) F.Trs.DACC 1).wr (bDom d) F.Trs.DLAST (stampAt t).toNat
  let acc := s1.rd (bDom d) F.Trs.DACC
  let s2 := twaitGot d (stampAt t) s1
  let s3 := forN 64 (fun i u => streamTrigger i d t acc u) s2
  (setDomState d 3 s3).updDom d (fun x => { x with hoEnd := some ((t + ho * 512) % ftMod), hoAt := at_ + ho * 512 })

/-- An ignored trigger (R220, R221, R231). -/
def ignoreTrigger (d t reason : Nat) (s : State) : State :=
  let s1 := (s.inc (bDom d) F.Trs.DOBS 1).inc (bDom d) F.Trs.DIGN 1
  let ign := BitVec.ofNat 64 (s1.rd (bDom d) F.Trs.DIGN)
  forN 64 (fun i u => if u.strOn i ∧ u.rd (bStr i) F.Trs.S_SCFG.DOM = d then
    offer i (markRec 3 (d + 256 * reason) ign 0#64 0#64 (stampAt t) (u.holdAt (shiftFt t (-u.ofs)))) u else u) s1

/-- A falling edge of FIREd_N at `fine` ft of the present cycle (R216, R218, R220). An edge at or after the end of the
hold-off is judged in the state that follows it. (DEDUCED, log 82.) -/
def lineEdge (d fine : Nat) (s : State) : State :=
  if !s.domOn 87 then s
  else
    let tl := s.nowFt + fine
    let s1 := raiseCond 5 (fun dom sel => sel % 4 == d && dom != d) (stampAt tl) s
    if s1.rd (bDom d) F.Trs.DCFG.EN = 0 then s1
    else
      let t := shiftFt tl (s1.ofs - s1.rdInt (bDom d) F.Trs.DLINE.LINEDLY)
      let ovr := s1.domState d == 3 && (match (s1.dom d).hoEnd with | some e => decide (0 ≤ delta e t) | none => true)
      let s2 := if ovr then holdoffOver d s1 else s1
      match s2.domState d with
      | 2 => if 0 ≤ delta ((s2.dom d).inForce * 512) t then acceptTrigger d t (s.eft + fine) s2 else ignoreTrigger d t 1 s2
      | 0 => ignoreTrigger d t 0 s2
      | 1 => ignoreTrigger d t 1 s2
      | _ => ignoreTrigger d t 2 s2

/-- TSWFIRE (R216): one HOST hit on each named condition of kind 6. -/
def opTswfire (mask : Nat) (s : State) : State :=
  forN 16 (fun i u => if mask.testBit i ∧ u.rd (bCond i) F.Trs.TCOND.KIND = 6 then condHit i (stampAt u.nowFt) u else u) s

/-- DCFG has been written, EN having been `was` (R252): giving up EN leaves the domain and discards its pending actions. -/
def dcfgDone (d was : Nat) (s : State) : State :=
  if was = 1 ∧ s.rd (bDom d) F.Trs.DCFG.EN = 0 then
    schedPurge (fun a => (a.act == 2 || a.act == 3) && a.arg == d) (enterDisarmed d s)
  else s

/-- DCTL.ARM (R215, R251). (DEDUCED, log 79.) -/
def opDctlArm (d : Nat) (s : State) : State :=
  armRequest d (s.rd (bDom d) F.Trs.DARM_AT) false (s.updDom d (fun x => { x with hostArm := some s.cycle }))

/-- DCTL.DISARM (R215). -/
def opDctlDisarm (d : Nat) (s : State) : State := armRequest d (s.rd (bDom d) F.Trs.DARM_AT) true s

/-! ### Meanings -/

/-- TSWFIRE (R216). -/
def execTswfire (mask : BitVec 16) (s : State) : Outcome State Fault Refusal :=
  act s (cmdAccess bTrs false false (opTswfire mask.toNat))

/-- DCFG_WRITE (R252): the fields take effect at once. -/
def execDcfgWrite (d : Fin 4) (view : View) (w : Word) (s : State) : Outcome State Fault Refusal :=
  act s (cmdAccess (bDom d + F.Trs.DCFG.EN.off) false false (fun t =>
    dcfgDone d (t.rd (bDom d) F.Trs.DCFG.EN) (liveWrite (bDom d + F.Trs.DCFG.EN.off) view w t)))

/-- DCTL_ARM (R215). -/
def execDctlArm (d : Fin 4) (s : State) : Outcome State Fault Refusal :=
  act s (cmdAccess (bDom d + F.Trs.DCTL.ARM.off) false false (opDctlArm d))

/-- DCTL_DISARM (R215). -/
def execDctlDisarm (d : Fin 4) (s : State) : Outcome State Fault Refusal :=
  act s (cmdAccess (bDom d + F.Trs.DCTL.DISARM.off) false false (opDctlDisarm d))

/-- ARMREQ (R213, R215): a master answers it. -/
def execArmreq (hdr : PktHdr) (d : Fin 4) (a : Nat) (disarm : Bool) (s : State) : Outcome State Fault Refusal :=
  act s (receive hdr 0x21 [a, d, b2n disarm] (fun t => if t.isMaster d then masterRequest d a disarm t else t))

/-- FIRE_PULSE_END (R217). -/
def execFirePulseEnd (d : Fin 4) (s : State) : Outcome State Fault Refusal :=
  act s (fun t => match (t.dom d).pulse with
    | some c =>
      let u := t.updDom d (fun x => { x with pulse := none })
      if t.cycle < c then t else if t.scanOn then u else u.out (.fireRelease d)
    | none => t)

/-- FIRE_LINE_EDGE (R218, R220). -/
def execFireLineEdge (d : Fin 4) (fine : Fin 512) (s : State) : Outcome State Fault Refusal := act s (lineEdge d fine)

/-- HOLDOFF_END (R214, R220): HOLDOFF ns of elapsed time after the accepted edge. -/
def execHoldoffEnd (d : Fin 4) (s : State) : Outcome State Fault Refusal :=
  act s (fun t => match (t.dom d).hoEnd with
    | some _ => if t.domState d = 3 ∧ (t.dom d).hoAt ≤ t.eft then holdoffOver d t else t
    | none => t)

/-- An action of domain d is due in the queue. -/
def State.schedDue (s : State) (kind arg : Nat) : Option Sched :=
  s.lnk.schedQ.find? (fun a => a.act == kind && a.arg == arg && s.reached a.at_)

/-- A HITCH is due whose commit has not yet been taken: it comes before an ARM and a DISARM (R312). -/
def State.hitchDue (s : State) : Bool := s.lnk.schedQ.any (fun a => a.act == 1 && s.reached a.at_)

/-- The conditions of domain d, not ARMED, take a commit that is due before an ARM of the same cycle (R312, R376). -/
def condCommits (d : Nat) (s : State) : State :=
  forN 16 (fun i t => match t.unitSnap (uCond i) with
    | some snap =>
      if t.rd (bCond i) F.Trs.TCOND.DOM = d ∧ t.domState d ≠ 2 then
        unitDone (uCond i) (applyReg snap (bCond i + F.Trs.TCOND.SEL.off) t)
      else t
    | none => t) s

/-- SCHED_ARM (R214, R215, R312): a HITCH and a DISARM due with it act first. -/
def execSchedArm (d : Fin 4) (s : State) : Outcome State Fault Refusal :=
  act s (fun t => match t.schedDue 2 d, t.schedDue 3 d, t.hitchDue with
    | some a, none, false => enterArmed d a.at_ (condCommits d (schedDrop a t))
    | _, _, _ => t)

/-- SCHED_DISARM (R214, R215, R312): a HITCH due with it acts first. -/
def execSchedDisarm (d : Fin 4) (s : State) : Outcome State Fault Refusal :=
  act s (fun t => match t.schedDue 3 d, t.hitchDue with
    | some a, false => enterDisarmed d (schedDrop a t)
    | _, _ => t)

end Sys2Proof.Machine
end

