-- ==== Sys2Proof/Machine/Timebase.lean ====
section
/-! DEFINITION. The timebase (R290-R302): REFIN, holdover and relock, alignment, splice, tracking and epoch ticks. -/

namespace Sys2Proof.Machine

open Host

/-! ### Holdover (R291-R296) -/

def State.tbState (s : State) : Nat := s.rd bTb F.Tb.TBSTAT.STATE
def setTb (st : Nat) (s : State) : State := s.wr bTb F.Tb.TBSTAT.STATE st

/-- Every open RAW record is cut at the start of the present cycle (R227). -/
def cutNow (s : State) : State := cutEvery s.nowFt (fun _ => true) s

/-- The device enters holdover now (R130, R292). -/
def holdIn (s : State) : State := cutNow { s with holdLog := (s.nowFt, none) :: s.holdLog }

/-- The device leaves holdover now. -/
def holdOut (s : State) : State :=
  cutNow { s with holdLog := match s.holdLog with
    | (a, none) :: t => (a, some s.nowFt) :: t
    | l => l }

/-- The compensated IRO frequency (R294): the cubic at the last thermal sample and the learned offset, in 2^-32 ppm.
(DEDUCED, log 139.) -/
def State.iroNow (s : State) : Int := s.tbs.iro + s.rdInt bTb F.Tb.IROCOMP * 2 ^ 32 / 1000

/-- The PLL is frozen at the mean frequency of the last good window in LOCKED (R293). (DEDUCED, log 139.) -/
def freezePll (s : State) : State :=
  s.updTbs (fun x => { x with iroFrz := s.iroNow, held := x.pllFerr * 2 ^ 32 / 1000 })

/-- A loss of REFIN with cause `cause` (1 MISSING, 2 FREQ, 3 HOST) whose HOLDOVER_IN mark has REF `ref` ft (R291, R293,
R319). -/
def refLoss (cause ref : Nat) (s : State) : State :=
  let s1 := ((s.raise bTb F.Tb.TBSTAT.LOSS 0).wr bTb F.Tb.TBSTAT.LOSCAUSE cause).wr bTb F.Tb.TBSTAT.REFOK 0
  let s2 := s1.updTbs (fun x => { x with goodWins := 0, missed := true })
  match s.tbState with
  | 1 =>
    let mark := markRec 0x20 0 0#64 0#64 0#64 (stampAt ref) (holdMeets s.holdLog ref ref || cause == 3)
    let s3 := (setTb 2 s2).inc bTb F.Tb.HOLDINFO.COUNT 1
    let s4 := holdIn (freezePll (s3.updTbs (fun x => { x with holdFrom := s.cycle, stored := 0 })))
    forN 64 (fun i t => if t.rd (bStr i) F.Trs.S_SCFG.DEVMARK = 1 then offer i mark t else t) s4
  | 3 => freezePll ((setTb 2 s2).updTbs (fun x => { x with stored := x.phase }))
  | _ => s2

/-- REFIN_MISSING_EDGE: no REFIN edge for 8 or 64 AONCLK cycles; the last edge came `ago` ns ago (R291). -/
def missingEdge (ago : Nat) (s : State) : State :=
  let limit := if s.rd bTb F.Tb.TBCFG.REFSEL = 1 then 250 else 2000
  if ago < limit then s else refLoss 1 (shiftFt s.nowFt (-((ago * 512 : Nat) : Int))) s

/-- A count of REFIN edges within ±500 ppm (R291). -/
def State.countOk (s : State) (n : Nat) : Bool :=
  if s.rd bTb F.Tb.TBCFG.REFSEL = 1 then decide (204698 ≤ n ∧ n ≤ 204902) else decide (20470 ≤ n ∧ n ≤ 20490)

/-- The learned IRO offset moves (R294): the manual gives its time constant and not its arithmetic, so the new value is
a free value. (DESIGN CHOICE, log 13.) -/
def learnIro (s : State) : State :=
  if s.tbState = 1 ∧ s.rd bTb F.Tb.TBCFG.LEARN = 1 then s.fresh.wr bTb F.Tb.IROCOMP (Config.freeNat s.free) else s

/-- REFIN_WINDOW_END: a counting window of 2^16 AONCLK cycles, 2.048 ms, ends (R291-R294). -/
def windowOver (count : Nat) (ferr : Int) (s : State) : State :=
  let from_ := s.tbs.winFrom
  if s.cycle < from_ + 2048000 then s else
  let s1 := ((s.wr bTb F.Tb.REFMEAS.COUNT count).wrInt bTb F.Tb.REFMEAS.FERR ferr).updTbs (fun x => { x with winFrom := s.cycle })
  if s.countOk count then
    let n := if s.tbs.missed then 0 else s.tbs.goodWins + 1
    let s2 := s1.updTbs (fun x => { x with goodWins := n, missed := false, pllFerr := if s.tbState = 1 then ferr else x.pllFerr })
    learnIro (if 2 ≤ n then s2.wr bTb F.Tb.TBSTAT.REFOK 1 else s2)
  else
    let ago := s.cycle - from_
    (refLoss 2 (shiftFt s.nowFt (-((ago * 512 : Nat) : Int))) s1).updTbs (fun x => { x with missed := false })

/-- The REFIN period in fs (R290, R295). -/
def State.refPer (s : State) : Int := if s.rd bTb F.Tb.TBCFG.REFSEL = 1 then 10000000 else 100000000

/-- FREQUENCY_REACQUIRED: the PLL follows REFIN again; the phase of TBCLK to the REFIN edges has moved by `err` fs since the
loss, and the phase error is that on top of the phase stored at the loss, taken into half a REFIN period on either side
(R295). A loss in SLEW stores what SLEW had yet to remove, since both count as one holdover (R319). (DEDUCED, log 140.) -/
def reacquired (err : Int) (s : State) : State :=
  if s.tbState = 2 ∧ s.rd bTb F.Tb.TBSTAT.REFOK = 1 then
    let p := s.refPer
    (setTb 3 s).updTbs (fun x => { x with phase := (10 * err + x.stored + 5 * p) % (10 * p) - 5 * p })
  else s

/-- One TBCLK cycle of SLEW: the phase error moves toward 0 by TBCFG.SLEW, LIVE, in 0.1 ppm of 1 ns (R295). -/
def slewTick (s : State) : State :=
  if s.tbState = 3 then
    let rate : Int := max 1 (min 1000 (s.rd bTb F.Tb.TBCFG.SLEW))
    s.updTbs (fun x => { x with phase := if 0 ≤ x.phase then max 0 (x.phase - rate) else min 0 (x.phase + rate) })
  else s

/-- SLEW_COMPLETE: the phase error is 0 (R295). -/
def slewDone (s : State) : State :=
  if s.tbState = 3 ∧ s.tbs.phase = 0 then
    let dur := s.cycle - s.tbs.holdFrom
    let s1 := holdOut ((setTb 1 s).wr bTb F.Tb.HOLDINFO.LAST dur)
    devMark 0x21 0 (BitVec.ofNat 64 dur) 0#64 0#64 (stampAt s.nowFt) s1
  else s

/-- FIRST_LOCK: from ACQUIRE or FREERUN (R292, R409). -/
def firstLock (s : State) : State :=
  if (s.tbState = 0 ∨ s.tbState = 4) ∧ s.rd bTb F.Tb.TBSTAT.REFOK = 1 then holdOut (setTb 1 s) else s

/-- FREERUN_TIMEOUT: 100 ms in ACQUIRE without a good REFIN (R292). -/
def freerun (s : State) : State :=
  if s.tbState = 0 ∧ s.rd bTb F.Tb.TBSTAT.REFOK = 0 ∧ 100000000 ≤ s.cycle then setTb 4 s else s

/-- A pending alignment is disarmed (R298). (DEDUCED, log 97.) -/
def alignCancel (s : State) : State :=
  (s.wr bTb F.Tb.TBSTAT.ALIGNPEND 0).updTbs (fun x => { x with loadAt := none })

/-- A write of REFSEL that changes it (R290, R319). (DEDUCED, log 94.) -/
def opRefsel (v : Bool) (s : State) : State :=
  if s.rd bTb F.Tb.TBCFG.REFSEL = b2n v then s
  else
    let s1 := refLoss 3 s.nowFt (s.wr bTb F.Tb.TBCFG.REFSEL (b2n v))
    alignCancel (s1.updTbs (fun x => { x with winFrom := s.cycle, missed := false }))

/-! ### Alignment and splice (R298-R302) -/

/-- TBCTL.ALIGN, or a scheduled ALIGN: armed (R298). -/
def opAlign (s : State) : State :=
  if s.rd bTb F.Tb.TBSTAT.ALIGNPEND = 1 then s else s.wr bTb F.Tb.TBSTAT.ALIGNPEND 1

/-- TBCTL.SPLICE: the next TSYNC edge is edge 0; while edges are being taken it is ignored (R300, R319). -/
def opSplice (s : State) : State :=
  match s.tbs.splice with
  | some x => if x.ds = [] then s else s.wr bTb F.Tb.SPLSTAT.RESULT 3
  | none => s.updTbs (fun x => { x with splice := some { base := none, ds := [], hold := false } })

/-- TSPER in counts of 1 ns (TSCFG). (DEDUCED, log 95.) -/
def State.tsPer (s : State) : Nat := 1000 * max 100 (min 1000000 (s.rd bTb F.Tb.TSCFG.TSPER))

/-- Edges of a splice. -/
def State.splEdges (s : State) : Nat := 2 ^ min 8 (s.rd bTb F.Tb.TSCFG.AVG_LOG2)

/-- A splice has all its edges (R299, R300): within TOL it succeeds at the next epoch tick, else RESULT is ERR.
(DEDUCED, log 96.) -/
def spliceEnd (x : Splice) (base : Nat) (s : State) : State :=
  let d0 := x.ds.getLast?.getD 0
  let tol : Int := s.rd bTb F.Tb.TSCFG.TOL
  let s1 := (s.updTbs (fun y => { y with splice := none })).wr bTb F.Tb.SPLSTAT.SPLHOLD (b2n x.hold)
  if x.ds.any (fun d => decide (tol < d - d0 ∨ tol < d0 - d)) then s1.wr bTb F.Tb.SPLSTAT.RESULT 2
  else
    let mean := roundDiv (x.ds.foldl (· + ·) 0) x.ds.length
    s1.updTbs (fun y => { y with newOfs := some (s.rdInt bTb F.Tb.TSCFG.TSDLY - mean, base) })

/-- One TSYNC edge of a running splice, stamped at `t` ft, in holdover or not (R300). (DEDUCED, log 95.) -/
def spliceEdge (x : Splice) (t : Nat) (hold : Bool) (s : State) : State :=
  let base := x.base.getD (t / ftPerNs)
  let d := delta (512 * (base + x.ds.length * s.tsPer)) t
  let y : Splice := { base := some base, ds := d :: x.ds, hold := x.hold || hold }
  if s.splEdges ≤ y.ds.length then spliceEnd y base s else s.updTbs (fun z => { z with splice := some y })

/-- A TSYNC edge after a splice, stamped at `t` ft: DEV, SLIP and the TRACK step (R302). -/
def spliceTrack (base t : Nat) (s : State) : State :=
  let dly := s.rdInt bTb F.Tb.TSCFG.TSDLY
  let dp := dly - s.ofs
  let per : Int := (512 * s.tsPer : Nat)
  let x := delta (512 * base) t
  let d := x - per * roundDiv (x - dp) per
  let dev := d - dp
  let s1 := s.wrInt bTb F.Tb.SPLSTAT.DEV dev
  if (s.rd bTb F.Tb.TSCFG.TOL : Int) < dev ∨ dev < -(s.rd bTb F.Tb.TSCFG.TOL : Int) then s1.raise bTb F.Tb.SPLSTAT.SLIP 0
  else if s.rd bTb F.Tb.TSCFG.TRACK = 1 then
    s1.updTbs (fun y => { y with track := if s.ofs < dly - d then 1 else if dly - d < s.ofs then -1 else 0 })
  else s1

/-- TSYNC_EDGE: a rising edge of TSYNC at `fine` ft of the present cycle is stamped; after a splice its deviation is judged;
and it is the aligning edge, or an edge of a running splice (R298, R300, R302). (DEDUCED, log 98.) -/
def tsyncEdge (fine : Nat) (s : State) : State :=
  let t := s.nowFt + fine
  let s1 := s.setReg (bTb + F.Tb.TSLAST.off) (stampAt t ||| 1#64)
  let s2 := match s.tbs.base with
    | some b => spliceTrack b t s1
    | none => s1
  if s.rd bTb F.Tb.TBSTAT.ALIGNPEND = 1 ∧ s.tbs.loadAt = none then
    s2.updTbs (fun x => { x with loadAt := some ((s.coarse + 64) % coarseMod, fine, s.holdover) })
  else match s.tbs.splice with
    | some x => spliceEdge x t s.holdover s2
    | none => s2

/-- What moves with the scale when OFS changes or the count is loaded: the ends of the hold-offs (R220). -/
def shiftHoldoffs (d : Int) (s : State) : State :=
  forN 4 (fun i t => t.updDom i (fun x => { x with hoEnd := x.hoEnd.map (fun e => shiftFt e d) })) s

/-- The gate that an ARM stamp from before the load would open, and the load close, where slot j waits for one (R103,
R108). -/
def State.armWait (s : State) (k j : Nat) : Option Fin_ :=
  let x := s.slot k j
  let m := s.mcfg k j
  let f : Fin_ := { o := s.nowFt, c := s.nowFt, gen := x.gen, ep := s.loads, armFrom := x.armFrom, prev := x.lastC,
                    readyAt := 0, str := false, epj := true, scfg := m.scfg, gcfg := m.gcfg, param := m.param,
                    limMin := m.limMin, limMax := m.limMax }
  if x.armReady then some f else none

/-- The open gates close and the open RAW records are cut at the load boundary, on the old scale (R108, R130, R227). The
last close of each slot moves with the scale by `d` ft. -/
def closeOld (newCount : Nat) (d : Int) (s : State) : State :=
  let s1 := forL (s.slots.map (·.1)) (fun i t =>
    let k := i / 64
    let j := i % 64
    let old := t.armWait k j
    let was := (t.slot k j).lastC
    let t1 := closeGate k j s.nowFt true (newCount * ftPerNs) t
    t1.updSlot k j (fun x =>
      { newGen false false (t1.reg (bSlot k j)) s.loads { x with armOld := old } with
        armFrom := newCount * ftPerNs
        lastC := if (t.slot k j).opn.isSome then x.lastC else was.map (fun c => shiftFt c d) })) s
  cutNow s1

/-- What is kept in local time and goes on across a load: echoes still expected, spans of holdover. (DEDUCED, log 69.) -/
def moveScale (d : Int) (s1 : State) : State :=
  let s2 := forL (s1.chans.map (·.1)) (fun g t =>
    t.updChan g (fun c => { c with echoes := c.echoes.map (fun e =>
      if 0 ≤ delta s1.nowFt e.x then { e with x := shiftFt e.x d, cand := e.cand.map (fun p => (shiftFt p.1 d, p.2)) } else e) })) s1
  shiftHoldoffs d { s2 with holdLog := s2.holdLog.map (fun p => (shiftFt p.1 d, p.2.map (fun e => shiftFt e d))) }

/-- COARSE_LOAD: at old cycle c_s + 64 every skein takes EPLOAD + 64, and the splice begins with the aligning edge
(R51, R298, R300). (DEDUCED, log 69.) -/
def coarseLoad (s : State) : State :=
  match s.tbs.loadAt with
  | none => s
  | some (at_, fine, hold) =>
    if !s.reached at_ then s
    else
      let late := (s.coarse + coarseMod - at_) % coarseMod
      let ep := s.rd bTb F.Tb.EPLOAD
      let new := (ep + 64 + late) % coarseMod
      let d := delta s.nowFt (new * ftPerNs)
      let s1 := moveScale d (closeOld new d s)
      let s2 : State := { s1 with coarse := new, tbs := { s1.tbs with shifts := s1.tbs.shifts ++ [d] } }
      let s3 := ((s2.wr bTb F.Tb.EPNUM (s.rd bTb F.Tb.EPNEXT)).wr bTb F.Tb.TBSTAT.ALIGNED 1).wr bTb F.Tb.TBSTAT.ALIGNPEND 0
      let s4 := s3.updTbs (fun x => { x with loadAt := none, base := none, newOfs := none, track := 0, splice := none })
      let s5 := keyframeAll (stampAt (new * ftPerNs)) s4
      spliceEdge { base := some ep, ds := [], hold := false } (ep * ftPerNs + fine) hold s5

/-- A new OFS takes effect (R220, R232, R299). -/
def setOfs (v : Int) (s : State) : State :=
  let s1 := shiftHoldoffs (v - s.ofs) (s.wrInt bTb F.Tb.SPLOFS v)
  keyframeAll (stampAt s.nowFt) s1

/-- EPOCH_TICK: in a cycle whose count is a multiple of 1,000 TSCFG takes its staged copy, and a splice's OFS or a TRACK
step applies, as does a PLL correction (R297, R300, R302, R319, R333). (DEDUCED, log 96.) -/
def epochTick (s : State) : State :=
  if s.coarse % 1000 ≠ 0 then s
  else
    let s1 := match s.unitSnap .tb with
      | some snap => unitDone .tb (applyReg snap (bTb + F.Tb.TSCFG.TOL.off) s)
      | none => s
    let s2 := match s1.tbs.newOfs with
      | some (v, b) =>
        setOfs v (((s1.updTbs (fun x => { x with newOfs := none, track := 0, base := some b })).wr bTb F.Tb.SPLSTAT.RESULT 1).inc
          bTb F.Tb.SPLSTAT.SPLSEQ 1)
      | none => if s1.tbs.track = 0 then s1 else setOfs (s1.ofs + s1.tbs.track) (s1.updTbs (fun x => { x with track := 0 }))
    match s2.tbs.pllNext with
    | some c => devMark 0x30 0xffff 7#64 (s2.tbs.pllCode.zeroExtend 64) (c.zeroExtend 64) (stampAt s.nowFt)
        (s2.updTbs (fun x => { x with pllNext := none, pllCode := c }))
    | none => s2

/-! ### Meanings -/

/-- REFIN_MISSING_EDGE (R291). -/
def execRefinMissingEdge (ago : Nat) (s : State) : Outcome State Fault Refusal := act s (missingEdge ago)

/-- REFIN_WINDOW_END (R291). -/
def execRefinWindowEnd (count : Nat) (ferr : Int) (s : State) : Outcome State Fault Refusal := act s (windowOver count ferr)

/-- FREQUENCY_REACQUIRED (R295). -/
def execFrequencyReacquired (err : Int) (s : State) : Outcome State Fault Refusal := act s (reacquired err)

/-- SLEW_COMPLETE (R295). -/
def execSlewComplete (s : State) : Outcome State Fault Refusal := act s slewDone

/-- FIRST_LOCK (R409). -/
def execFirstLock (s : State) : Outcome State Fault Refusal := act s firstLock

/-- FREERUN_TIMEOUT (R292). -/
def execFreerunTimeout (s : State) : Outcome State Fault Refusal := act s freerun

/-- REFSEL_WRITE (R290). -/
def execRefselWrite (v : Bool) (s : State) : Outcome State Fault Refusal :=
  act s (cmdAccess (bTb + 0x8) (decide (s.rd bTb F.Tb.TBCFG.REFSEL ≠ b2n v)) false (opRefsel v))

/-- TBCTL_ALIGN (R298). -/
def execTbctlAlign (s : State) : Outcome State Fault Refusal := act s (cmdAccess bTb false false opAlign)

/-- TBCTL_ALIGNCAN (R298). -/
def execTbctlAligncan (s : State) : Outcome State Fault Refusal := act s (cmdAccess bTb false false alignCancel)

/-- TBCTL_SPLICE (R300, R319). -/
def execTbctlSplice (s : State) : Outcome State Fault Refusal := act s (cmdAccess bTb false false opSplice)

/-- TSYNC_EDGE (R298, R300, R302). (DEDUCED, log 98.) -/
def execTsyncEdge (fine : Fin 512) (s : State) : Outcome State Fault Refusal := act s (tsyncEdge fine)

/-- COARSE_LOAD (R298). -/
def execCoarseLoad (s : State) : Outcome State Fault Refusal := act s coarseLoad

/-- EPOCH_TICK (R297). -/
def execEpochTick (s : State) : Outcome State Fault Refusal := act s epochTick

end Sys2Proof.Machine
end

