-- ==== Sys2Proof/Machine/Lane.lean ====
section
/-! DEFINITION. The lane and predicate instructions (R140, R141, R160, R171-R173). -/

namespace Sys2Proof.Machine

open Host

/-- A register field that names an l or p register is below 8 (R157). -/
def lp (r : BitVec 4) : Bool := decide (r.toNat < 8)

/-- The selected lanes of l d written (R160). -/
def setLanes (k d : Nat) (m : Nat) (f : Nat → Word) (s : State) : State :=
  forL (lanesOf m) (fun i t => setLane k d i (f i) t) s

/-- A lane result: the selected lanes of ld are written, the next instruction issues in the next cycle. -/
def laneDone (k d m : Nat) (f : Nat → Word) (s : State) : State :=
  advance k 1 (readyNow k [.l d] (setLanes k d m f s))

/-- A predicate result: pd is written in all 16 lanes, 0 outside the selection (R160). -/
def predDone (k d v : Nat) (s : State) : State := advance k 1 (readyNow k [.p d] (setP k d v s))

/-- Source b of LADD and LSUB in lane i: lb[i], or the immediate in every lane. -/
def laneB (s : State) (k : Nat) (o : TymOps) (i : Nat) : Word :=
  if o.form then immS 40 o.imm else s.lane k o.srcb.toNat i

/-- The legality of LADD and LSUB. -/
def laneLegal (o : TymOps) : Bool :=
  lp o.dst && lp o.srca && (if o.form then o.srcb == 0#4 else lp o.srcb && immOnly o 0)

/-- The legality of LSEL, LCMP and PAND. -/
def lselLegal (o : TymOps) : Bool := lp o.dst && lp o.srca && lp o.srcb && immOnly o 0
def lcmpLegal (o : TymOps) : Bool :=
  lp o.dst && lp o.srca && (if o.form then o.srcb == 0#4 else lp o.srcb && immOnly o (7 * 2 ^ 37))
def pandLegal (o : TymOps) : Bool := lp o.dst && lp o.srca && lp o.srcb && immOnly o 3

/-- The l registers they read. -/
def laneReads (o : TymOps) : List Dst := .l o.srca.toNat :: (if o.form then [] else [.l o.srcb.toNat])

/-- LADD (R171). -/
def execTymLadd (k : Fin 32) (o : TymOps) (s : State) : Outcome State Fault Refusal :=
  act s (tymStep k (twoForm o 0x76#8) o (laneReads o) (laneLegal o) false (s.laneCondOk k o.cond) false
    (laneDone k o.dst.toNat (s.sel k o.cond) (fun i => s.lane k o.srca.toNat i + laneB s k o i)))

/-- LSUB (R171). -/
def execTymLsub (k : Fin 32) (o : TymOps) (s : State) : Outcome State Fault Refusal :=
  act s (tymStep k (twoForm o 0x78#8) o (laneReads o) (laneLegal o) false (s.laneCondOk k o.cond) false
    (laneDone k o.dst.toNat (s.sel k o.cond) (fun i => s.lane k o.srca.toNat i - laneB s k o i)))

/-- LSEL (R171): every ACTIVE lane, la where the predicate selects it, else lb. -/
def execTymLsel (k : Fin 32) (o : TymOps) (s : State) : Outcome State Fault Refusal :=
  act s (tymStep k 0x7a#8 o [.l o.srca.toNat, .l o.srcb.toNat] (lselLegal o) false
    (s.laneCondOk k o.cond) false
    (laneDone k o.dst.toNat (s.active k) (fun i =>
      if (s.sel k o.cond).testBit i then s.lane k o.srca.toNat i else s.lane k o.srcb.toNat i)))

/-- The LCMP kinds (R171). -/
def laneCmp (kind : Nat) (a b : Word) : Bool :=
  match kind with
  | 0 => a == b
  | 1 => a != b
  | 2 => decide (a.toInt < b.toInt)
  | 3 => decide (b.toInt ≤ a.toInt)
  | 4 => decide (a.toNat < b.toNat)
  | 5 => decide (b.toNat ≤ a.toNat)
  | 6 => decide (b.toInt < a.toInt)
  | _ => decide (b.toNat < a.toNat)

/-- The bits of lanes in a mask for which a test holds. -/
def laneMask (m : Nat) (f : Nat → Bool) : Nat := ((lanesOf m).map (fun i => if f i then 2 ^ i else 0)).sum

/-- LCMP (R171): the kind stands in IMM[39:37], the immediate in IMM[36:0]. -/
def execTymLcmp (k : Fin 32) (o : TymOps) (s : State) : Outcome State Fault Refusal :=
  act s (tymStep k (twoForm o 0x7b#8) o (laneReads o)
    (lcmpLegal o) false
    (s.laneCondOk k o.cond) false
    (predDone k o.dst.toNat (laneMask (s.sel k o.cond) (fun i =>
      laneCmp (immF o 39 37) (s.lane k o.srca.toNat i) (if o.form then immS 37 o.imm else s.lane k o.srcb.toNat i)))))

/-- The bits each LMOV mode names, and its register fields (R172). -/
def lmovLegal (o : TymOps) : Bool :=
  o.srcb == 0#4 &&
  (match immF o 3 0 with
   | 0 => lp o.dst && lp o.srca && immOnly o 0xf
   | 1 => lp o.dst && immOnly o 0xf
   | 2 => lp o.srca && immOnly o 0xff
   | 3 => lp o.dst && o.srca == 0#4 && immOnly o 0xf
   | 4 => lp o.dst && o.srca == 0#4 && immOnly o 0xf
   | 5 => lp o.dst && o.srca == 0#4 && immOnly o (0xffffffff * 2 ^ 8 + 0xf)
   | 6 => lp o.srca && immOnly o 0xf
   | 7 => lp o.dst && immOnly o 0xff
   | _ => false)

/-- The registers an LMOV mode reads. -/
def lmovReads (o : TymOps) : List Dst :=
  match immF o 3 0 with
  | 0 => [.l o.srca.toNat] | 1 => [.g o.srca.toNat] | 2 => [.l o.srca.toNat] | 6 => [.p o.srca.toNat]
  | 7 => [.g o.srca.toNat] | _ => []

/-- LMOV (R172). Modes 2 and 6 write a g register and are gated as a whole. -/
def lmov (k : Nat) (o : TymOps) (s t : State) : State :=
  let d := o.dst.toNat
  let a := o.srca.toNat
  let m := s.sel k o.cond
  let i := immF o 7 4
  let gDone := fun (r : Word) => advance k 1 (readyNow k [.g d] (setG k d r t))
  match immF o 3 0 with
  | 0 => laneDone k d m (fun i => s.lane k a i) t
  | 1 => laneDone k d m (fun _ => s.g k a) t
  | 2 => gDone (s.lane k a i)
  | 3 => laneDone k d m (fun i => BitVec.ofNat 64 i) t
  | 4 => laneDone k d m (fun i => BitVec.ofNat 64 (atD (s.eng k).site i 0 % 512)) t
  | 5 => laneDone k d m (fun _ => BitVec.ofInt 64 (toSigned 32 (immF o 39 8))) t
  | 6 => gDone (BitVec.ofNat 64 (s.p k a))
  | _ => laneDone k d (m &&& 2 ^ i) (fun _ => s.g k a) t

/-- LMOV (R172). -/
def execTymLmov (k : Fin 32) (o : TymOps) (s : State) : Outcome State Fault Refusal :=
  act s (tymStep k 0x7d#8 o (lmovReads o) (lmovLegal o) false
    (if immF o 3 0 = 2 ∨ immF o 3 0 = 6 then s.condOk k o.cond else s.laneCondOk k o.cond) false (lmov k o s))

/-- The value of each PSET mode before the selection (R173). -/
def psetVal (s : State) (k : Nat) (o : TymOps) : Nat :=
  let site := fun i => atD (s.eng k).site i 0
  match immF o 3 0 with
  | 0 => immF o 31 16
  | 1 => laneMask 0xffff (fun i => site i / 2 ^ 16 % 16 == immF o 19 16)
  | 2 => laneMask 0xffff (fun i => site i % 512 == (s.g k o.srca.toNat).toNat % 512)
  | 3 => (s.g k o.srca.toNat).toNat % 2 ^ 16
  | _ => s.rd (bSk k) F.Sk.FAILLAT.LATCH

/-- The bits each PSET mode names (R173). -/
def psetLegal (o : TymOps) : Bool :=
  lp o.dst && o.srcb == 0#4 &&
  (match immF o 3 0 with
   | 0 => o.srca == 0#4 && immOnly o 0xffff000f
   | 1 => o.srca == 0#4 && immOnly o 0xf000f
   | 2 => immOnly o 0xf
   | 3 => immOnly o 0xf
   | 4 => o.srca == 0#4 && immOnly o 0xf
   | _ => false)

/-- PSET (R173). -/
def execTymPset (k : Fin 32) (o : TymOps) (s : State) : Outcome State Fault Refusal :=
  act s (tymStep k 0x7e#8 o (if immF o 3 0 = 2 ∨ immF o 3 0 = 3 then [.g o.srca.toNat] else []) (psetLegal o) false
    (s.laneCondOk k o.cond) false (predDone k o.dst.toNat (psetVal s k o &&& s.sel k o.cond)))

/-- The PAND operations (R171). -/
def pandVal (op a b : Nat) : Nat :=
  match op with
  | 0 => a &&& b
  | 1 => a ||| b
  | 2 => a &&& (0xffff ^^^ b)
  | _ => a ^^^ b

/-- PAND (R171). -/
def execTymPand (k : Fin 32) (o : TymOps) (s : State) : Outcome State Fault Refusal :=
  act s (tymStep k 0x7f#8 o [.p o.srca.toNat, .p o.srcb.toNat] (pandLegal o) false
    (s.laneCondOk k o.cond) false
    (predDone k o.dst.toNat (pandVal (immF o 1 0) (s.p k o.srca.toNat) (s.p k o.srcb.toNat) &&& s.sel k o.cond)))

end Sys2Proof.Machine
end

