-- ==== Sys2Proof/Machine/Vector.lean ====
section
/-! DEFINITION. The vector unit (R178-R199): the queue and the FIFO, line requests and arrivals, runs, the issue of
vectors, items, and the vector instructions. -/

namespace Sys2Proof.Machine

open Host

/-! ### The queue and the FIFO (R178-R186) -/

/-- VQ_LEVEL and FIFO_LEVEL follow the queue and the FIFO. -/
def levelsUpd (k : Nat) (s : State) : State :=
  let v := s.vu k
  (s.wr (bSk k) F.Sk.VSTAT.VQ_LEVEL v.vq.length).wr (bSk k) F.Sk.VSTAT.FIFO_LEVEL
    (v.fifo.filter (fun e => e.vec.isSome)).length

/-- An entry enters the vector queue. -/
def vqPush (k : Nat) (e : VQE) (s : State) : State := levelsUpd k (s.updVu k (fun v => { v with vq := v.vq ++ [e] }))

/-- The queue holds 16 entries; an item also stalls while 512 items are attached (R184, R210). -/
def State.vqStall (s : State) (k : Nat) (item : Bool) : Bool :=
  decide (16 ≤ (s.vu k).vq.length) || (item && decide (512 ≤ (s.vu k).items.length))

/-- The vectors a queue entry still supplies. -/
def VQE.count : VQE → Nat
  | .seg _ n _ => n
  | .veci _ => 1
  | .item _ => 0

/-- The vectors queued and not yet placed in the FIFO. -/
def VU.queued (v : VU) : Nat := (v.vq.map VQE.count).sum

/-- Vector bits [79:0] from ten bytes (R180). -/
def vecOf (n : Nat) : Vec :=
  { eor := n.testBit 79, ftrg := n.testBit 78, nolatch := n.testBit 77, tsi := n / 2 ^ 64 % 64,
    state := BitVec.ofNat 64 n }

/-- The vector at position p of a line (R179). -/
def lineVec (bytes : List Byte) (p : Nat) : Vec := vecOf (leNat ((bytes.drop (8 + 10 * p)).take 10))

/-- One bit step of the reflected CRC-32 (R181). -/
def crcBit (c : BitVec 32) : BitVec 32 := if c.getLsbD 0 then (c >>> 1) ^^^ 0xedb88320#32 else c >>> 1

/-- Eight bit steps. -/
def crcByte (c : BitVec 32) (b : Byte) : BitVec 32 :=
  crcBit (crcBit (crcBit (crcBit (crcBit (crcBit (crcBit (crcBit (c ^^^ b.setWidth 32))))))))

/-- The CRC-32 of IEEE 802.3 (R181). -/
def crc32 (bytes : List Byte) : BitVec 32 := bytes.foldl crcByte 0xffffffff#32 ^^^ 0xffffffff#32

/-- A line passes the check of R181. -/
def lineGood (lineNo : Nat) (bytes : List Byte) : Bool :=
  decide (leNat (bytes.take 4) = lineNo % 2 ^ 32) &&
  decide (leNat ((bytes.drop 4).take 4) = (crc32 (bytes.take 4 ++ bytes.drop 8)).toNat)

/-- VQ_ITEM_ATTACH: an item at the head of the queue leaves it for the FIFO position behind the last vector placed
there; a VECI vector takes its place in the FIFO (R184). -/
def vqAttach (k : Nat) (s : State) : State :=
  let v := s.vu k
  match v.vq with
  | .item it :: t =>
    if 512 ≤ v.items.length then s
    else levelsUpd k (s.setVu k { v with vq := t, items := v.items ++ [(v.placed, it)] })
  | .veci w :: t =>
    if 4096 ≤ v.fifo.length then s
    else levelsUpd k (s.setVu k { v with vq := t, placed := v.placed + 1,
                                          fifo := v.fifo ++ [{ line := none, pos := 0, vec := some w, bad := false,
                                                               at_ := none }] })
  | _ => s

/-- VECTOR_LINE_REQUEST: the next line of the segment at the head of the queue is requested from vector-read port k;
its vectors of the segment take their FIFO positions; a segment whose last line has been requested leaves the queue
(R178, R184, R186). -/
def lineRequest (k : Nat) (s : State) : State :=
  let v := s.vu k
  match v.vq with
  | .seg a n at_ :: t =>
    if 4096 < v.fifo.length + 12 then s
    else
      let l := a / 12
      let m := min n (min (12 - a % 12) (2 ^ 40 - a))
      let req := v.reqNo
      let ents := (List.range m).map (fun i =>
        ({ line := some req, pos := a % 12 + i, vec := none, bad := false, at_ := at_ } : FEnt))
      let rest := if n ≤ m then t else .seg ((a + m) % 2 ^ 40) (n - m) at_ :: t
      let s1 := s.setVu k { v with vq := rest, fifo := v.fifo ++ ents, placed := v.placed + m, reqNo := req + 1,
                                    lines := v.lines ++ [{ req := req, lineNo := l, data := none }] }
      levelsUpd k (portReq k (s.rd (bSk k) F.Sk.VCFG.VBASE * 128 + 128 * l) 128 none (.vectorLine k req) s1)
  | _ => s

/-- VECTOR_LINE_ARRIVAL: a line whose read has completed is checked and its vectors are present from now on; a line
that fails the check is kept, marked bad (R181). -/
def lineArrival (k : Nat) (s : State) : State :=
  let v := s.vu k
  match v.lines.find? (fun l => l.data.isSome) with
  | some { req := req, lineNo := no, data := some bytes } =>
    let bad := !lineGood no bytes
    levelsUpd k (s.setVu k { v with
      lines := v.lines.filter (fun l => l.req != req),
      fifo := v.fifo.map (fun e =>
        if e.line = some req then { e with line := none, vec := some (lineVec bytes e.pos), bad := bad } else e) })
  | _ => s

/-! ### Boundaries of staged fields (R95, R376) -/

/-- EPCFG of channel g takes its staged copy: a changed DSK_SLEW restarts the window count and discards the sums
(R95); a TRK_EN of 1 begins ECHO_LOCK anew (R92). -/
def applyEcho (snap : Table Word) (g : Nat) (s : State) : State :=
  let old := s.rd (bCh g) F.Ch.EPCFG.DSK_SLEW
  let s0 := applyReg snap (bCh g + F.Ch.EPCFG.DSK_SLEW.off) s
  let s1 := if s0.rd (bCh g) F.Ch.EPCFG.TRK_EN = 1 then echoAnew g s0 else s0
  if s1.rd (bCh g) F.Ch.EPCFG.DSK_SLEW = old then s1
  else s1.updChan g (fun c => { c with vecN := 0, sumR := 0, cntR := 0, sumF := 0, cntF := 0 })

/-- EPSK of skein k takes its staged copy. -/
def applyEpsk (snap : Table Word) (k : Nat) (s : State) : State := applyReg snap (bSk k + F.Sk.EPSK.PER_SEL.off) s

/-- The commits that wait for a vector boundary of skein k apply. -/
def applyAtVector (k : Nat) (s : State) : State :=
  let s1 := forN 16 (fun c t =>
    match t.unitSnap (uEcho (16 * k + c)) with
    | some snap => unitDone (uEcho (16 * k + c)) (applyEcho snap (16 * k + c) t)
    | none => t) s
  match s1.unitSnap (uEpsk k) with
  | some snap => unitDone (uEpsk k) (applyEpsk snap k s1)
  | none => s1

/-! ### Items (R185, R193-R195, R199, R202, R206) -/

/-- The channels of skein k that are parked: a valid latched site-table entry whose site is disabled (R183).
(DEDUCED, log 58.) -/
def State.parkMask (s : State) (k : Nat) : Nat :=
  ((s.eng k).site.zipIdx.map (fun p =>
    let site := p.1 % 512
    if p.1.testBit 31 ∧ !(s.tw (tSiteEn + 4 * (site / 32))).toNat.testBit (site % 32) then 2 ^ p.2 else 0)).sum

/-- A USER mark of engine k with reference instant `at_`, elapsed ft, not later than the present cycle (R223, R231). -/
def userMark (k stream code : Nat) (payload : Word) (at_ : Nat) (s : State) : State :=
  let t := s.toLocal at_
  let hold := if s.eft ≤ at_ then s.holdover else s.holdAt t
  offer stream (markRec 0x0100 code payload (BitVec.ofNat 64 k) 0#64 (stampAt t) hold) s

/-- A pulse of engine k's FIRE source (R206, R216). -/
def fireSource (k : Nat) (ref : Word) (s : State) : State := raiseCond 4 (fun _ sel => sel.testBit k) ref s

/-- LEVEL on channel g at elapsed ft `at_`: no effect in safe state; staged fields that wait for the levels boundary
apply first, then the DACs load (R22, R23, R44, R195). -/
def levelItem (g n at_ : Nat) (s : State) : State :=
  if (s.chan g).safe then s
  else
    let s1 := match s.unitSnap (uLevels g) with
      | some snap => unitDone (uLevels g) (applyLevels snap g at_ s)
      | none => s
    loadDacs g n at_ s1

/-- FAILM CLR on channel g (R199): the latch bit and FIRSTFAIL clear, and the judgements still pending record nothing
more on this lane. -/
def failClr (g : Nat) (s : State) : State :=
  let b := bSk (g / 16) + 8 * (g % 16)
  let s1 := ((s.setBit (bSk (g / 16)) F.Sk.FAILLAT.LATCH (g % 16) false).wr b F.Sk.FIRSTFAIL.VALID 0).wr b
    F.Sk.FIRSTFAIL.VEC 0
  s1.updChan g (fun c => { c with cmps := c.cmps.map (fun m => { m with cleared := true }) })

/-- What a vector brings to pins, gates and streams at its S, elapsed ft `at_` (R44, R185). -/
def actAtS (k at_ : Nat) (a : SAct) (s : State) : State :=
  match a with
  | .release => forN 16 (fun c t => if (t.chan (16 * k + c)).rel then leaveSafe (16 * k + c) t else t) s
  | .level mask sets => forL (lanesOf mask) (fun i t => levelItem (16 * k + i) (atD sets i 0) at_ t) s
  | .gate mask op => gateItem k mask op (s.toLocal at_) s
  | .mark stream code payload => userMark k stream code payload at_ s

/-- Something waits for the S of the vector that issues. -/
def pushS (k at_ : Nat) (a : SAct) (s : State) : State := s.updVu k (fun v => { v with atS := v.atS ++ [(at_, a)] })

/-- What waits for an S is due in the cycle that begins: a release or a LEVEL in the cycle of its S; a GATE once that
cycle is over, so that an MCLR of the same cycle comes first (R211). -/
def State.sDue (s : State) (x : Nat × SAct) : Bool :=
  match x.2 with
  | .gate _ _ => decide (x.1 / ftPerNs < s.cycle)
  | _ => decide (x.1 / ftPerNs ≤ s.cycle)

/-- One TBCLK cycle has begun: what waits for an S and is due takes effect, oldest first (R77, R185). -/
def dueTick (k : Nat) (s : State) : State :=
  let due := (s.vu k).atS.filter s.sDue
  if due.isEmpty then s
  else forL due (fun x t => actAtS k x.1 x.2 t) (s.updVu k (fun v => { v with atS := v.atS.filter (fun x => !s.sDue x) }))

/-- An item of engine k is applied (R185), `hold` telling what becomes of its action on pins, gates and streams. A
FIRE takes effect at once, with the instant `at_`, elapsed ft, as its reference. Lanes that are parked see nothing of it
(R183, R211). (DEDUCED, log 57.) (DEDUCED, log 58.) -/
def applyItem (k at_ : Nat) (hold : SAct → State → State) (it : Item) (s : State) : State :=
  let free := 0xffff - (s.parkMask k &&& 0xffff)
  match it with
  | .vsub mask lanes =>
    forL (lanesOf (mask &&& free)) (fun i t =>
      t.updChan (16 * k + i) (fun c => { c with sub := atD lanes i 0#64, subPtr := 0 })) s
  | .tset i =>
    if s.leader k = k then forL (s.members k) (fun j t => t.updVu j (fun v => { v with perIdx := i })) s
    else s.raise (bSk k) F.Sk.VSTAT.TSETIGN 0
  | .level mask sets => hold (.level (mask &&& free) sets) s
  | .failm clr sel pa mode =>
    let s1 := if mode = 0 ∨ mode = 2 then forL (lanesOf (clr &&& free)) (fun i t => failClr (16 * k + i) t) s else s
    if mode = 1 ∨ mode = 2 then
      forL (lanesOf (sel &&& free)) (fun i t => t.setBit (bSk k) F.Sk.FAILLAT.MASK i (pa.testBit i)) s1
    else s1
  | .gate mask op => hold (.gate mask op) s
  | .mark stream code payload => hold (.mark stream code payload) s
  | .fire => fireSource k (stampAt (s.toLocal at_)) s

/-- The attached items of engine k that satisfy the test are applied in queue order. -/
def applyItems (k at_ : Nat) (hold : SAct → State → State) (p : Nat → Bool) (s : State) : State :=
  let due := (s.vu k).items.filter (fun x => p x.1)
  let s1 := s.updVu k (fun v => { v with items := v.items.filter (fun x => !p x.1) })
  forL due (fun x t => applyItem k at_ hold x.2 t) s1

/-- The items still pending after HALT take effect, attached or still queued, in queue order (R185).
A GATE among them acts once the present cycle is over (R211). (DEDUCED, log 59.) -/
def flushItems (k at_ : Nat) (s : State) : State :=
  let q := (s.vu k).vq.filterMap (fun e => match e with | .item it => some it | _ => none)
  let now := fun a => match a with | .gate m op => pushS k at_ (.gate m op) | a => actAtS k at_ a
  let s1 := applyItems k at_ now (fun _ => true) s
  levelsUpd k (forL q (applyItem k at_ now) (s1.updVu k (fun v => { v with vq := [] })))

/-! ### Runs and issue (R76-R79, R182, R183, R187-R189) -/

/-- No vector of engine k is left to issue. -/
def State.vectorsGone (s : State) (k : Nat) : Bool := (s.vu k).fifo.isEmpty && decide ((s.vu k).queued = 0)

/-- The present vectors from the head of the FIFO up to the first position whose line is in flight (R187). -/
def VU.avail (v : VU) : List FEnt := v.fifo.takeWhile (fun e => e.vec.isSome)

/-- The conditions of R187 in one member, for a run whose first S is `sft`; in band X no new run opens (R273). -/
def State.runReady (s : State) (k sft : Nat) : Bool :=
  let v := s.vu k
  let av := v.avail
  let prime := let p := s.rd (bSk k) F.Sk.VCFG.PRIME
               if p = 0 then 4096 else p
  let st := s.engState k
  decide (2 ≤ st ∧ st ≤ 4) && decide (s.rd (bSk k) F.Sk.VSTAT.RUN = 0) && decide (s.rd bMem F.Mem.MSTAT.BAND < 2) &&
    decide (s.rd bThm F.Thm.THMSTAT.STATE < 2) &&
  (decide (prime ≤ av.length) || av.any (fun e => (e.vec.map (·.eor)).getD false) ||
    (!av.isEmpty && v.vq.isEmpty && v.lines.isEmpty)) &&
  (match v.lastE with | some e => decide (e ≤ sft) | none => true) &&
  (match v.fifo with
   | [] => false
   | e :: _ => match e.at_ with | some a => s.reached a | none => true)

/-- RUN_OPEN (R187): the conditions hold in every member of the braid; S of the first vector is the start of the cycle
48 cycles on, and VORIGIN takes it. The first vector's boundary is the present cycle. (DEDUCED, log 77.) -/
def runOpen (k : Nat) (s : State) : State :=
  let ms := s.members k
  let sft := (s.cycle + 48) * ftPerNs
  if ms.all (fun j => s.runReady j sft) then
    forL ms (fun j t =>
      let late := match (t.vu j).fifo with
        | e :: _ => match e.at_ with | some a => decide (a % coarseMod ≠ t.coarse) | none => false
        | [] => false
      let t1 := ((t.wr (bEng j) F.Eng.ACTIVE (t.activeNow j)).wr (bSk j) F.Sk.VSTAT.RUN 1).wr (bSk j) F.Sk.VORIGIN
        (t.toLocal sft)
      (t1.flag (bSk j) F.Sk.VSTAT.LATERUN late).updVu j (fun v => { v with nextS := some sft })) s
  else s

/-- A vector of the open run of engine k is due: the cycle 48 ns before the cycle of its S has come (R77, R189). -/
def State.vectorDue (s : State) (k : Nat) : Option Nat :=
  match (s.vu k).nextS with
  | some x => if s.rd (bSk k) F.Sk.VSTAT.RUN = 1 ∧ x / ftPerNs ≤ s.cycle + 48 then some x else none
  | none => none

/-- The state code in force on channel c: parking replaces it, and codes 10 to 15 act as 2 (R182, R183). -/
def codeInForce (park : Nat) (parked : Bool) (code : Nat) : Nat :=
  if parked then (if park = 0 ∨ park = 1 ∨ park = 2 ∨ park = 8 then park else 2)
  else if 10 ≤ code then 2 else code

/-- The number, from START, of the vector at the head of the FIFO; it does not wrap. -/
def VU.headNo (v : VU) : Nat := v.placed - v.fifo.length

/-- What one member does at a boundary before the period is read: ACTIVE is taken, the release of a restarted engine's
channels is set for this S, staged placement fields apply, and the items of this vector are applied, those on pins and
gates at its S (R144, R44, R95, R185). -/
def boundary (k sft : Nat) (s : State) : State :=
  let v := s.vu k
  let chans := (List.range 16).map (fun c => s.chan (16 * k + c))
  let b : Bound := { at_ := s.cycle, s := sft, p := 0, idx := v.headNo, tsi := 0, subs := chans.map (fun c => (c.sub, c.subPtr)),
                     tests := chans.map (·.lastState), dsk := (List.range 16).map (fun c =>
                       (s.rdInt (bCh (16 * k + c)) F.Ch.DSKEW.DSK_R, s.rdInt (bCh (16 * k + c)) F.Ch.DSKEW.DSK_F)) }
  let s1 := (s.wr (bEng k) F.Eng.ACTIVE (s.activeNow k)).updVu k (fun v => { v with bound := some b })
  let s2 := if v.release ∧ !s.frozen then
      forN 16 (fun c t => t.updChan (16 * k + c) (fun h => { h with rel := h.safe }))
        (pushS k sft .release (s1.updVu k (fun v => { v with release := false })))
    else s1
  applyItems k sft (pushS k sft) (fun i => decide (i = v.headNo)) (applyAtVector k s2)

/-- The vector at the head of member k is placed on its 16 channels with period p; VCOUNT advances. -/
def placeVector (k sft p : Nat) (s : State) : State :=
  let v := s.vu k
  match v.fifo with
  | { vec := some w, .. } :: rest =>
    let n := s.rd (bSk k) F.Sk.VCOUNT
    let park := s.rd (bSk k) F.Sk.VCFG.PARK
    let pm := s.parkMask k
    let code := fun c => w.state.toNat / 2 ^ (4 * c) % 16
    let s1 := forN 16 (fun c t => placeOn (16 * k + c) n v.headNo sft p w (codeInForce park (pm.testBit c) (code c)) (pm.testBit c) t)
      (s.updVu k (fun v => { v with
        fifo := rest, lastE := some (sft + p), bound := v.bound.map (fun b => { b with p := p, tsi := w.tsi }) }))
    let badc := (List.range 16).any (fun c => !pm.testBit c && decide (10 ≤ code c))
    levelsUpd k ((s1.flag (bSk k) F.Sk.VSTAT.BADCODE badc).inc (bSk k) F.Sk.VCOUNT 1)
  | _ => s

/-- A lane of engine k is parked from the boundary of the present cycle, which it has already come to: it holds what it
held before, and takes the parked vector in place of its own (R183, R211). -/
def parkLane (k : Nat) (b : Bound) (c : Nat) (s : State) : State :=
  let g := 16 * k + c
  let sub := atD b.subs c (0#64, 64)
  let d := atD b.dsk c (0, 0)
  let w : Vec := { eor := false, ftrg := false, nolatch := false, tsi := b.tsi, state := 0#64 }
  placeCode g 0 b.idx b.s b.p d.1 d.2 w (codeInForce (s.rd (bSk k) F.Sk.VCFG.PARK) true 0) true (s.updChan g (fun h => { h with
    sub := sub.1, subPtr := sub.2, lastState := atD b.tests c 2, evs := h.evs.filter (fun e => e.s != b.s),
    cmps := h.cmps.filter (fun m => m.idx != b.idx) }))

/-- The site enable table has changed: engines that have come to a vector boundary in the present cycle take ACTIVE anew, and
the lanes among `now` and not among `was` are parked from it, its LEVEL and VSUB items without effect on them (R144,
R211). -/
def siteLate (k was : Nat) (s : State) : State :=
  match (s.vu k).bound with
  | none => s
  | some b =>
    if b.at_ ≠ s.cycle then s
    else
      let new := s.parkMask k &&& (0xffff - (was &&& 0xffff))
      let cut := fun (x : Nat × SAct) => match x.2 with
        | .level m sets => if x.1 = b.s then (x.1, SAct.level (m - (m &&& new)) sets) else x
        | _ => x
      forL (lanesOf new) (parkLane k b) ((s.wr (bEng k) F.Eng.ACTIVE (s.activeNow k)).updVu k (fun v => { v with
        atS := v.atS.map cut }))

/-- Every member's run ends. -/
def endRun (ms : List Nat) (s : State) : State :=
  forL ms (fun j t => (t.wr (bSk j) F.Sk.VSTAT.RUN 0).updVu j (fun v => { v with nextS := none })) s

/-- A run whose every member drains and has no vector left ends at the last one (R188). -/
def drainedEnd (ms : List Nat) (s : State) : State :=
  if ms.all (fun j => (s.eng j).draining && s.vectorsGone j) then endRun ms s else s

/-- VECTOR_ISSUE: the boundary of the braid's open run. A head from a bad line is a VLINE fault (R181); a missing one is
no issue but an underrun (R189). Each member issues its own vector with the leader's period and the common S; the
leader's EOR ends the run (R188). (DEDUCED, log 77.) -/
def vectorIssue (k : Nat) (s : State) : State :=
  match s.vectorDue k with
  | none => s
  | some sft =>
    let ms := s.members k
    let lead := s.leader k
    let heads := ms.map (fun j => (j, (s.vu j).fifo.head?))
    match heads.find? (fun h => (h.2.map (·.bad)).getD false) with
    | some _ => forL (heads.filter (fun h => (h.2.map (·.bad)).getD false)) (fun h t => engineFault h.1 9 t) s
    | none =>
      if !heads.all (fun h => (h.2.bind (·.vec)).isSome) then s
      else
        let s1 := forL ms (fun j t => boundary j sft t) s
        let p := s1.period lead (s1.vu lead).perIdx
        let s2 := forL ms (fun j t => (placeVector j sft p t).updVu j (fun v => { v with nextS := some (sft + p) })) s1
        let eor := ((s.vu lead).fifo.head?.bind (fun e => e.vec.map (·.eor))).getD false
        if eor then endRun ms s2 else drainedEnd ms s2

/-- UNDERRUN: the vector due is not in the FIFO (R189). -/
def underrun (k : Nat) (s : State) : State :=
  match (revive k s).vectorDue k with
  | none => s
  | some _ =>
    match (s.vu k).fifo.head?.bind (·.vec) with
    | some _ => s
    | none =>
      let n := s.rd (bSk k) F.Sk.VCOUNT
      offerMark (s.rd (bSk k) F.Sk.VCFG.MSTREAM) 0x33 k (BitVec.ofNat 64 n) 0#64 0#64 (stampAt s.nowFt) (engineFault k 4 s)

/-! ### Barriers and the drain (R138, R147, R166, R185, R188) -/

/-- The SYNCB value of a wait. -/
def Wait.syncVal : Wait → Word
  | .syncb _ a _ _ => a
  | _ => 0#64

/-- The barrier a wait stands at: SYNCB with its number, or HALT. -/
def Wait.barrierId : Wait → Option (Option Nat)
  | .syncb _ _ i _ => some (some i)
  | .halt => some Option.none
  | _ => Option.none

/-- A member passes its SYNCB: gd takes the OR or the AND of every member's value, Z and N follow it (R166). -/
def passSyncb (j : Nat) (vals : List Word) (t0 : Nat) (s : State) : State :=
  match (s.eng j).wait with
  | .syncb d _ _ and_ =>
    let r := if and_ then vals.foldl (· &&& ·) (BitVec.allOnes 64) else vals.foldl (· ||| ·) 0#64
    let f := s.flags j
    resumeAt j t0 (setFlags j { f with z := r == 0#64, n := r.msb } (setG j d r s))
  | _ => s

/-- A member passes its HALT: the vector unit drains. Items still pending take effect at once where the last vector has
ended or none was issued (R185). -/
def passHalt (j : Nat) (s : State) : State :=
  let s1 := setEst j 4 (s.updEng j (fun e => { e with wait := .none, draining := true }))
  let past := match (s.vu j).lastE with | none => true | some e => decide (e ≤ s.eft)
  if s.vectorsGone j && past then flushItems j s.eft s1 else s1

/-- BARRIER_RELEASE (R147): every member has arrived; all at SYNCB with one number, or all at HALT, they go on 4 cycles
after the last arrival, else every member takes a BARRIER fault. -/
def barrierRelease (k : Nat) (s : State) : State :=
  let ms := s.members k
  let ids := ms.map (fun j => if s.engState j = 3 then (s.eng j).wait.barrierId else none)
  match ids.head? with
  | some (some first) =>
    if ids.any (·.isNone) then s
    else if ids.any (· != some first) then forL ms (fun j t => stopEngine j 5 t) s
    else
      let t0 := (ms.map (fun j => (s.eng j).arrived)).foldl max 0 + 4
      if s.cycle < t0 then s
      else match first with
        | some _ =>
          let vals := ms.map (fun j => (s.eng j).wait.syncVal)
          forL ms (fun j t => passSyncb j vals t0 t) s
        | none => drainedEnd ms (forL ms passHalt s)
  | _ => s

/-- DRAIN_COMPLETE (R138, R185, R188): once every vector has issued, the items still pending take effect at the last E;
the engine is HALTED when the judgements of the last vector are final. (DEDUCED, log 59.) (DEDUCED, log 76.) -/
def drainComplete (k : Nat) (s : State) : State :=
  if s.engState k ≠ 4 ∨ !(s.vectorsGone k) ∨ s.rd (bSk k) F.Sk.VSTAT.RUN = 1 then s
  else match (s.vu k).lastE with
    | none => setEst k 5 (flushItems k s.eft s)
    | some e =>
      if s.eft < e then s
      else
        let s1 := flushItems k e s
        let judged := (List.range 16).all (fun c => (s1.chan (16 * k + c)).cmps.isEmpty)
        if e + 24 * ftPerNs ≤ s.eft ∧ judged then setEst k 5 s1 else s1

/-! ### Vector instructions (R191-R199) -/

/-- An instruction that enters the vector queue. -/
def enqueue (k : Nat) (e : VQE) (s : State) : State := advance k 1 (vqPush k e s)

/-- The legality of VEC in its two forms. -/
def vecLegal (o : TymOps) : Bool :=
  o.dst == 0#4 && (if o.form then immOnly o 0 else (o.imm.getLsbD 39 || o.srcb == 0#4) && immOnly o (2 ^ 39 + 0xffffffff))

/-- VEC (R191, R192): a count of 0 queues nothing. -/
def execTymVec (k : Fin 32) (o : TymOps) (s : State) : Outcome State Fault Refusal :=
  let n := if o.form then (s.g k o.srcb.toNat).toNat % 2 ^ 32 else immF o 31 0
  let at_ := if !o.form && o.imm.getLsbD 39 then some ((s.g k o.srcb.toNat).toNat % coarseMod) else none
  let reads := Dst.g o.srca.toNat :: (if o.form || o.imm.getLsbD 39 then [Dst.g o.srcb.toNat] else [])
  act s (tymStep k (twoForm o 0x20#8) o reads (vecLegal o) false (s.condOk k o.cond) (decide (0 < n) && s.vqStall k false) (fun t =>
    if n = 0 then advance k 1 t else enqueue k (.seg ((s.g k o.srca.toNat).toNat % 2 ^ 40) n at_) t))

/-- The legality of VECI. -/
def veciLegal (o : TymOps) : Bool := o.dst == 0#4 && o.srcb == 0#4 && immOnly o 0xffff

/-- VECI (R191). -/
def execTymVeci (k : Fin 32) (o : TymOps) (s : State) : Outcome State Fault Refusal :=
  act s (tymStep k 0x22#8 o [.g o.srca.toNat] (veciLegal o) false (s.condOk k o.cond) (s.vqStall k false)
    (enqueue k (.veci (vecOf ((s.g k o.srca.toNat).toNat + 2 ^ 64 * immF o 15 0)))))

/-- The legality of VSUB. -/
def vsubLegal (o : TymOps) : Bool := o.dst == 0#4 && o.srcb == 0#4 && lp o.srca && immOnly o 0

/-- VSUB (R191, R193). -/
def execTymVsub (k : Fin 32) (o : TymOps) (s : State) : Outcome State Fault Refusal :=
  act s (tymStep k 0x23#8 o [.l o.srca.toNat] (vsubLegal o) false (s.laneCondOk k o.cond) (s.vqStall k true)
    (enqueue k (.item (.vsub (s.sel k o.cond) ((List.range 16).map (fun i => s.lane k o.srca.toNat i))))))

/-- The legality of TSET. -/
def tsetLegal (o : TymOps) : Bool :=
  o.dst == 0#4 && o.srcb == 0#4 && (if o.form then immOnly o 0 else o.srca == 0#4 && immOnly o 0xf)

/-- TSET (R191, R194). -/
def execTymTset (k : Fin 32) (o : TymOps) (s : State) : Outcome State Fault Refusal :=
  let i := if o.form then (s.g k o.srca.toNat).toNat % 16 else immF o 3 0
  act s (tymStep k (twoForm o 0x24#8) o (if o.form then [.g o.srca.toNat] else []) (tsetLegal o) false (s.condOk k o.cond) (s.vqStall k true)
    (enqueue k (.item (.tset i))))

/-- The legality of LEVEL. -/
def levelLegal (o : TymOps) : Bool :=
  o.dst == 0#4 && o.srcb == 0#4 && immOnly o 0xf && (if o.imm.getLsbD 3 then lp o.srca else o.srca == 0#4)

/-- LEVEL (R191, R195). -/
def execTymLevel (k : Fin 32) (o : TymOps) (s : State) : Outcome State Fault Refusal :=
  let sets := (List.range 16).map (fun i =>
    if o.imm.getLsbD 3 then (s.lane k o.srca.toNat i).toNat % 8 else immF o 2 0)
  act s (tymStep k 0x26#8 o (if o.imm.getLsbD 3 then [.l o.srca.toNat] else []) (levelLegal o) false (s.laneCondOk k o.cond)
    (s.vqStall k true) (enqueue k (.item (.level (s.sel k o.cond) sets))))

/-- The legality of MATCH. -/
def matchLegal (o : TymOps) : Bool := lp o.dst && o.srca == 0#4 && o.srcb == 0#4 && immOnly o 0

/-- MATCH (R198): waits for the judgements of all vectors queued before it. -/
def execTymMatch (k : Fin 32) (o : TymOps) (s : State) : Outcome State Fault Refusal :=
  act s (tymStep k 0x27#8 o [] (matchLegal o) false (s.laneCondOk k o.cond) false (fun t =>
    waitFor k (.match_ o.dst.toNat (s.sel k o.cond) ((s.vu k).placed + (s.vu k).queued)) (advance k 1 t)))

/-- The cycle in which the judgements of every vector below number `n` are final, once they are (R197, R198); 0 where
no vector has been issued. (DEDUCED, log 76.) A vector that compares nothing is waited for as one that compares, and a
judgement is final at E + 24 ns of the last vector, no earlier. (DESIGN CHOICE, log 159.) -/
def State.judgedAt (s : State) (k n : Nat) : Option Nat :=
  let open_ := (List.range 16).any (fun c => (s.chan (16 * k + c)).cmps.any (fun m => decide (m.idx < n)))
  if (s.vu k).headNo < n ∨ open_ then none
  else match (s.vu k).lastE with
    | none => some 0
    | some e =>
      let f := (e + 24 * ftPerNs + ftPerNs - 1) / ftPerNs
      if f ≤ s.cycle then some f else none

/-- MATCH_RELEASE (R198): pd takes the selected lanes whose latch bit is clear; the next instruction issues 2 cycles
after the last judgement, or after MATCH where none was pending. -/
def execMatchRelease (k : Fin 32) (s : State) : Outcome State Fault Refusal :=
  act s (fun s =>
    match (s.eng k).wait with
    | .match_ d m n =>
      if s.engState k ≠ 3 then s
      else match s.judgedAt k n with
        | none => s
        | some f =>
          let v := m &&& (0xffff - s.rd (bSk k) F.Sk.FAILLAT.LATCH)
          resumeAt k (max f (s.eng k).arrived + 2) (readyNow k [.p d] (setP k d v s))
    | _ => s)

/-- The legality of FAILM. -/
def failmLegal (o : TymOps) : Bool :=
  o.dst == 0#4 && o.srcb == 0#4 && lp o.srca && immOnly o 3 && immF o 1 0 != 3

/-- FAILM (R191, R199). -/
def execTymFailm (k : Fin 32) (o : TymOps) (s : State) : Outcome State Fault Refusal :=
  let pa := s.p k o.srca.toNat
  let m := s.sel k o.cond
  act s (tymStep k 0x28#8 o [.p o.srca.toNat] (failmLegal o) false (s.laneCondOk k o.cond) (s.vqStall k true)
    (enqueue k (.item (.failm (pa &&& m) m pa (immF o 1 0)))))

/-! ### Meanings of the vector unit's events -/

/-- VQ_ITEM_ATTACH (R184). -/
def execVqItemAttach (k : Fin 32) (s : State) : Outcome State Fault Refusal := act s (vqAttach k)

/-- VECTOR_LINE_REQUEST (R186). -/
def execVectorLineRequest (k : Fin 32) (s : State) : Outcome State Fault Refusal := act s (lineRequest k)

/-- VECTOR_LINE_ARRIVAL (R181). -/
def execVectorLineArrival (k : Fin 32) (s : State) : Outcome State Fault Refusal := act s (lineArrival k)

/-- RUN_OPEN (R187). -/
def execRunOpen (k : Fin 32) (s : State) : Outcome State Fault Refusal := act s (runOpen k)

/-- VECTOR_ISSUE (R77). -/
def execVectorIssue (k : Fin 32) (s : State) : Outcome State Fault Refusal := act s (ownCause k (vectorIssue k))

/-- UNDERRUN (R189). -/
def execUnderrun (k : Fin 32) (s : State) : Outcome State Fault Refusal := act s (underrun k)

/-- BARRIER_RELEASE (R147, R166). -/
def execBarrierRelease (k : Fin 32) (s : State) : Outcome State Fault Refusal := act s (ownCause k (barrierRelease k))

/-- DRAIN_COMPLETE (R138, R188). -/
def execDrainComplete (k : Fin 32) (s : State) : Outcome State Fault Refusal := act s (drainComplete k)

end Sys2Proof.Machine
end

