-- ==== Sys2Proof/Machine/Calib.lean ====
section
/-! DEFINITION. Calibration while testing (R320-R343): vernier units, delay lines, comparator paths, level DACs, driver
deskew, the PLL, calibration runs, and the record store in MRAM. -/

namespace Sys2Proof.Machine

open Host

/-! ### CAL's copy of the record (R338, R340) -/

/-- Bytes of a record (R338). -/
def recLen : Nat := 0x48100

/-- A record word by its offset with nominal values: identity vernier tables and interpolators, cell 0 with trim 8 at
every tap, all else zero. (DEDUCED, log 104.) -/
def nominalWord (x : Nat) : BitVec 32 :=
  let ident : BitVec 32 := if x % 8 = 0 then 0x76543210#32 else 0xfedcba98#32
  if 0x100 ≤ x ∧ x < 0x8100 then
    let y := (x - 0x100) % 0x400
    if y < 0x1a0 then ident else if 0x200 ≤ y ∧ y < 0x240 then 0x00080008#32 else 0#32
  else if 0x8100 ≤ x ∧ x < recLen then
    let y := (x - 0x8100) % 0x200
    if 0x168 ≤ y ∧ y < 0x170 then ident else 0#32
  else 0#32

/-- What an unlisted word of the copy holds. (DEDUCED, log 104.) -/
def copy0 (nominal : Bool) (x : Nat) : BitVec 32 := if nominal then nominalWord x else 0#32

/-- A byte of CAL's copy. -/
def State.calByte (s : State) (x : Nat) : Nat :=
  (tget (copy0 s.cals.nominal) s.cals.copy (x / 4 * 4)).toNat / 2 ^ (8 * (x % 4)) % 256

/-- `n` bytes of CAL's copy as a number. (DEDUCED, log 105.) -/
def State.calGet (s : State) (x n : Nat) : Nat := leNat ((List.range n).map (fun i => BitVec.ofNat 8 (s.calByte (x + i))))

/-- A signed 2-byte value of CAL's copy. -/
def State.calHalf (s : State) (x : Nat) : Int := toSigned 16 (s.calGet x 2)

/-- A byte of CAL's copy replaced. -/
def putByte (x v : Nat) (s : State) : State :=
  let w := (tget (copy0 s.cals.nominal) s.cals.copy (x / 4 * 4)).toNat
  let lo := 2 ^ (8 * (x % 4))
  let y := w - w / lo % 256 * lo + v % 256 * lo
  s.updCals (fun c => { c with copy := tput (copy0 c.nominal) c.copy (x / 4 * 4) (BitVec.ofNat 32 y) })

/-- `n` bytes of CAL's copy replaced by a number, little-endian. -/
def calPut (x n v : Nat) (s : State) : State := forN n (fun i t => putByte (x + i) (v / 256 ^ i) t) s

/-- Places in the record: skein k, channel g, comparator (1 CH, 0 CL) of path p of channel g, and its threshold table. -/
def rSk (k : Nat) : Nat := 0x100 + 0x400 * k
def rCh (g : Nat) : Nat := 0x8100 + 0x200 * g
def rPath (g p ch : Nat) : Nat := rCh g + 0x10 * p + 5 * (1 - ch)
def rThr (g p ch : Nat) : Nat := rCh g + 0x20 + 0x28 * (2 * p + (1 - ch))

/-- Sixteen 4-bit entries packed, entry q in bits [4q + 3:4q]. -/
def packTable (l : List Nat) : Nat := l.foldr (fun e w => e % 16 + 16 * w) 0

/-- The sixteen entries of a packed table. -/
def unpackTable (w : Nat) : List Nat := (List.range 16).map (fun q => w / 16 ^ q % 16)

/-! ### Status (R335, R336) -/

/-- The last status of an item in CSKSTAT[k]. -/
def setItem (k : Nat) (f : Fld) (code : Nat) (s : State) : State := s.wr (bCal + 8 * k) f code

/-- A REJECT (R335). -/
def calReject (s : State) : State := s.inc bCal F.Cal.CREJECT 1

/-- A CAL_APPLIED mark, where a value has changed (R336). -/
def calMarkIf (changed : Bool) (src item unit detail : Nat) (old new : Word) (s : State) : State :=
  if changed then devMark 0x30 src (BitVec.ofNat 64 (item + 256 * unit + 65536 * detail)) old new (stampAt s.nowFt) s else s

/-- The mark of an item whose whole value it carries. -/
def calMark (src item unit detail : Nat) (old new : Word) (s : State) : State :=
  calMarkIf (old != new) src item unit detail old new s

/-- The skein's timing, engine and MAU domain is on (R321). -/
def State.calOn (s : State) (k : Nat) : Bool := s.domOn (32 + k)

/-- The figures of CSKQ that follow an item's completion: the worst INL and DNL of the units in service (R323) and the
largest |ECHORES| of the channels. -/
def calqUpd (k : Nat) (s : State) : State :=
  let us := (s.skein k).units.filter (fun u => u.st == .inService)
  let worst := fun (f : VUnit → Nat) => min 255 (us.foldl (fun m u => max m (f u)) 0)
  let echo := (List.range 16).foldl (fun m c => max m (max (s.rdInt (bCh (16 * k + c)) F.Ch.ECHORES.RESID_R).natAbs
    (s.rdInt (bCh (16 * k + c)) F.Ch.ECHORES.RESID_F).natAbs)) 0
  let b := bCal + 8 * k
  ((s.wr b F.Cal.CSKQ.VINL (worst (·.inl))).wr b F.Cal.CSKQ.VDNL (worst (·.dnl))).wr b F.Cal.CSKQ.ECHORES echo

/-! ### Vernier units (R322-R324, R60) -/

/-- Units of a skein in a state. -/
def State.unitCount (s : State) (k : Nat) (st : UState) : Nat := ((s.skein k).units.filter (fun u => u.st == st)).length

/-- The IN_SERVICE unit with the oldest table, the lowest number on a tie (R322). -/
def oldestUnit : List VUnit → Nat → Option (Nat × VUnit)
  | [], _ => none
  | u :: t, i =>
    let r := oldestUnit t (i + 1)
    if u.st == .inService then
      match r with
      | some (_, v) => if u.calAt ≤ v.calAt then some (i, u) else r
      | none => some (i, u)
    else r

/-- VERNIER_WITHDRAW: the next unit due goes into calibration, in a tap in which it is free (R60, R322). -/
def vernWithdraw (k : Nat) (s : State) : State :=
  if !s.calOn k then setItem k F.Cal.CSKSTAT.VT 7 s
  else
    let failed := s.unitCount k .failed
    if 4 ≤ failed + s.unitCount k .inCal then s
    else match oldestUnit (s.skein k).units 0 with
      | none => s
      | some (i, u) =>
        if u.freeFor s.tapNow then
          poolUpd k (s.updSkein k (fun z => { z with
            units := updAt i (fun v => { v with
              st := .inCal, calStart := s.cycle, outAt := some s.tapNow }) z.units }))
        else s

/-- Twice the events below code q plus those in it: bin centre c_q = 16 x this / 2N (R323). -/
def centre2 (h : List Nat) (q : Nat) : Nat := 2 * (h.take q).sum + atD h q 0

/-- The computed entry E_q (R323). -/
def vernEntry (h : List Nat) (q : Nat) : Nat := 16 * centre2 h q / (2 * h.sum)

/-- |c_q - E_q - 0.5| in units of 1/2N ft (R323). -/
def vernInl (h : List Nat) (q : Nat) : Nat :=
  (((16 * centre2 h q : Nat) : Int) - ((2 * h.sum * vernEntry h q + h.sum : Nat) : Int)).natAbs

/-- |(c_{q+1} - c_q) - (E_{q+1} - E_q)| in units of 1/2N ft (R323). -/
def vernDnl (h : List Nat) (q : Nat) : Nat :=
  ((((16 * centre2 h (q + 1) : Nat) : Int) - ((16 * centre2 h q : Nat) : Int)) -
    (2 * h.sum : Nat) * ((vernEntry h (q + 1) : Int) - (vernEntry h q : Int))).natAbs

/-- The largest of a figure over codes below n. -/
def maxOver (n : Nat) (f : Nat → Nat) : Nat := (List.range n).foldl (fun m q => max m (f q)) 0

/-- A table is plausible (R324). -/
def vernPlausible (h : List Nat) : Bool :=
  let n := h.sum
  decide (h.length = 16 ∧ 0 < n) && h.all (fun x => decide (n ≤ 64 * x ∧ 8 * x ≤ n)) &&
  (List.range 15).all (fun q => decide (vernEntry h q ≤ vernEntry h (q + 1))) &&
  (List.range 16).all (fun q => decide (vernEntry h q ≤ q + 1 ∧ q ≤ vernEntry h q + 1)) &&
  decide (maxOver 16 (vernInl h) ≤ 2 * n ∧ 4 * maxOver 15 (vernDnl h) ≤ 3 * (2 * n))

/-- An entry moves by at most one code toward its target (R324). -/
def oneToward (old target : Nat) : Nat := if old < target then old + 1 else if target < old then old - 1 else old

/-- A figure of 1/2N ft in units of 2^-4 ft, to the nearest. -/
def sixteenths (x n : Nat) : Nat := (2 * (16 * x) + 2 * n) / (2 * (2 * n))

/-- VERNIER_CAL_COMPLETE of unit u with raw-code counts `h` (R322-R324): a unit returns only while no other has returned
since the last withdrawal (R60). (DEDUCED, log 103.) -/
def vernCal (k u : Nat) (h : List Nat) (s : State) : State :=
  match (s.skein k).units[u]? with
  | none => s
  | some v =>
    if !s.calOn k then setItem k F.Cal.CSKSTAT.VT 7 s
    else if v.st ≠ .inCal ∨ s.cycle < v.calStart + 1350000 ∨ s.unitCount k .failed + s.unitCount k .inCal < 4 then s
    else
      let back : VUnit := { v with st := .inService, outAt := none, busy := none, notices := [], backAt := s.tapNow + 1 }
      let put := fun (w : VUnit) (t : State) => poolUpd k (t.updSkein k (fun z => { z with units := updAt u (fun _ => w) z.units }))
      if vernPlausible h then
        let target := (List.range 16).map (vernEntry h)
        let new := (List.range 16).map (fun q => oneToward (atD v.table q 0) (atD target q 0))
        let s1 := put { back with table := new, rejects := 0, calAt := s.cycle,
                                  inl := sixteenths (maxOver 16 (vernInl h)) h.sum,
                                  dnl := sixteenths (maxOver 15 (vernDnl h)) h.sum } s
        let s2 := calPut (rSk k + 8 * u) 8 (packTable target) (setItem k F.Cal.CSKSTAT.VT 1 s1)
        calMark k 2 u 0 (BitVec.ofNat 64 (packTable v.table)) (BitVec.ofNat 64 (packTable new)) (calqUpd k s2)
      else if v.rejects + 1 < 3 then
        calReject (calqUpd k (setItem k F.Cal.CSKSTAT.VT 2 (put { back with rejects := v.rejects + 1 } s)))
      else
        calReject (calqUpd k (setItem k F.Cal.CSKSTAT.VT 6 (put { v with st := .failed, rejects := v.rejects + 1 } s)))

/-! ### Runs (R334, R340) -/

/-- The record data of a store that starts now: the copy, with DSK_R and DSK_F of every powered channel as the tracking
loop has them (R339). -/
def State.storeData (s : State) : Table (BitVec 32) :=
  (List.range 512).foldl (fun m g =>
    if s.domOn (32 + g / 16) then tput (copy0 s.cals.nominal) m (rCh g + 0x160)
      (BitVec.ofNat 32 (s.rd (bCh g) F.Ch.DSKEW.DSK_F * 65536 + s.rd (bCh g) F.Ch.DSKEW.DSK_R))
    else m) s.cals.copy

/-- STORE or an automatic store starts (R339, R342, R343); `auto` tells which.
(DEDUCED, log 105.) (DEDUCED, log 112.) -/
def calStore (auto : Bool) (s : State) : State :=
  match s.cals.store with
  | some x => if auto ∨ x.stamp = stampAt s.nowFt then s else s.raise bCal F.Cal.CSTAT.STOREDROP 0
  | none =>
    if s.rd bThm F.Thm.THMSTAT.STATE = 3 then (if auto then s else s.raise bCal F.Cal.CSTAT.STOREDROP 0)
    else
      let rec_ := s.rd bCal F.Cal.CSTAT.REC
      let seq := if rec_ = 0 then 1 else (s.cals.recSeq + 1) % 2 ^ 64
      let x : Store := { slot := if rec_ = 1 then 1 else 0, seq := seq, stamp := stampAt s.nowFt, data := s.storeData,
                         nominal := s.cals.nominal, block := 1, stop := false }
      ((s.updCals (fun c => { c with store := some x })).wr bCal F.Cal.CSTAT.STORE 1).wr bCal F.Cal.CSTORE.DONE 0

/-- The items of a mask end with a status. -/
def itemsEnd (k mask code : Nat) (s : State) : State :=
  let one := fun (b : Nat) (f : Fld) (t : State) => if mask.testBit b then setItem k f code t else t
  one 3 F.Cal.CSKSTAT.LVL (one 2 F.Cal.CSKSTAT.THR (one 1 F.Cal.CSKSTAT.CMP (one 0 F.Cal.CSKSTAT.DL s)))

/-- A run of skein k begins: TCAL takes the present temperature, in CAL's copy too (R338). Items whose domain is off are not run.
(DEDUCED, log 109.) -/
def runBegin (k : Nat) (trig first : Bool) (items : Nat) (s : State) : State :=
  let ana := s.domOn k
  let todo := if ana then items % 16 else items % 2
  let s1 := itemsEnd k (if ana then 0 else items &&& 14) 7 s
  let s2 := s1.wr (bCal + 8 * k) F.Cal.CSKTEMP.TCAL (s1.rd (bCal + 8 * k) F.Cal.CSKTEMP.TNOW)
  let s2 := calPut (rSk k + 0x240) 2 (s2.rd (bCal + 8 * k) F.Cal.CSKTEMP.TCAL) s2
  let s3 := s2.updSkein k (fun z => { z with
    run := some { trig := trig, first := first, items := todo, ch := 0 },
    trigAt := if trig then some s.cycle else z.trigAt, firstDue := z.firstDue && !first })
  let s4 := if trig ∧ !first then s3.inc (bCal + 8 * k) F.Cal.CSKSTAT.TRIGS 1 else s3
  calBusy s4

/-- No triggered run of skein k started less than 100 ms ago (R334). -/
def State.trigFree (s : State) (k : Nat) : Bool :=
  match (s.skein k).trigAt with
  | some t => decide (t + 100000000 ≤ s.cycle)
  | none => true

/-- A held temperature trigger may start its run: the skein's sensor has not failed (R346) and R334's pace allows it. -/
def State.heldFree (s : State) (k : Nat) : Bool :=
  (s.skein k).heldTrig && s.trigFree k && decide (s.rd (bThm + 8 * k) F.Thm.TEMP.FAIL = 0)

/-- FIRSTPASS sets when the run after power-up ends (R340). -/
def firstPass (k : Nat) (r : CalRun) (s : State) : State :=
  if r.first then s.wr (bCal + 8 * k) F.Cal.CSKSTAT.FIRSTPASS 1 else s

/-- A run with no item left ends: FIRSTPASS after the run that follows power-up, an automatic store after a triggered
run, and the run that was held (R334, R339, R340, R343). -/
def runSweep (k : Nat) (s : State) : State :=
  match (s.skein k).run with
  | none => s
  | some r =>
    if r.items ≠ 0 then s
    else
      let z := s.skein k
      let s2 := firstPass k r (calBusy (s.updSkein k (fun z => { z with run := none })))
      let due := match s.cals.storedAt with
        | none => true
        | some t => decide (t + s.rd bCal F.Cal.CCFG.STOREMIN * 1000000000 ≤ s.cycle)
      let s3 := if r.trig && due && decide (s.rd bCal F.Cal.CCFG.AUTOSTORE = 1) then calStore true s2 else s2
      if s.heldFree k then
        runBegin k true false 15 (s3.updSkein k (fun z => { z with heldTrig := false, heldHost := 0 }))
      else if z.heldHost ≠ 0 then
        runBegin k false false z.heldHost (s3.updSkein k (fun z => { z with heldHost := 0 }))
      else s3

/-- Item `bit` of the run of skein k is done. (DEDUCED, log 108.) -/
def runItem (k mask : Nat) (s : State) : State :=
  runSweep k (s.updSkein k (fun z => { z with run := z.run.map (fun r => { r with items := r.items - (r.items &&& mask) }) }))

/-- A power domain of skein k goes off: the items of the mask end with OFFDOMAIN in a run in progress (R321, R335). -/
def runOff (k mask : Nat) (s : State) : State :=
  match (s.skein k).run with
  | none => s
  | some r => runItem k mask (itemsEnd k (r.items &&& mask) 7 s)

/-- The run in progress still has an item of the mask, and none that comes before it (R334). -/
def State.runAt (s : State) (k mask before : Nat) : Bool :=
  match (s.skein k).run with
  | some r => decide (r.items &&& mask ≠ 0 ∧ r.items &&& before = 0)
  | none => false

/-- CALCMD.RUN (R334). (DEDUCED, log 112.) -/
def opCalRun (s : State) : State :=
  let items := s.rd bCal F.Cal.CRUN.ITEMS
  let mask := s.rd bCal F.Cal.CRUN.SKMASK
  let s1 := if items.testBit 4 then s.updCals (fun c => { c with pllAt := s.cycle }) else s
  forN 32 (fun k t =>
    if mask.testBit k ∧ items % 16 ≠ 0 then
      if !t.calOn k then
        itemsEnd k items 7 t
      else if (t.skein k).run.isSome then t.updSkein k (fun z => { z with heldHost := z.heldHost ||| items % 16 })
      else runSweep k (runBegin k false false items t)
    else t) s1

/-- CAL_TRIGGERED_RUN: the temperature has moved, or the skein has powered up (R334, R340). (DEDUCED, log 109.) -/
def trigRun (k : Nat) (s : State) : State :=
  let z := s.skein k
  let b := bCal + 8 * k
  let dt := max 10 (min 150 (s.rd bCal F.Cal.CCFG.DT))
  let moved := decide (16 * dt < 10 * (s.rdInt b F.Cal.CSKTEMP.TNOW - s.rdInt b F.Cal.CSKTEMP.TCAL).natAbs)
  let ok := decide (s.rd bCal F.Cal.CCFG.TEMP_EN = 1 ∧ s.rd (bThm + 8 * k) F.Thm.TEMP.FAIL = 0) && moved
  if !s.calOn k then s
  else if z.run.isSome then (if ok then s.updSkein k (fun z => { z with heldTrig := true }) else s)
  else if z.firstDue then runSweep k (runBegin k true true 15 s)
  else if (ok ∧ s.trigFree k) ∨ s.heldFree k then
    runSweep k (runBegin k true false 15 (s.updSkein k (fun z => { z with heldTrig := false })))
  else s

/-- Every run ends with ABORTED for the items it had left (R334, R342); one after power-up has ended too (R340). -/
def runAbort (k : Nat) (s : State) : State :=
  match (s.skein k).run with
  | none => s
  | some r =>
    (firstPass k r (itemsEnd k r.items 5 s)).updSkein k (fun z => { z with run := none, heldTrig := false, heldHost := 0 })

/-- CALCMD.ABORT, and what the SHUTDOWN state does: every run and every deskew ends (R334, R342). -/
def calAbort (s : State) : State := calBusy (forN 32 (fun k t => dskAbortSk k t) (forN 32 runAbort s))

/-! ### Delay line (R325, R326) -/

/-- |w_i - 16| in units of 1/N ft, of a tap with h of N events (R325). -/
def tapErr (n h : Nat) : Nat := (((512 * h : Nat) : Int) - ((16 * n : Nat) : Int)).natAbs

/-- Another cell of a tap than that of cell and trim `c`: which of the three idle ones, and the trim that brings it within
1 ft of the outgoing cell, the idle cells' measurement gives (free values). -/
def idleCell (c fr : Nat) : Nat :=
  let f := Config.freeNat fr
  16 * ((c / 16 + 1 + f % 3) % 4) + f / 3 % 16

/-- Where a tap goes from cell and trim `c` after a pass: one trim step toward 16 ft; at the limit of its trim and more
than 1 ft off, an idle cell. (DESIGN CHOICE, log 15.) -/
def tapTarget (n h c fr : Nat) : Nat :=
  let e := tapErr n h
  let wide := decide (16 * n < 512 * h)
  let up := wide != Config.trimLengthens
  if 2 * e ≤ n then c
  else if up then
    if c % 16 < 15 then c + 1 else if n < e then idleCell c fr else c
  else if 0 < c % 16 then c - 1 else if n < e then idleCell c fr else c

/-- DLCELL_PASS of skein k with tap counts `h` (R325).
(DESIGN CHOICE, log 15.) (DEDUCED, log 103.) (DEDUCED, log 113.) -/
def dlPass (k : Nat) (h : List Nat) (s : State) : State :=
  let z := s.skein k
  let inRun := s.runAt k 1 0
  let due := decide (z.passAt + 10000000 ≤ s.cycle) && decide (s.rd bCal F.Cal.CCFG.DL_EN = 1)
  let n := h.sum
  if !s.calOn k then setItem k F.Cal.CSKSTAT.DL 7 s
  else if !(due || (inRun && decide (z.passAt + 1310720 ≤ s.cycle))) ∨ h.length ≠ 32 ∨ n = 0 then s
  else
    let s1 := s.updSkein k (fun z => { z with passAt := s.cycle })
    let s2 :=
      if !s.dllLock k ∨ s.cycle < z.lockSince + 1310720 then setItem k F.Cal.CSKSTAT.DL 5 s1
      else if h.any (fun x => decide (512 * x < 8 * n ∨ 24 * n < 512 * x)) then calReject (setItem k F.Cal.CSKSTAT.DL 2 s1)
      else
        let target := (List.range 32).map (fun i => tapTarget n (atD h i 0) (atD z.cells i 0) (s.free + i))
        let worst := maxOver 32 (fun i => tapErr n (atD h i 0))
        let t1 : State := { s1 with free := s.free + 32 }
        let t2 := t1.updSkein k (fun z => { z with cellTarget := target })
        let t3 := forN 32 (fun i t => calPut (rSk k + 0x200 + 2 * i) 2 (atD target i 0) t) t2
        (setItem k F.Cal.CSKSTAT.DL 1 t3).wr (bCal + 8 * k) F.Cal.CSKQ.TAPERR (min 255 ((32 * worst + n) / (2 * n)))
    runItem k (if inRun then 1 else 0) (calqUpd k s2)

/-- DLCELL_TRIM_STEP: one tap of skein k takes its target, at most once per 2^M vectors while the engine runs, else at
most once per 1 us (R326, R54). (DESIGN CHOICE, log 15.) (DEDUCED, log 114.) -/
def dlStep (k : Nat) (s : State) : State :=
  let z := s.skein k
  let m := (List.range 16).foldl (fun m c => max m (s.rd (bCh (16 * k + c)) F.Ch.EPCFG.DSK_SLEW)) 0
  let n := s.rd (bSk k) F.Sk.VCOUNT
  let paced := if s.engRunning k then decide (n < z.trimVec ∨ z.trimVec + 2 ^ m ≤ n) else decide (z.trimAt + 1000 ≤ s.cycle)
  if !s.calOn k ∨ !paced then s
  else match firstIdx (fun i => atD z.cells i 0 != atD z.cellTarget i 0) (List.range 32) 0 with
    | none => s
    | some i =>
      let new := atD z.cellTarget i 0
      calMark k 1 i 0 (BitVec.ofNat 64 (atD z.cells i 0)) (BitVec.ofNat 64 new) (s.updSkein k (fun z => { z with
        cells := updAt i (fun _ => new) z.cells, trimAt := s.cycle, trimVec := n }))

/-! ### Comparator paths (R327, R328, R29-R31) -/

/-- The place of the input pair with the smallest offset, the first on a tie. (DEDUCED, log 107.) -/
def bestPair (l : List Int) : Nat :=
  ((List.range l.length).foldl (fun (b : Nat) i => if (atD l i 0).natAbs < (atD l b 0).natAbs then i else b) 0)

/-- The offset trim DAC code that cancels the chosen pair's offset: steps of 0.125 mV, held to 8 mV (R327).
(DEDUCED, log 107.) -/
def trimDac (l : List Int) : Int := clampInt (-64) 64 (-(roundDiv (atD l (bestPair l) 0) 4))

/-- The code of point i of the 17 (R327). (DEDUCED, log 107.) -/
def pointCode (i : Nat) : Nat := if i = 16 then 0xffff else 0x1000 * i

/-- The threshold table is within 10 mV of nominal and monotonic (R328). -/
def thrPlausible (r : CmpCal) : Bool :=
  decide (r.thrErr.length = 17) && r.thrErr.all (fun e => decide (e.natAbs ≤ 1310)) &&
  (List.range 16).all (fun i => decide ((16 * pointCode i : Nat) + atD r.thrErr i 0 ≤
    (16 * pointCode (i + 1) : Nat) + atD r.thrErr (i + 1) 0))

/-- Pair offset, residual and delay trim are plausible (R328): OFS_MAX in mV, `prev` the path's previous trim. -/
def cmpPlausible (ofsMax : Nat) (prev : Int) (r : CmpCal) : Bool :=
  decide (r.pairOfs.length = 8) && decide ((atD r.pairOfs (bestPair r.pairOfs) 0).natAbs ≤ 32 * ofsMax) &&
  decide (r.residual.natAbs ≤ 16) && decide (-64 ≤ r.delayTrim ∧ r.delayTrim ≤ 64) &&
  decide ((r.delayTrim - prev).natAbs ≤ 8)

/-- The correction of largest magnitude of a threshold table (R336). -/
def maxCorr (l : List Int) : Int := l.foldl (fun m e => if m.natAbs < e.natAbs then e else m) 0

/-- Pair and trim DAC code as a CAL_APPLIED mark carries them (R336). -/
def pairWord (pair trim : Nat) : Nat := pair % 8 * 65536 + trim % 65536

/-- What comparator ch of path p of channel g has in the copy: pair and trim as a mark carries them, delay trim, and the
17 corrections. -/
def State.pathVals (s : State) (g p ch : Nat) : Nat × Int × List Int :=
  (pairWord (s.calGet (rPath g p ch) 1) (s.calGet (rPath g p ch + 1) 2), s.calHalf (rPath g p ch + 3),
   (List.range 17).map (fun i => s.calHalf (rThr g p ch + 2 * i)))

/-- Path p of channel g is marked failed (R328). -/
def State.pathFailed (s : State) (g p : Nat) : Bool :=
  (s.rd (bCal + 8 * g) F.Cal.CCHQ.FAILED).testBit (2 * p)

/-- The accepted result of a comparator enters the copy and CCHQ. (DEDUCED, log 106.) -/
def cmpAccept (g p ch : Nat) (r : CmpCal) (s : State) : State :=
  let i := 2 * p + ch
  let pair := bestPair r.pairOfs
  let s1 := calPut (rPath g p ch) 1 pair s
  let s2 := calPut (rPath g p ch + 1) 2 (ofSigned 16 (trimDac r.pairOfs)) s1
  let s3 := calPut (rPath g p ch + 3) 2 (ofSigned 16 r.delayTrim) s2
  let s4 := forN 17 (fun j t => calPut (rThr g p ch + 2 * j) 2 (ofSigned 16 (-(atD r.thrErr j 0))) t) s3
  let b := bCal + 8 * g
  let fp : Fld := { off := F.Cal.CCHQ.PAIR.off, hi := 34 + 3 * i, lo := 32 + 3 * i }
  let fr : Fld := { off := F.Cal.CCHQ.RESOFS.off, hi := 8 * i + 7, lo := 8 * i }
  (s4.wr b fp pair).wrInt b fr r.residual

/-- The worst residual offset of the paths of skein k. -/
def State.worstRes (s : State) (k : Nat) : Nat :=
  (List.range 16).foldl (fun m c => (List.range 4).foldl (fun m i =>
    max m (s.rdInt (bCal + 8 * (16 * k + c)) { off := F.Cal.CCHQ.RESOFS.off, hi := 8 * i + 7, lo := 8 * i }).natAbs) m) 0

/-- The calibration of path p of channel g is too old to be swapped in (R327). -/
def State.pathAged (s : State) (g p : Nat) : Bool :=
  decide (atD (s.chan g).calAt p 0 + 10 * (max 1 (s.rd bCal F.Cal.CCFG.CMPPER) * 1000000) < s.cycle)

/-- The inactive path of channel c of skein k is calibrated at its turn: in a run the run's next channel, else the next in
ascending order, or one whose swap is still deferred when its values are too old (R327, R334). -/
def State.cmpTurn (s : State) (k c : Nat) : Bool :=
  let g := 16 * k + c
  let z := s.skein k
  if s.runAt k 6 1 then z.run.any (fun r => r.ch == c)
  else decide (s.rd bCal F.Cal.CCFG.CMP_EN = 1) && (z.cmpNext == c ||
    ((s.chan g).calReady && s.pathAged g (1 - s.rd (bCh g) F.Ch.PESTAT.ACTIVE_PATH)))

/-- The turn passes to the next channel (R327, R334). -/
def cmpPass (k c : Nat) (s : State) : State :=
  let s1 := s.updSkein k (fun z => { z with cmpAt := s.cycle })
  if s.runAt k 6 1 then
    if c = 15 then runItem k 6 s1
    else s1.updSkein k (fun z => { z with run := z.run.map (fun r => { r with ch := c + 1 }) })
  else s1.updSkein k (fun z => { z with cmpNext := if z.cmpNext = c then (c + 1) % 16 else z.cmpNext })

/-- CMPPATH_CAL_COMPLETE: the inactive path of channel c of skein k has been calibrated, 400 us for both comparators (R327,
R328). (DEDUCED, log 106.) -/
def cmpCal (k c : Nat) (ch cl : CmpCal) (s : State) : State :=
  let g := 16 * k + c
  let p := 1 - s.rd (bCh g) F.Ch.PESTAT.ACTIVE_PATH
  if !s.calOn k ∨ !s.domOn k then setItem k F.Cal.CSKSTAT.THR 7 (setItem k F.Cal.CSKSTAT.CMP 7 s)
  else if !s.cmpTurn k c ∨ s.cycle < (s.skein k).cmpAt + 400000 then s
  else if s.pathFailed g p then cmpPass k c (setItem k F.Cal.CSKSTAT.CMP 6 s)
  else
    let ofs := s.rd bCal F.Cal.CLIMIT.OFS_MAX
    let good := fun (i : Nat) (r : CmpCal) => cmpPlausible ofs (s.calHalf (rPath g p i + 3)) r
    let thrOk := thrPlausible ch && thrPlausible cl
    if good 1 ch && good 0 cl && thrOk then
      let inRun := s.runAt k 6 1
      let s1 := cmpAccept g p 0 cl (cmpAccept g p 1 ch s)
      let s2 := s1.updChan g (fun x => { x with
        calReady := true, calAt := updAt p (fun _ => s.cycle) x.calAt,
        rejects := updAt p (fun _ => 0) x.rejects, swapNow := inRun })
      let s3 := setItem k F.Cal.CSKSTAT.THR 1 (setItem k F.Cal.CSKSTAT.CMP 1 s2)
      cmpPass k c (calqUpd k (s3.wr (bCal + 8 * k) F.Cal.CSKQ.CMPRES (s3.worstRes k)))
    else
      let n := atD (s.chan g).rejects p 0 + 1
      let s1 := s.updChan g (fun x => { x with calReady := false, rejects := updAt p (fun _ => n) x.rejects })
      let s2 := calReject (setItem k F.Cal.CSKSTAT.CMP (if n < 3 then 2 else 6) s1)
      let s3 := if thrOk then s2 else calReject (setItem k F.Cal.CSKSTAT.THR 2 s2)
      let s4 := if n < 3 then s3
        else s3.wr (bCal + 8 * g) F.Cal.CCHQ.FAILED (s3.rd (bCal + 8 * g) F.Cal.CCHQ.FAILED ||| 3 * 4 ^ p)
      cmpPass k c (calqUpd k s4)

/-- The CAL_APPLIED marks of a swap from path a of channel c of skein k, for comparator i: old values are the outgoing
path's, new ones the incoming path's (R336). (DEDUCED, log 108.) -/
def swapMarks (k c a i : Nat) (s : State) : State :=
  let o := s.pathVals (16 * k + c) a i
  let n := s.pathVals (16 * k + c) (1 - a) i
  let thr := fun (l : List Int) => BitVec.ofNat 64 (ofSigned 64 (maxCorr l))
  calMarkIf (o.2.2 != n.2.2) k 4 c i (thr o.2.2) (thr n.2.2)
    (calMarkIf (o.1 != n.1 || o.2.1 != n.2.1) k 3 c i (BitVec.ofNat 64 o.1) (BitVec.ofNat 64 n.1) s)

/-- PATH_SWAP: the outputs of both paths of channel c of skein k have agreed for `agreed` ns (R29-R31, R327).
(DEDUCED, log 108.) -/
def pathSwap (k c agreed : Nat) (s : State) : State :=
  let g := 16 * k + c
  let x := s.chan g
  let a := s.rd (bCh g) F.Ch.PESTAT.ACTIVE_PATH
  let per := max 1 (s.rd bCal F.Cal.CCFG.CMPPER) * 1000000
  let due := x.swapNow || decide (x.swapAt + per ≤ s.cycle)
  let low := decide (s.rd (bCh g) F.Ch.PESTAT.TRK_LOWSWING_CH = 1 ∨ s.rd (bCh g) F.Ch.PESTAT.TRK_LOWSWING_CL = 1)
  if !x.calReady ∨ !s.calOn k ∨ !s.domOn k ∨ agreed < 16 ∨ low ∨ s.rd (bCh g) F.Ch.PESTAT.SETTLING = 1 ∨ !due ∨
      s.pathAged g (1 - a) ∨ s.pathFailed g (1 - a) then s
  else
    let s1 := (s.wr (bCh g) F.Ch.PESTAT.ACTIVE_PATH (1 - a)).wrInt (bCh g) F.Ch.CAPTRIM.TRIM_CH (s.calHalf (rPath g (1 - a) 1 + 3))
    let s2 := (s1.wrInt (bCh g) F.Ch.CAPTRIM.TRIM_CL (s.calHalf (rPath g (1 - a) 0 + 3))).updChan g (fun x => { x with
      calReady := false, swapAt := s.cycle, swapNow := false })
    swapMarks k c a 0 (swapMarks k c a 1 s2)

/-! ### Level DACs (R329) -/

/-- A level DAC has been measured in the run of skein k: with all 64 the item is done (R334). -/
def lvlDone (k i : Nat) (s : State) : State :=
  let s1 := s.updSkein k (fun z => { z with run := z.run.map (fun r => { r with lvl := r.lvl ||| 2 ^ i }) })
  if (s1.skein k).run.any (fun r => r.lvl == 2 ^ 64 - 1) then runItem k 8 s1 else s1

/-- LVLDAC_TRIM_STEP: DAC j of channel c of skein k is found `err` 2^-4 mV off (R329, R336). -/
def lvlStep (k c j : Nat) (err : Int) (s : State) : State :=
  let g := 16 * k + c
  let x := s.chan g
  let inRun := s.runAt k 8 7
  if !s.calOn k ∨ !s.domOn k then setItem k F.Cal.CSKSTAT.LVL 7 s
  else if (!inRun ∧ s.rd bCal F.Cal.CCFG.LVL_EN = 0) ∨ s.cycle < atD x.lvlAt j 0 + 10000 then s
  else
    let old := atD x.lvlTrim j 0
    let s2 :=
      if 160 < err.natAbs then calReject (setItem k F.Cal.CSKSTAT.LVL 2 s)
      else
        let new := clampInt (-32768) 32767 (old - clampInt (-4) 4 err)
        let last := atD x.lvlMark j 0
        let far := decide (16 ≤ (new - last).natAbs)
        let s1 := (setItem k F.Cal.CSKSTAT.LVL 1 s).updChan g (fun x => { x with
          lvlTrim := updAt j (fun _ => new) x.lvlTrim, lvlAt := updAt j (fun _ => s.cycle) x.lvlAt,
          lvlMark := if far then updAt j (fun _ => new) x.lvlMark else x.lvlMark })
        let s1' := calPut (rCh g + 0xc0 + 2 * j) 2 (ofSigned 16 new) s1
        if far then calMark k 5 c j (BitVec.ofNat 64 (ofSigned 64 last)) (BitVec.ofNat 64 (ofSigned 64 new)) s1' else s1'
    calqUpd k (if inRun then lvlDone k (4 * c + j) s2 else s2)

/-! ### Timebase PLL (R333) -/

/-- TBPLL_CAL: the loop gain deviates by `gain` percent; `code` is the corrected charge-pump code (R333).
(DEDUCED, log 113.) -/
def pllCal (gain : Int) (code : BitVec 16) (s : State) : State :=
  if s.tbState ≠ 1 ∨ s.cycle < s.cals.pllAt then s
  else
    let s1 := s.updCals (fun c => { c with pllAt := s.cycle + 1000000000 })
    if 50 < gain.natAbs then calReject (s1.wr bCal F.Cal.CSTAT.PLLST 2)
    else
      let s2 := calPut 0x40 2 code.toNat (s1.wr bCal F.Cal.CSTAT.PLLST 1)
      if code = s.tbs.pllCode then s2 else s2.updTbs (fun x => { x with pllNext := some code })

/-! ### Driver deskew (R330-R332) -/

/-- CALCMD.DESKEW (R330). A command while a deskew is in progress is ignored. (DEDUCED, log 110.) -/
def opDeskew (s : State) : State :=
  let k := s.rd bCal F.Cal.CDSK.SK
  let mask := s.rd bCal F.Cal.CDSK.CHMASK
  let named := (List.range 16).filter (fun c => mask.testBit c)
  if s.cals.dsk.isSome ∨ named = [] then s
  else
    let s1 := s.updCals (fun x => { x with dsk := some { sk := k, wait := named.map (fun c => (c, 0)) } })
    let all := fun (code : Nat) (count : Bool) (t : State) =>
      dskSweep (forL named (fun c t => dskFinal c code (if count then dskCount c t else t)) t)
    if !s.calOn k ∨ !s.domOn k then all 7 false s1
    else if s.engRunning k ∨ s.frozen then all 4 true s1
    else
      let s2 := forL named (fun c t =>
        if t.rd (bCh (16 * k + c)) F.Ch.PECFG.CH_EN = 0 then dskFinal c 4 (dskCount c t)
        else (t.updChan (16 * k + c) (fun x => { x with drive := .hiZ, loadOn := false })).updCals (fun x => { x with
          dsk := x.dsk.map (fun d => { d with wait := d.wait.filter (fun p => p.1 ≠ c),
                                              listen := d.listen ++ [(c, 0, s.cycle)] }) })) s1
      dskSweep (calBusy s2)

/-- The edges of the 256 pulses of a phase that starts at elapsed ft `st` (R331): whether rising, the interpolator code,
and the elapsed ft at which it is placed. -/
def pulseEdges (st : Nat) : List (Bool × Nat × Nat) :=
  (List.range 256).flatMap (fun m =>
    let t := st + 40 * ftPerNs * m + m / 16
    [(true, m / 16, t), (false, m / 16, t + 20 * ftPerNs)])

/-- The pulse phase of channel c of skein k starts: the driver goes to VIL, its 512 edges are placed, and where the
echo comparator's threshold lies between the levels an echo is expected of each (R331, R91). (DEDUCED, log 161.) -/
def pulseStart (k c : Nat) (s : State) : State :=
  let g := 16 * k + c
  let ch := decide (s.rd (bCh g) F.Ch.EPCFG.ECHO_COMP = 1)
  let ofs := s.rdInt (bCh g) F.Ch.EPCFG.ECHO_OFS
  let dsk := fun (r : Bool) => s.rdInt (bCh g) (if r then F.Ch.DSKEW.DSK_R else F.Ch.DSKEW.DSK_F)
  let es := pulseEdges s.eft
  let evs : List DriveEv := es.map (fun e =>
    { at_ := e.2.2, intended := ((e.2.2 : Int) - dsk e.1).toNat, s := s.eft, isE1 := !e.1, level := if e.1 then .vih else .vil,
      pulse := true })
  let xs : List Echo := es.map (fun e =>
    { x := shiftFt (s.toLocal e.2.2) ((if e.1 then ofs else -ofs) - dsk e.1), rising := e.1, ch := ch, code := some e.2.1 })
  let s1 := s.updChan g (fun x => { x with
    drive := .vil, loadOn := false, evs := evs, echoes := if s.crossesEcho g ch then x.echoes ++ xs else x.echoes })
  s1.updCals (fun x => { x with dsk := x.dsk.map (fun d => { d with pulse := d.pulse ++ [(c, s.cycle)] }) })

/-- DESKEW_LISTEN_END of channel c of skein k: quiet to the pulse phase, else INPUT_ACTIVE, final after the eighth repeat
(R330). -/
def listenEnd (k c : Nat) (s : State) : State :=
  match s.cals.dsk with
  | none => s
  | some d =>
    match d.listen.find? (fun p => p.1 == c) with
    | none => s
    | some (_, r, start) =>
      if d.sk ≠ k ∨ s.cycle < start + 10000 then s
      else
        let e : Dsk := { d with listen := d.listen.filter (fun p => p.1 ≠ c), seen := d.seen.filter (fun x => x ≠ c) }
        let put := fun (y : Dsk) => s.updCals (fun x => { x with dsk := some y })
        if d.seen.contains c then
          if r < 8 then put { e with wait := e.wait ++ [(c, r + 1)], firstEnd := if r = 0 then start + 10000 else e.firstEnd }
          else dskSweep (dskFinal c 3 (put e))
        else pulseStart k c (put e)

/-- DESKEW_RELISTEN: the r-th repeat on channel c starts r x 1 ms after the end of the first listen (R330). -/
def relisten (k c : Nat) (s : State) : State :=
  match s.cals.dsk with
  | none => s
  | some d =>
    match d.wait.find? (fun p => p.1 == c) with
    | none => s
    | some (_, r) =>
      if d.sk ≠ k ∨ s.cycle < d.firstEnd + r * 1000000 then s
      else s.updCals (fun x => { x with dsk := some { d with
        wait := d.wait.filter (fun p => p.1 ≠ c), listen := d.listen ++ [(c, r, s.cycle)] } })

/-- The sum and number of the skews of one direction over all codes. (DEDUCED, log 111.) -/
def skewSum (l : List (List Int)) : Int × Nat := ((l.map (fun x => x.foldl (· + ·) 0)).foldl (· + ·) 0, (l.map (·.length)).sum)

/-- The interpolator entries a pulse phase gives (R331). (DEDUCED, log 111.) -/
def interpNew (o : DeskewObs) : List Int :=
  let r := skewSum o.rising
  let f := skewSum o.falling
  let m := if f.2 ≤ r.2 then r else f
  (List.range 16).map (fun c =>
    let x := skewSum [atD o.rising c [], atD o.falling c []]
    (c : Int) + roundDiv (m.1 * (x.2 : Int) - x.1 * (m.2 : Int)) ((m.2 * x.2 : Nat) : Int))

/-- What the pulse phase of channel c has found. -/
def Dsk.obs (d : Dsk) (c : Nat) : DeskewObs :=
  let of := fun (r : Bool) => (List.range 16).map (fun i =>
    (d.skews.filter (fun x => x.c == c && x.rising == r && x.code == i)).map (·.skew))
  { rising := of true, falling := of false }

/-- The result of a pulse phase is plausible (R331). -/
def dskPlausible (o : DeskewObs) (max : Nat) (newR newF : Int) : Bool :=
  let r := skewSum o.rising
  let f := skewSum o.falling
  let e := interpNew o
  decide (r.1.natAbs ≤ max * r.2 ∧ f.1.natAbs ≤ max * f.2) &&
  decide (-2048 ≤ newR ∧ newR ≤ 2047 ∧ -2048 ≤ newF ∧ newF ≤ 2047) &&
  (List.range 16).all (fun c => decide (14 ≤ (atD o.rising c []).length ∧ 14 ≤ (atD o.falling c []).length)) &&
  (List.range 16).all (fun c => decide (0 ≤ atD e c 0 ∧ atD e c 0 ≤ 15 ∧ (atD e c 0 - (c : Int)).natAbs ≤ 1)) &&
  (List.range 15).all (fun c => decide (atD e c 0 ≤ atD e (c + 1) 0))

/-- The pulse phase of channel c of skein k has ended (R331, R332, R336). -/
def pulseOver (k c : Nat) (o : DeskewObs) (s : State) : State :=
  let g := 16 * k + c
  let r := skewSum o.rising
  let f := skewSum o.falling
  let oldR := s.rdInt (bCh g) F.Ch.DSKEW.DSK_R
  let oldF := s.rdInt (bCh g) F.Ch.DSKEW.DSK_F
  let newR := oldR - roundDiv r.1 r.2
  let newF := oldF - roundDiv f.1 f.2
  if dskPlausible o (s.rd bCal F.Cal.CLIMIT.DSK_MAX) newR newF then
    let tab := packTable ((interpNew o).map (·.toNat))
    let word := fun (a b : Int) => BitVec.ofNat 64 (ofSigned 16 b * 65536 + ofSigned 16 a)
    let s1 := (s.wrInt (bCh g) F.Ch.DSKEW.DSK_R newR).wrInt (bCh g) F.Ch.DSKEW.DSK_F newF
    let s2 := calPut (rCh g + 0x160) 4 (word newR newF).toNat s1
    let s3 := calPut (rCh g + 0x168) 8 tab s2
    let s4 := calMark k 6 c 0 (word oldR oldF) (word newR newF) s3
    dskFinal c 1 (calMark k 6 c 0 (BitVec.ofNat 64 (s.calGet (rCh g + 0x168) 8)) (BitVec.ofNat 64 tab) s4)
  else calReject (dskFinal c 2 s)

/-- DESKEW_PULSE_END of channel c of skein k: its 10,240 ns phase is over and every echo found or missed (R331). -/
def pulseEnd (k c : Nat) (s : State) : State :=
  match s.cals.dsk with
  | none => s
  | some d =>
    match d.pulse.find? (fun p => p.1 == c) with
    | none => s
    | some (_, start) =>
      if d.sk ≠ k ∨ s.cycle < start + 10240 ∨ (s.chan (16 * k + c)).echoes.any (fun e => e.code.isSome && !e.got) then s
      else dskSweep (pulseOver k c (d.obs c) s)

/-! ### MRAM store and record load (R337-R342) -/

/-- A word of a record that a store writes: its header, then its data (R338). -/
def storeWord (x : Store) (check : BitVec 32) (off : Nat) : BitVec 32 :=
  match off with
  | 0 => 0x5b51ca1b#32
  | 4 => 0x5b5120a2#32
  | 8 => BitVec.ofNat 32 x.seq
  | 12 => BitVec.ofNat 32 (x.seq / 2 ^ 32)
  | 16 => BitVec.ofNat 32 recLen
  | 20 => 1#32
  | 24 => BitVec.ofNat 32 x.stamp.toNat
  | 28 => BitVec.ofNat 32 (x.stamp.toNat / 2 ^ 32)
  | 60 => check
  | _ => if off < 64 then 0#32 else tget (copy0 x.nominal) x.data off

/-- The bytes of words [lo, hi) of a record under construction. -/
def storeBytes (x : Store) (lo hi : Nat) : List Byte :=
  (List.range (hi - lo)).flatMap (fun i => leBytes 4 (storeWord x 0#32 (4 * (lo + i))).toNat)

/-- The check word of R338: header bytes [59:0], then bytes [LEN - 1:64]. -/
def storeCheck (x : Store) : BitVec 32 := crc32 (storeBytes x 0 15 ++ storeBytes x 16 (recLen / 4))

/-- MRAM_BLOCK_WRITTEN: the block being written completes; `good` tells whether it holds what was written, and for
block 0 whether the record reads back valid (R339, R342). A block that does not holds free values.
(DESIGN CHOICE, log 18.) -/
def blockWritten (good : Bool) (s : State) : State :=
  match s.cals.store with
  | none => s
  | some x =>
    let base := if x.slot = 0 then 0 else 0x100000
    let check := if x.block = 0 then storeCheck x else 0#32
    let s1 := forN 512 (fun i t =>
      let off := 2048 * x.block + 4 * i
      if off < recLen then t.setMramW (base + off)
        (if good then storeWord x check off else (Config.freeWord (s.free + i)).setWidth 32)
      else t) s
    let s2 : State := (if good then s1 else { s1 with free := s.free + 512 }).inc bCal F.Cal.CSTORE.DONE 1
    let ovr := fun (code : Nat) (t : State) => (t.updCals (fun c => { c with store := none })).wr bCal F.Cal.CSTAT.STORE code
    if x.stop then ovr 3 s2
    else if x.block = 0 then
      if good ∧ !x.bad then
        (((ovr 2 s2).wr bCal F.Cal.CSTAT.REC (x.slot + 1)).wr bCal F.Cal.CSTAT.RECSEQ x.seq).updCals (fun c => { c with
          recSeq := x.seq, storedAt := some s.cycle })
      else ovr 4 s2
    else s2.updCals (fun c => { c with store := some { x with block := if x.block = 144 then 0 else x.block + 1,
                                                              bad := x.bad || !good } })

/-- The record at an MRAM address is valid (R338). -/
def State.recValid (s : State) (base : Nat) : Bool :=
  s.mramW base == 0x5b51ca1b#32 && s.mramW (base + 4) == 0x5b5120a2#32 && s.mramW (base + 16) == BitVec.ofNat 32 recLen &&
  (s.mramW (base + 20)).toNat % 65536 == 1 &&
  s.mramW (base + 60) == crc32 (s.mramBytes base 60 ++ s.mramBytes (base + 64) (recLen - 64))

/-- SEQ of the record at an MRAM address. -/
def State.recSeqAt (s : State) (base : Nat) : Nat := (s.mramW (base + 8)).toNat + 2 ^ 32 * (s.mramW (base + 12)).toNat

/-- Skein k, at power good, takes CAL's values at once; the run after power-up is due (R340). -/
def calTake (k : Nat) (s : State) : State :=
  let units := (s.skein k).units.zipIdx.map (fun p => { p.1 with table := unpackTable (s.calGet (rSk k + 8 * p.2) 8) })
  let cells := (List.range 32).map (fun i => s.calGet (rSk k + 0x200 + 2 * i) 2 % 64)
  let s1 := s.updSkein k (fun z => { z with units := units, cells := cells, cellTarget := cells, calDone := true, firstDue := true })
  let s2 := s1.wrInt (bCal + 8 * k) F.Cal.CSKTEMP.TCAL (s.calHalf (rSk k + 0x240))
  forN 16 (fun c t =>
    let g := 16 * k + c
    let p := t.rd (bCh g) F.Ch.PESTAT.ACTIVE_PATH
    let t1 := (t.wrInt (bCh g) F.Ch.CAPTRIM.TRIM_CH (t.calHalf (rPath g p 1 + 3))).wrInt (bCh g) F.Ch.CAPTRIM.TRIM_CL
      (t.calHalf (rPath g p 0 + 3))
    let t2 := (t1.wrInt (bCh g) F.Ch.DSKEW.DSK_R (t.calHalf (rCh g + 0x160))).wrInt (bCh g) F.Ch.DSKEW.DSK_F
      (t.calHalf (rCh g + 0x162))
    let t3 := t2.updChan g (fun x => { x with lvlTrim := (List.range 4).map (fun j => t.calHalf (rCh g + 0xc0 + 2 * j)) })
    forN 4 (fun i u => u.wr (bCal + 8 * g) { off := F.Cal.CCHQ.PAIR.off, hi := 34 + 3 * i, lo := 32 + 3 * i }
      (t.calGet (rPath g (i / 2) (i % 2)) 1)) t3) s2

/-- CAL_RECORD_LOAD: the valid record with the higher SEQ, else the factory record, else nominal values (R340). -/
def recordLoad (s : State) : State :=
  if s.rd bCal F.Cal.CSTAT.READY = 1 then s
  else
    let a := s.recValid 0
    let b := s.recValid 0x100000
    let rec_ := if a ∧ (!b ∨ s.recSeqAt 0x100000 ≤ s.recSeqAt 0) then 1 else if b then 2
      else if s.recValid 0x200000 then 3 else 0
    let base := (rec_ - 1) * 0x100000
    let s1 :=
      if rec_ = 0 then s.wr bCal F.Cal.CSTAT.NOREC 1
      else
        let copy := (s.mram.filter (fun p => decide (base + 64 ≤ p.1 ∧ p.1 < base + recLen))).map (fun p => (p.1 - base, p.2))
        let t := s.updCals (fun c => { c with copy := copy, nominal := false, recSeq := s.recSeqAt base })
        (t.wr bCal F.Cal.CSTAT.RECSEQ (s.recSeqAt base)).updTbs (fun x => { x with pllCode := BitVec.ofNat 16 (t.calGet 0x40 2) })
    let s2 := (s1.wr bCal F.Cal.CSTAT.REC rec_).wr bCal F.Cal.CSTAT.READY 1
    forN 32 (fun k t => if t.domOn (32 + k) then calTake k t else t) s2

/-- A host write of a 32-bit word of the MRAM window (R342). -/
def opMramWrite (off : Nat) (w : BitVec 32) (s : State) : State :=
  let page := s.rd bCal F.Cal.MRPAGE.PAGE
  if 48 ≤ page ∧ s.rd bCal F.Cal.MRPAGE.WEN = 1 then s.setMramW (page * 65536 + off / 4 * 4) w
  else s.raise bCal F.Cal.CSTAT.MRWERR 0

/-! ### Meanings -/

/-- PATH_SWAP (R29-R31, R327). -/
def execPathSwap (k : Fin 32) (c : Fin 16) (agreed : Nat) (s : State) : Outcome State Fault Refusal :=
  act s (pathSwap k c agreed)

/-- VERNIER_WITHDRAW (R60, R322). -/
def execVernierWithdraw (k : Fin 32) (s : State) : Outcome State Fault Refusal := act s (vernWithdraw k)

/-- VERNIER_CAL_COMPLETE (R322-R324). -/
def execVernierCalComplete (k : Fin 32) (u : Fin 52) (h : List Nat) (s : State) : Outcome State Fault Refusal :=
  act s (vernCal k u h)

/-- CALCMD_RUN (R334). -/
def execCalcmdRun (s : State) : Outcome State Fault Refusal := act s (cmdAccess bCal false false opCalRun)

/-- CALCMD_STORE (R339, R342). -/
def execCalcmdStore (s : State) : Outcome State Fault Refusal := act s (cmdAccess bCal false false (calStore false))

/-- CALCMD_DESKEW (R330). -/
def execCalcmdDeskew (s : State) : Outcome State Fault Refusal := act s (cmdAccess bCal false false opDeskew)

/-- CALCMD_ABORT (R334). -/
def execCalcmdAbort (s : State) : Outcome State Fault Refusal := act s (cmdAccess bCal false false calAbort)

/-- DESKEW_LISTEN_END (R330). -/
def execDeskewListenEnd (k : Fin 32) (c : Fin 16) (s : State) : Outcome State Fault Refusal :=
  act s (listenEnd k c)

/-- DESKEW_RELISTEN (R330). -/
def execDeskewRelisten (k : Fin 32) (c : Fin 16) (s : State) : Outcome State Fault Refusal := act s (relisten k c)

/-- DESKEW_PULSE_END (R331). -/
def execDeskewPulseEnd (k : Fin 32) (c : Fin 16) (s : State) : Outcome State Fault Refusal :=
  act s (pulseEnd k c)

/-- DLCELL_PASS (R325). -/
def execDlcellPass (k : Fin 32) (h : List Nat) (s : State) : Outcome State Fault Refusal := act s (dlPass k h)

/-- DLCELL_TRIM_STEP (R326). -/
def execDlcellTrimStep (k : Fin 32) (s : State) : Outcome State Fault Refusal := act s (dlStep k)

/-- CMPPATH_CAL_COMPLETE (R327, R328). -/
def execCmppathCalComplete (k : Fin 32) (c : Fin 16) (ch cl : CmpCal) (s : State) : Outcome State Fault Refusal :=
  act s (cmpCal k c ch cl)

/-- LVLDAC_TRIM_STEP (R329). -/
def execLvldacTrimStep (k : Fin 32) (c : Fin 16) (dac : Fin 4) (err : Int) (s : State) : Outcome State Fault Refusal :=
  act s (lvlStep k c dac err)

/-- TBPLL_CAL (R333). -/
def execTbpllCal (gain : Int) (code : BitVec 16) (s : State) : Outcome State Fault Refusal := act s (pllCal gain code)

/-- CAL_TRIGGERED_RUN (R334). -/
def execCalTriggeredRun (k : Fin 32) (s : State) : Outcome State Fault Refusal := act s (trigRun k)

/-- MRAM_BLOCK_WRITTEN (R339). -/
def execMramBlockWritten (good : Bool) (s : State) : Outcome State Fault Refusal := act s (blockWritten good)

/-- CAL_RECORD_LOAD (R340). -/
def execCalRecordLoad (s : State) : Outcome State Fault Refusal := act s recordLoad

/-- MRAM_WINDOW_WRITE (R342). -/
def execMramWindowWrite (off : BitVec 16) (w : BitVec 32) (s : State) : Outcome State Fault Refusal :=
  act s (fun t => opMramWrite off.toNat w (touch (tMram + off.toNat) t))

end Sys2Proof.Machine
end

