-- ==== Sys2Proof/Machine/Control.lean ====
section
/-! DEFINITION. The control instructions and their events (R160-R166), but for the barrier's release. -/

namespace Sys2Proof.Machine

open Host

/-- REG, bit 43, and the unused rest of SRCB (R155, R160). -/
def regForm (o : TymOps) : Bool := o.srcb.getLsbD 3
def srcbClean (o : TymOps) : Bool := o.srcb.toNat % 8 == 0

/-- DST, SRCA and SRCB unused. -/
def noRegs (o : TymOps) : Bool := o.dst == 0#4 && o.srca == 0#4 && o.srcb == 0#4

/-- A control instruction: DST unused, SRCA used in the register form alone. -/
def ctlLegal (o : TymOps) (immMask regMask : Nat) : Bool :=
  o.dst == 0#4 && srcbClean o && (regForm o || o.srca == 0#4) && immOnly o (if regForm o then regMask else immMask)

/-- The register read in the register form. -/
def ctlReads (o : TymOps) : List Dst := if regForm o then [.g o.srca.toNat] else []

/-- The legality of the control instructions (R161-R166). -/
def bareLegal (o : TymOps) : Bool := noRegs o && immOnly o 0
def jmpLegal (o : TymOps) : Bool := ctlLegal o (2 ^ 38 + 0xffffff) (2 ^ 38)
/-- JCC reads TEST, of which 3 is ILLEGAL, only where COND names a predicate (R161). (DEDUCED, log 72.) -/
def jccLegal (o : TymOps) : Bool :=
  noRegs o && immOnly o (7 * 2 ^ 36 + 0xffffff) && (!o.cond.getLsbD 3 || immF o 37 36 != 3)
def callLegal (o : TymOps) : Bool := ctlLegal o 0xffffff 0
def loopLegal (o : TymOps) : Bool := ctlLegal o (2 ^ 40 - 1) 0xffffff
def rptLegal (o : TymOps) : Bool := ctlLegal o (2 ^ 32 - 1) 0
def waittLegal (o : TymOps) : Bool := ctlLegal o (2 ^ 39 - 1) 0
def waiteLegal (o : TymOps) : Bool := o.srca == 0#4 && o.srcb == 0#4 && immF o 15 6 == 0 && immF o 5 0 != 0
def syncbLegal (o : TymOps) : Bool := o.srcb == 0#4 && immOnly o 0x1ffff

/-- The innermost loop popped, or a STACK fault where none is open (R161, R162). -/
def popLoop (k : Nat) (then_ : State → State) (s : State) : State :=
  match (s.eng k).loops with
  | [] => engineFault k 2 s
  | _ :: t => then_ ((s.updEng k (fun e => { e with loops := t })).wr (bEng k) F.Eng.ESTAT.LOOP_DEPTH t.length)

/-- A jump that pops the innermost loop where X = 1. -/
def jumpX (k target : Nat) (x : Bool) (s : State) : State :=
  if x then popLoop k (jumpTo k target 2) s else jumpTo k target 2 s

/-- NOP (R161). -/
def execTymNop (k : Fin 32) (o : TymOps) (s : State) : Outcome State Fault Refusal :=
  act s (tymStep k 0x00#8 o [] (bareLegal o) true (s.condOk k o.cond) false (advance k 1))

/-- JMP (R161). -/
def execTymJmp (k : Fin 32) (o : TymOps) (s : State) : Outcome State Fault Refusal :=
  act s (tymStep k 0x01#8 o (ctlReads o) (jmpLegal o) true (s.condOk k o.cond) false
    (jumpX k (if regForm o then (s.g k o.srca.toNat).toNat else immF o 23 0) (o.imm.getLsbD 38)))

/-- Whether JCC jumps (R161): the flag condition, or TEST on pj. (DEDUCED, log 72.) -/
def jccTaken (s : State) (k : Nat) (o : TymOps) : Bool :=
  if o.cond.toNat < 8 then flagCond (s.flags k) o.cond.toNat
  else
    let p := s.p k (o.cond.toNat - 8)
    match immF o 37 36 with
    | 0 => p != 0
    | 1 => p == 0
    | _ => p == s.active k

/-- JCC (R161): reads COND as its branch condition. -/
def execTymJcc (k : Fin 32) (o : TymOps) (s : State) : Outcome State Fault Refusal :=
  act s (tymStep k 0x02#8 o [] (jccLegal o) true true false
    (fun t => if jccTaken s k o then jumpX k (immF o 23 0) (o.imm.getLsbD 38) t else advance k 1 t))

/-- CALL (R161): pushes PC + 1; a 17th entry is a STACK fault. -/
def execTymCall (k : Fin 32) (o : TymOps) (s : State) : Outcome State Fault Refusal :=
  act s (tymStep k 0x03#8 o (ctlReads o) (callLegal o) true (s.condOk k o.cond) false
    (fun t =>
      let cs := (t.eng k).calls
      if 16 ≤ cs.length then engineFault k 2 t
      else jumpTo k (if regForm o then (s.g k o.srca.toNat).toNat else immF o 23 0) 2
        ((t.updEng k (fun e => { e with calls := (t.pc k + 1) :: cs })).wr (bEng k) F.Eng.ESTAT.CALL_DEPTH (cs.length + 1))))

/-- RET (R161): pops PC; an empty stack is a STACK fault, the return of a CALL at the last PC ILLEGAL (R175). -/
def execTymRet (k : Fin 32) (o : TymOps) (s : State) : Outcome State Fault Refusal :=
  act s (tymStep k 0x04#8 o [] (bareLegal o) true (s.condOk k o.cond) false
    (fun t => match (t.eng k).calls with
      | [] => engineFault k 2 t
      | a :: cs =>
        if 2 ^ 24 ≤ a then engineFault k 1 t
        else jumpTo k a 2 ((t.updEng k (fun e => { e with calls := cs })).wr (bEng k) F.Eng.ESTAT.CALL_DEPTH cs.length)))

/-- LOOP (R162): pushes start, end and count; a count of 0 jumps to end + 1, ILLEGAL past the last PC (R175); a 9th entry
is a STACK fault. -/
def execTymLoop (k : Fin 32) (o : TymOps) (s : State) : Outcome State Fault Refusal :=
  act s (tymStep k 0x05#8 o (ctlReads o) (loopLegal o) true (s.condOk k o.cond) false
    (fun t =>
      let n := if regForm o then (s.g k o.srca.toNat).toNat % 2 ^ 32 else immF o 39 24
      let ls := (t.eng k).loops
      if n = 0 then
        if 2 ^ 24 ≤ immF o 23 0 + 1 then engineFault k 1 t else jumpTo k (immF o 23 0 + 1) 2 t
      else if 8 ≤ ls.length then engineFault k 2 t
      else goesOn k (fun t => advance k 1
        ((t.updEng k (fun e => { e with loops := { start := t.pc k + 1, stop := immF o 23 0, cnt := n } :: ls })).wr
          (bEng k) F.Eng.ESTAT.LOOP_DEPTH (ls.length + 1))) t))

/-- ENDL (R162). -/
def execTymEndl (k : Fin 32) (o : TymOps) (s : State) : Outcome State Fault Refusal :=
  act s (tymStep k 0x06#8 o [] (bareLegal o) true (s.condOk k o.cond) false
    (fun t => match (t.eng k).loops with
      | [] => engineFault k 2 t
      | l :: ls =>
        if l.stop ≠ t.pc k then engineFault k 2 t
        else if 1 < l.cnt then jumpTo k l.start 1 (t.updEng k (fun e => { e with loops := { l with cnt := l.cnt - 1 } :: ls }))
        else goesOn k (popLoop k (advance k 1)) t))

/-- RPT (R163): the next instruction runs count times; a count of 0 skips it, and neither then nor where RPT is not
executed under its COND is a control instruction behind it a fault. (DEDUCED, log 136.) -/
def execTymRpt (k : Fin 32) (o : TymOps) (s : State) : Outcome State Fault Refusal :=
  act s (tymStep k 0x07#8 o (ctlReads o) (rptLegal o) true (s.condOk k o.cond) false
    (fun t =>
      let n := if regForm o then (s.g k o.srca.toNat).toNat % 2 ^ 32 else immF o 31 0
      if n = 0 then
        if 2 ^ 24 ≤ t.pc k + 2 then engineFault k 1 t else jumpTo k (t.pc k + 2) 1 t
      else goesOn k (fun t => (advance k 1 t).updEng k (fun e => { e with rpt := some n })) t))

/-- HALT (R138, R147): the engine waits at the barrier. Its PC stays that of HALT until it has halted, while SYNCB, WAITT,
WAITE and MATCH move on as they begin to wait: so EFAULT.PC of a fault in that time names HALT. (DESIGN CHOICE, log 160.) -/
def execTymHalt (k : Fin 32) (o : TymOps) (s : State) : Outcome State Fault Refusal :=
  act s (tymStep k 0x08#8 o [] (bareLegal o) true (s.condOk k o.cond) false
    (fun t => waitFor k .halt t))

/-- WAITT (R164). -/
def execTymWaitt (k : Fin 32) (o : TymOps) (s : State) : Outcome State Fault Refusal :=
  act s (tymStep k 0x09#8 o (ctlReads o) (waittLegal o) true (s.condOk k o.cond) false
    (fun t =>
      if regForm o then
        let a := (s.g k o.srca.toNat).toNat % coarseMod
        if s.reached a then advance k 1 t else goesOn k (fun t => waitFor k (.waittAt a) (advance k 1 t)) t
      else
        let n := max (immF o 38 0) 1
        if n = 1 then advance k 1 t else goesOn k (fun t => waitFor k (.waitt (s.cycle + n)) (advance k 1 t)) t))

/-- WAITT_EXPIRY (R164): the wait's cycle or coarse count has come. -/
def execWaittExpiry (k : Fin 32) (s : State) : Outcome State Fault Refusal :=
  act s (fun s =>
    match (s.eng k).wait with
    | .waitt u => if s.engState k = 3 ∧ u ≤ s.cycle then resumeAt k s.cycle s else s
    | .waittAt a => if s.engState k = 3 ∧ s.reached a then resumeAt k s.cycle s else s
    | _ => s)

/-- No vector of engine k is before the end of its period or waits for its judgement (R138, R188, R197). -/
def State.vidle (s : State) (k : Nat) : Bool :=
  (match (s.vu k).lastE with | none => true | some e => decide (e + 24 * ftPerNs ≤ s.eft)) &&
    (List.range 16).all (fun c => (s.chan (16 * k + c)).cmps.isEmpty)

/-- The events present for engine k in the layout of R165; `issued` is the cycle in which a WAITE issued, for TICK.
The vector unit is idle with nothing in its queue, no line in flight, an empty FIFO, no run open and every judgement
final. (DEDUCED, log 75.) -/
def State.events (s : State) (k : Nat) (issued : Option Nat) : Nat :=
  let b := bSk k
  let fifo := s.rd b F.Sk.VSTAT.FIFO_LEVEL
  let mark := s.rd b F.Sk.VCFG.LOWMARK
  let e := s.eng k
  b2n ((s.vu k).vq.isEmpty && (s.vu k).lines.isEmpty && decide (fifo = 0 ∧ s.rd b F.Sk.VSTAT.RUN = 0) && s.vidle k) + 2 * b2n (decide (fifo < (if mark = 0 then 4096 else mark))) +
    4 * b2n e.hitchEv + 8 * b2n (s.rd (bEng k) F.Eng.EHOSTSIG.SIG != 0) + 16 * b2n e.signalEv +
    32 * b2n (s.coarse % 1000 == 0 && (match issued with | some c => decide (c < s.cycle) | none => true))

/-- WAITE (R165). -/
def execTymWaite (k : Fin 32) (o : TymOps) (s : State) : Outcome State Fault Refusal :=
  act s (tymStep k 0x0a#8 o [] (waiteLegal o) true
    (s.condOk k o.cond) false
    (fun t =>
      let n := immF o 39 16
      goesOn k (fun t => waitFor k (.waite o.dst.toNat (immF o 5 0) s.cycle (if n = 0 then none else some (s.cycle + 1000 * n)))
        (advance k 1 t)) t))

/-- The bits of EHOSTSIG held since the start of the cycle. -/
def State.hostHeld (s : State) (k : Nat) : Nat :=
  let f := F.Eng.EHOSTSIG.SIG
  s.rd (bEng k) f &&& fget (tget regReset s.regs0 (bEng k + f.off)) f.hi f.lo

/-- The bits of EHOSTSIG that a WAITE reports: those held since the start of the cycle, if there are any (R165). -/
def State.hostSig (s : State) (k : Nat) : Nat :=
  if s.hostHeld k = 0 then s.rd (bEng k) F.Eng.EHOSTSIG.SIG else s.hostHeld k

/-- What is left of EHOSTSIG: a bit that software sets in the cycle of the clear stays for a later WAITE (R386). -/
def State.hostLeft (s : State) (k : Nat) : Nat :=
  let again := match (s.eng k).sigSet with
    | some (c, x) => if c = s.cycle ∧ s.hostHeld k ≠ 0 then x else 0
    | none => 0
  let gone := s.hostSig k - (s.hostSig k &&& again)
  s.rd (bEng k) F.Eng.EHOSTSIG.SIG - gone

/-- WAITE_EVENT (R165): an event of the mask is present; gd holds every masked one, the latched ones among them clear,
HOST reports and clears EHOSTSIG, and Z = 0. The events are those present when the event is found, not those of the next
issue 3 cycles later. (DEDUCED, log 75.) (DEDUCED, log 137.) -/
def execWaiteEvent (k : Fin 32) (s : State) : Outcome State Fault Refusal :=
  act s (fun s =>
    match (s.eng k).wait with
    | .waite d m issued _ =>
      let ev := s.events k (some issued) &&& m
      if s.engState k ≠ 3 ∨ ev = 0 then s
      else
        let host := ev.testBit 3
        let sig := if host then s.hostSig k else 0
        let s1 := setG k d (BitVec.ofNat 64 (ev + sig * 2 ^ 16)) s
        let s2 := if host then s1.wr (bEng k) F.Eng.EHOSTSIG.SIG (s.hostLeft k) else s1
        let s3 := s2.updEng k (fun e => { e with hitchEv := e.hitchEv && !ev.testBit 2, signalEv := e.signalEv && !ev.testBit 4 })
        resumeAt k (s.cycle + 3) (setFlags k { s.flags k with z := false } s3)
    | _ => s)

/-- WAITE_TIMEOUT (R165): gd = 0 and Z = 1. -/
def execWaiteTimeout (k : Fin 32) (s : State) : Outcome State Fault Refusal :=
  act s (fun s =>
    match (s.eng k).wait with
    | .waite d m issued (some t) =>
      if s.engState k ≠ 3 ∨ s.cycle < t ∨ s.events k (some issued) &&& m ≠ 0 then s
      else resumeAt k (s.cycle + 3) (setFlags k { s.flags k with z := true } (setG k d 0#64 s))
    | _ => s)

/-- SYNCB (R147, R166): the engine waits at the barrier with its value. -/
def execTymSyncb (k : Fin 32) (o : TymOps) (s : State) : Outcome State Fault Refusal :=
  act s (tymStep k 0x0b#8 o [.g o.srca.toNat] (syncbLegal o) true (s.condOk k o.cond) false
    (goesOn k (fun t => waitFor k (.syncb o.dst.toNat (s.g k o.srca.toNat) (immF o 15 0) (o.imm.getLsbD 16)) (advance k 1 t))))

end Sys2Proof.Machine
end

