-- ==== Sys2Proof/Machine/Dma.lean ====
section
/-! DEFINITION. MSI-X vectors (R400, R401) and the host DMA engines (R398, R399). -/

namespace Sys2Proof.Machine

open Host

/-! ### Vectors (R400, R401) -/

/-- HIF sends vector v, or, while its table entry is masked, sets its pending bit (R400, R401). -/
def sendVec (v : Nat) (s : State) : State :=
  if !s.domOn 84 then s
  else if s.rd (bHif + 16 * v) F.Hif.MSIX_DATA.MASK = 1 then s.setBit bHif F.Hif.MSIX_PBA v true
  else s.out (.msix v)

/-- A vector whose mask has been lifted goes out if it is pending (R401, the PCIe specification). -/
def msixUnmask (v : Nat) (s : State) : State :=
  if s.rd (bHif + 16 * v) F.Hif.MSIX_DATA.MASK = 0 ∧ s.bit bHif F.Hif.MSIX_PBA v then
    (s.setBit bHif F.Hif.MSIX_PBA v false).out (.msix v)
  else s

/-! ### Transfers (R398, R399) -/

/-- The transfer of DMA engine n ends with a code: CODE, SEQ, BUSY, the error bit and, with IRQ = 1, the vector. -/
def dmaFinish (n code : Nat) (s : State) : State :=
  let b := bDma n
  let s1 := ((s.wr b F.Hif.DMASTAT.CODE code).inc b F.Hif.DMASTAT.SEQ 1).wr b F.Hif.DMASTAT.BUSY 0
  let s2 := s1.flag bHif F.Hif.HIFERR.DMAERR (decide (code ≠ 0))
  let d := s.dma n
  let s3 := if d.irq then sendVec d.vec s2 else s2
  s3.updDma n (fun _ => {})

/-- The part of a transfer that its port has not taken up is dropped. -/
def dmaDropWait (n : Nat) (s : State) : State :=
  s.updPort (64 + n) (fun p => { p with wait := p.wait.filter (fun r => r.why != .dma n) })

/-- DMACTL.GO (R398). (DEDUCED, log 55.) -/
def opDmaGo (n : Nat) (s : State) : State :=
  let b := bDma n
  if s.rd b F.Hif.DMASTAT.BUSY = 1 then s.raise bHif F.Hif.HIFERR.DMAERR 0
  else
    let mem := s.rd b F.Hif.DMAMEM * 4
    let len := s.rd b F.Hif.DMALEN.LEN * 4
    let d : Dma := { host := s.rd b F.Hif.DMAHOST * 4, mem := mem, len := len, toHost := s.rd b F.Hif.DMACTL.DIR == 1,
                     irq := s.rd b F.Hif.DMACTL.IRQ == 1, vec := s.rd b F.Hif.DMACTL.VEC }
    let s1 := (s.updDma n (fun _ => d)).wr b F.Hif.DMASTAT.BUSY 1
    if len = 0 ∨ 2 ^ 34 < mem + len then dmaFinish n 4 s1
    else if s.rd bHif F.Hif.HIFCTL.DMAEN = 0 then dmaFinish n 5 s1
    else if s.frozen then dmaFinish n 1 s1
    else s1.updPort (64 + n) (fun p => { p with wait := p.wait ++
      [{ addr := mem, len := len, write := none, why := .dma n, at_ := 0, issued := false, fromHost := !d.toHost }] })

/-- DMACTL.ABORT: no further request is issued (R399). -/
def opDmaAbort (n : Nat) (s : State) : State :=
  if s.rd (bDma n) F.Hif.DMASTAT.BUSY = 1 then
    dmaDropWait n (s.updDma n (fun d => { d with stop := if d.stop = 0 then 3 else d.stop }))
  else s

/-- The length of the host request that begins at byte `at_` of a transfer: at most `size`, not across a 4 KB boundary of
the host, not past the end (R398). -/
def hostPiece (d : Dma) (size at_ : Nat) : Nat := min (min size (4096 - (d.host + at_) % 4096)) (d.len - at_)

/-- The negotiated sizes of the endpoint's writes and reads in bytes (R398, R444). -/
def State.mpsBytes (s : State) : Nat := 128 * 2 ^ s.rd bHif F.Hif.HIFSTAT.MPS
def State.mrrsBytes (s : State) : Nat := 128 * 2 ^ s.rd bHif F.Hif.HIFSTAT.MRRS

/-- The next read from the host for a transfer that needs its bytes up to `upto`. -/
def hostAsk (n upto : Nat) (s : State) : State :=
  let d := s.dma n
  let k := hostPiece d s.mrrsBytes d.asked
  if upto ≤ d.asked ∨ k = 0 then s
  else (s.updDma n (fun d => { d with asked := d.asked + k })).out (.hostRead (d.host + d.asked) k)

/-- The next write to the host: it goes out once its bytes are there, or, with `all`, with those that are. -/
def hostPut (n : Nat) (all : Bool) (s : State) : State :=
  let d := s.dma n
  let from_ := d.moved - d.buf.length
  let k := hostPiece d s.mpsBytes from_
  if d.buf = [] ∨ k = 0 ∨ (d.buf.length < k ∧ !all) then s
  else (s.updDma n (fun d => { d with buf := d.buf.drop k })).out (.hostWrite (d.host + from_) (d.buf.take k))

/-- The reads from the host that a 128-byte unit begins with, and the writes that one completes: no more than four, since
a request is at least 128 bytes long but at a 4 KB boundary and at the end. -/
def hostAsks (n upto : Nat) (s : State) : State := forN 4 (fun _ => hostAsk n upto) s
def hostPuts (n : Nat) (all : Bool) (s : State) : State := forN (if all then 16 else 4) (fun _ => hostPut n all) s

/-- One request of DMA engine n has completed: an HBM-to-host transfer writes the bytes to the host; what a transfer that
stops has read goes out with its last request (R398, R399). -/
def dmaMoved (n : Nat) (bs : List Byte) (s : State) : State :=
  if s.rd (bDma n) F.Hif.DMASTAT.BUSY = 0 then s
  else
    let out := (s.dma n).toHost
    let s1 := s.updDma n (fun d => { d with moved := d.moved + bs.length, buf := if out then d.buf ++ bs else [] })
    hostPuts n (!s1.portHas (64 + n) (.dma n)) s1

/-- A transfer with nothing outstanding ends; a PCIe error ends it at its next request boundary (R399). What it
has read goes out first. A freeze holds it. -/
def dmaEndOp (n : Nat) (pcieError : Bool) (s : State) : State :=
  if s.rd (bDma n) F.Hif.DMASTAT.BUSY = 0 ∨ s.frozen ∨ !s.domOn 84 then s
  else
    let s1 := if pcieError then dmaDropWait n (s.updDma n (fun d => { d with stop := if d.stop = 0 then 2 else d.stop }))
              else s
    if s1.portHas (64 + n) (.dma n) then s1 else dmaFinish n (s1.dma n).stop (if (s1.dma n).stop = 2 then s1 else hostPuts n true s1)

/-- Every transfer in progress ends with a code. -/
def dmaEndAll (code : Nat) (s : State) : State :=
  forN 8 (fun n t => if t.rd (bDma n) F.Hif.DMASTAT.BUSY = 1 then dmaFinish n code (dmaDropWait n t) else t) s

/-! ### Meanings -/

/-- DMA_GO (R398). -/
def execDmaGo (n : Fin 8) (s : State) : Outcome State Fault Refusal := act s (cmdAccess (bDma n + 0x100) false false (opDmaGo n))

/-- DMA_ABORT (R399). -/
def execDmaAbort (n : Fin 8) (s : State) : Outcome State Fault Refusal :=
  act s (cmdAccess (bDma n + 0x100) false false (opDmaAbort n))

/-- DMA_END (R399). -/
def execDmaEnd (n : Fin 8) (pcieError : Bool) (s : State) : Outcome State Fault Refusal := act s (dmaEndOp n pcieError)

end Sys2Proof.Machine
end

