-- ==== Sys2Proof/Machine/Irq.lean ====
section
/-! DEFINITION. Interrupt sources and their reports (R397-R400, R428, R429). -/

namespace Sys2Proof.Machine

open Host

/-- Some skein whose timing domain is on satisfies a test. -/
def State.anySkein (s : State) (p : Nat → Bool) : Bool := (List.range 32).any (fun k => s.domOn (32 + k) && p k)

/-- A one-bit field is 1. -/
def State.on (s : State) (b : Nat) (f : Fld) : Bool := decide (s.rd b f = 1)

/-- Interrupt source i is asserted (R428); a source whose status lies in a domain that is off is deasserted. -/
def State.irqSrc (s : State) (i : Nat) : Bool :=
  if i < 32 then s.domOn (32 + i) && decide (s.engState i = 6)
  else match i with
    | 32 => s.rd bCtl F.Ctl.ERR.VOTEERR + s.rd bCtl F.Ctl.ERR.CFGMIS + s.rd bCtl F.Ctl.ERR.PARTIAL +
        s.rd bCtl F.Ctl.ERR.LOCKVIOL + s.rd bCtl F.Ctl.ERR.OFFDOMAIN != 0
    | 33 => s.rd bThm F.Thm.THMSTAT.STATE != 0 || s.on bThm F.Thm.THMSTAT.SENSFAIL || s.on bThm F.Thm.THMSTAT.PDERR ||
        s.on bThm F.Thm.AVSSTAT.ALARM || s.on bThm F.Thm.AVSSTAT.LIMIT || s.on bThm F.Thm.AVSSTAT.BUSERR
    | 34 => s.on bTb F.Tb.TBSTAT.LOSS || s.on bTb F.Tb.SPLSTAT.SLIP
    | 35 => s.on bCal F.Cal.CSTAT.STOREDROP || s.on bCal F.Cal.CSTAT.MRWERR || s.rd bCal F.Cal.CSTAT.STORE == 4
    | 36 => s.frozen || s.on bMem F.Mem.MSTAT.LOST || s.on bMem F.Mem.MSTAT.MAPERR || s.on bMem F.Mem.MSTAT.TSETERR ||
        s.on bMem F.Mem.MSTAT.RELREFUSED
    | 37 => fget (s.reg (bLnk + F.Lnk.LSTAT.POS.off)) 23 16 != 0
    | 38 => s.domOn 84 && (s.on bHif F.Hif.HIFERR.DMAERR || s.on bHif F.Hif.HIFERR.UR || s.on bHif F.Hif.HIFERR.POISON)
    | 39 => s.domOn 87 && (List.range 4).any (fun d => s.on (bDom d) F.Trs.DSTAT.NOMASTER || s.on (bDom d) F.Trs.DSTAT.ARMLATE)
    | 40 => s.domOn 87 && (List.range 64).any (fun j => s.on (bStr j) F.Trs.SSTAT.GAP || s.on (bStr j) F.Trs.SSTAT.HRERR)
    | 41 => s.anySkein (fun k => s.on (bSk k) F.Sk.TCSTAT.DLL_ERR || s.on (bSk k) F.Sk.TCSTAT.ACCT_VOID ||
        s.on (bSk k) F.Sk.TCSTAT.POOL_DEGRADED)
    | 42 => s.anySkein (fun k => s.rd (bSk k) F.Sk.MAUERR.CFGERR != 0)
    | 43 => s.anySkein (fun k => s.on (bSk k) F.Sk.VSTAT.GATEIGN || s.on (bSk k) F.Sk.VSTAT.LATERUN ||
        s.on (bSk k) F.Sk.VSTAT.TSETIGN || s.on (bSk k) F.Sk.VSTAT.SUBEMPTY || s.on (bSk k) F.Sk.VSTAT.BADCODE || s.on (bEng k) F.Eng.ESTAT.LATESTART ||
        s.on (bEng k) F.Eng.ESTAT.WDROP || s.on (bEng k) F.Eng.ESTAT.BRAIDERR)
    | 44 => s.anySkein (fun k => (List.range 16).any (fun c => s.on (bCh (16 * k + c)) F.Ch.EPSTAT.POSCLAMP ||
        s.on (bCh (16 * k + c)) F.Ch.EPSTAT.WREV || s.on (bCh (16 * k + c)) F.Ch.EPSTAT.TIGHT ||
        s.on (bCh (16 * k + c)) F.Ch.EPSTAT.DSK_LIMIT))
    | _ => false

/-- IRQSTAT (R397). -/
def State.irqStat (s : State) : Nat := ((List.range 45).map (fun i => if s.irqSrc i then 2 ^ i else 0)).sum

/-- The sources asserted and enabled (R397). -/
def State.irqUp (s : State) : Nat := s.irqStat &&& s.rd bCtl F.Ctl.IRQEN

/-- Bit i of a mask cleared. -/
def bitOff (m i : Nat) : Nat := if m.testBit i then m - 2 ^ i else m

/-- Pending bit i of position p has gone from 0 to 1: its vector goes out where EN of the source is 1 (R400). -/
def irqVec (i : Nat) (s : State) : State :=
  let w := s.reg (bHif + 0x300 + 8 * (i / 8))
  if fget w (8 * (i % 8) + 7) (8 * (i % 8) + 7) = 1 then sendVec (fget w (8 * (i % 8) + 5) (8 * (i % 8))) s else s

/-- Source i of position p is reported to the head device (R400): a pending bit that was clear sends its vector. In the
cycle of a host clear the bit stays set and has not changed (R386). -/
def irqAtHead (p i : Nat) (s : State) : State :=
  let b := bHif + 8 * p
  if !s.domOn 84 then s
  else
    let s1 := s.raise b F.Hif.IRQPEND i
    if s.bit b F.Hif.IRQPEND i ∨ (tget regReset s.regs0 (b + F.Hif.IRQPEND.off)).getLsbD i then s1 else irqVec i s1

/-- A report can reach the head device: it is this one and its HIF runs, or discovery is done (R431).
(DEDUCED, log 53.) -/
def State.irqPath (s : State) : Bool := if s.isHead then s.domOn 84 else s.rd bLnk F.Lnk.LSTAT.READY == 1

/-- This device reports source i (R397): at the head directly, elsewhere by an IRQ packet to position 0; without a path
the report is kept (R431). (DEDUCED, log 53.) -/
def irqReport (i : Nat) (s : State) : State :=
  if !s.irqPath then { s with irqLatch := s.irqLatch ||| 2 ^ i }
  else
    let s1 : State := { s with irqSent := s.irqSent ||| 2 ^ i, irqLatch := bitOff s.irqLatch i }
    if s.isHead then irqAtHead s.pos i s1 else sendTo 0x23 i 0 1 [] s1

/-- At the end of a cycle: a source asserted and enabled in it is to be reported, even if it deasserts (R429); one that is
not counts as newly asserted when it is again (R397). -/
def irqWatch (s : State) : State :=
  let up := s.irqUp
  { s with irqLatch := s.irqLatch ||| (up - (up &&& s.irqSent)), irqSent := s.irqSent &&& up }

/-- IRQ_SOURCE_REPORT: an enabled source that has become asserted is reported once (R397, R429). (DEDUCED, log 53.) -/
def irqNew (i : Nat) (s : State) : State :=
  if s.irqLatch.testBit i ∨ (s.irqUp.testBit i ∧ !s.irqSent.testBit i) then irqReport i s else s

/-- IRQ_REPEAT: every 1 ms each source still asserted and enabled is reported again, and so is a report kept for want of a
path (R397, R431). -/
def irqAgain (s : State) : State :=
  if s.cycle < s.irqAt then s
  else
    let m := s.irqUp ||| s.irqLatch
    forN 45 (fun i t => if m.testBit i then irqReport i t else t) { s with irqAt := s.cycle + 1000000 }

/-- IRQ_SOURCE_REPORT (R397, R429). -/
def execIrqSourceReport (i : Fin 64) (s : State) : Outcome State Fault Refusal := act s (irqNew i)

/-- IRQ_REPEAT (R397). -/
def execIrqRepeat (s : State) : Outcome State Fault Refusal := act s irqAgain

/-- IRQ_PACKET (R400). -/
def execIrqPacket (hdr : PktHdr) (s : State) : Outcome State Fault Refusal :=
  act s (receive hdr 0x23 [] (fun t => if t.isHead then irqAtHead hdr.src (hdr.tag.toNat % 64) t else t))

end Sys2Proof.Machine
end

