-- ==== Sys2Proof/Machine/Stream.lean ====
section
/-! DEFINITION. Streams, capture rings and host rings (R224, R227, R234-R250, R314): the commit of records, gaps, rate
reduction, transport and delivery. -/

namespace Sys2Proof.Machine

open Host

/-! ### The capture ring (R224, R234, R245, R246) -/

/-- A record fits into the capture ring, and MEM is ready for its writes (R413, R414). -/
def State.ringFits (s : State) (i : Nat) (r : Rec) : Bool := s.memReady && decide (s.ringUsed i + 16 * r.units ≤ s.ringSize i)

/-- The window of a RAW record: 0 none, 1 before, 2 after the trigger. -/
def Rec.win (r : Rec) : Nat := if r.kind = 1 then r.flags / 2 % 4 else 0

/-- The 128-byte units that `n` bytes at `a` touch. -/
def unitsTouched (a n : Nat) : Nat := (a % 128 + n + 127) / 128

/-- Bytes written to HBM at `pos` of a ring of `size` bytes at `base`, wrapping at its end: through the stream's
capture-write port (R234, R265). (DEDUCED, log 87.) -/
def ringWrite (i seq base size pos : Nat) (bs : List Byte) (s : State) : State × Nat :=
  let n := 32 + s.rd (bStr i) F.Trs.S_SCFG.SK
  let room := size - pos
  let a := bs.take room
  let b := bs.drop room
  let s1 := portReq n (base + pos) a.length (some a) (.record i seq) s
  if b = [] then (s1, unitsTouched (base + pos) a.length)
  else (portReq n base b.length (some b) (.record i seq) s1, unitsTouched (base + pos) a.length + unitsTouched base b.length)

/-- The window of stream i has its POST-th record, or its stream is disabled: every open record is cut with LAST, and the
stream holds pre-trigger records again (R239, R249). -/
def windowEnd (i : Nat) (s : State) : State :=
  ((pushCut i s.nowFt true none s).updStrm i (fun x => { x with post := none, winRaw := 0 })).wr (bStr i) F.Trs.SSTAT.WINOPEN 0

/-- A record enters the capture ring with the next sequence number (R224, R234). Items of a windowed RAW record are taken
now (R247), and it counts in the window it was formed in (R239). -/
def commitRec (i : Nat) (r : Rec) (s : State) : State :=
  let b := bStr i
  let seq := s.rd b F.Trs.SSEQ
  let size := s.ringSize i
  let x := s.strm i
  let w := ringWrite i seq (s.rd b F.Trs.SRING.BASE * 128) size (x.wpos % size) (r.bytes seq) (s.inc b F.Trs.SSEQ 1)
  let s1 := w.1.updStrm i (fun x => { x with
    ring := x.ring ++ [{ rec_ := r, seq := seq, addr := x.wpos % size, writes := w.2, sent := false }],
    wpos := x.wpos + 16 * r.units })
  let mine := r.wno == x.wno
  let s2 := if r.win = 0 then s1
    else ((s1.inc b F.Trs.GENERATED (r.raw + r.dec)).inc b F.Trs.DECIMATED r.dec).updStrm i (fun x => { x with
      pend := x.pend + r.raw, decSince := x.decSince + r.dec, winRaw := if mine then x.winRaw + 1 else x.winRaw })
  let s3 := match r.win, (s2.strm i).post with
    | 2, some n => if !mine then s2 else if n ≤ 1 then windowEnd i s2 else s2.updStrm i (fun x => { x with post := some (n - 1) })
    | _, _ => s2
  format i s3

/-- A field of a mark's payload (R230). -/
def Rec.field (r : Rec) (off n : Nat) : Nat := leNat ((r.payload.drop off).take n)

/-- The counts of a DECIMATION or GAP mark that is gapped itself stay owed, to the next such mark (R422). -/
def restoreCounts (i : Nat) (r : Rec) (s : State) : State :=
  if r.kind ≠ 4 then s
  else if r.field 0 2 = 0x11 then s.updStrm i (fun x => { x with decSince := x.decSince + r.field 8 8 })
  else if r.field 0 2 = 0x10 then s.updStrm i (fun x => { x with
    gapRaw := x.gapRaw + r.field 8 8, gapRes := x.gapRes + r.field 16 4, gapMark := x.gapMark + r.field 20 4 })
  else s

/-- A record that cannot be written is gapped (R245, R246, R250): its items leave PENDING for GAPPED, and the pending
GAP mark counts it; a stream that has been disabled owes that mark (R249). -/
def gapRec (i : Nat) (r : Rec) (s : State) : State :=
  let b := bStr i
  let n := r.items
  let s1 := s.inc b F.Trs.GAPPED n
  let s2 := if r.win = 0 then s1.updStrm i (fun x => { x with pend := x.pend - n }) else s1.inc b F.Trs.GENERATED n
  let s3 := restoreCounts i r (gapBegin i s2)
  s3.updStrm i (fun x => { x with
    gapEnding := x.gapEnding || !s.strOn i,
    gapRaw := if r.kind = 1 then x.gapRaw + n else x.gapRaw,
    gapRes := if r.kind = 2 then x.gapRes + 1 else x.gapRes,
    gapMark := if r.kind = 4 ∨ r.kind = 5 then x.gapMark + 1 else x.gapMark })

/-- The SITE record at the head of an engine's record queue that names stream i, lowest engine first (R207, R246). -/
def State.siteHead (s : State) (i : Nat) : Option (Nat × Rec) :=
  (List.range 32).findSome? (fun k => match (s.eng k).recQ with
    | (j, r) :: _ => if j = i then some (k, r) else none
    | [] => none)

/-- A SITE record leaves its engine's queue; a stream that is not enabled takes none. -/
def takeSite (i : Nat) (s : State) : State :=
  match s.siteHead i with
  | none => s
  | some (k, r) =>
    let pop := fun (t : State) => t.updEng k (fun e => { e with recQ := e.recQ.drop 1 })
    let item := fun (t : State) => (t.inc (bStr i) F.Trs.GENERATED 1).updStrm i (fun x => { x with pend := x.pend + 1 })
    if !s.strOn i then pop s
    else if s.frozen then s
    else if (s.strm i).staging = [] ∧ s.ringFits i r then commitRec i r (item (pop s))
    else if (s.strm i).staging.length < 16 then (item (pop s)).updStrm i (fun x => { x with staging := x.staging ++ [r] })
    else s

/-- A RAW record waits for room in the capture ring, or for MEM; the first record of another kind behind it, or the head itself, is
committed where it fits, and else goes to the staging queue, or is gapped where that holds 16 (R246). -/
def noRoom (i : Nat) (s : State) : State :=
  let x := s.strm i
  match x.queue.find? (fun q => q.kind != 1) with
  | none => takeSite i s
  | some r =>
    let s1 := s.updStrm i (fun x => { x with queue := x.queue.erase r })
    if x.staging = [] ∧ s.ringFits i r then commitRec i r s1
    else if x.staging.length < 16 then s1.updStrm i (fun x => { x with staging := x.staging ++ [r] })
    else idleUpd i (gapRec i r s1)

/-- RECORD_COMMIT: the next record of stream i enters the capture ring, the staging queue first, or is gapped; while
the controller is frozen every record but a SITE record is gapped (R224, R246, R250). -/
def recordCommit (i : Nat) (s : State) : State :=
  if !s.domOn 87 then s
  else
    let x := s.strm i
    if s.frozen then
      match x.queue with
      | r :: t => idleUpd i (gapRec i r (s.updStrm i (fun x => { x with queue := t })))
      | [] => s
    else
      match x.staging with
      | r :: t => if s.ringFits i r then commitRec i r (s.updStrm i (fun x => { x with staging := t })) else noRoom i s
      | [] =>
        match x.queue with
        | r :: t => if s.ringFits i r then commitRec i r (s.updStrm i (fun x => { x with queue := t })) else noRoom i s
        | [] => takeSite i s

/-- RAW_RECORD_TIMEOUT: RTMO µs after its keyframe an open record of channel c closes (R227). -/
def rawTimeout (i c : Nat) (s : State) : State :=
  let r := s.rd (bStr i) F.Trs.S_SCFG.RTMO
  let us := if r = 0 then 10 else r
  let at_ := fun (y : Stamp) => (y.t / 512 + 1000 * us) * 512
  let due := fun (o : RawOpen) => match o.stamps with
    | y :: _ => o.c == c && o.cut.isNone && y.ep == s.loads && decide (0 ≤ delta (at_ y) s.nowFt)
    | [] => false
  format i (s.updStrm i (fun x => { x with opens := x.opens.map (fun o =>
    if due o then { o with cut := o.stamps.head?.map (fun y => at_ y % ftMod) } else o) }))

/-! ### Gaps (R245, R249, R250) -/

/-- The low watermark in force: at or above HW it acts as HW - 1 (R244). -/
def State.lowMark (s : State) (i : Nat) : Nat :=
  let hw := s.rd (bStr i) F.Trs.SRATE.HW
  let lw := s.rd (bStr i) F.Trs.SRATE.LW
  if hw ≤ lw then hw - 1 else lw

/-- F is below the low watermark. -/
def State.fillLow (s : State) (i : Nat) : Bool := decide (128 * s.ringUsed i < s.lowMark i * s.ringSize i)

/-- The GAP mark of stream i ending now (R231). -/
def gapMarkRec (s : State) (i : Nat) : Rec :=
  let x := s.strm i
  markRec 0x10 0 (BitVec.ofNat 64 x.gapRaw) (BitVec.ofNat 64 (x.gapRes % 2 ^ 32 + 2 ^ 32 * x.gapMark)) (x.gapStart.getD 0#64)
    (stampAt s.nowFt) s.holdover

/-- GAP_END: with F below LW, or after a freeze's release, the GAP mark, a KEYFRAME and any FREEZE mark owed are next
to commit, and raw capture resumes (R245, R250), once MEM is ready for them (R414). A stream disabled in a gap commits its GAP mark alone, as soon as it
fits in the ring or the staging queue (R249). -/
def gapEnd (i : Nat) (s : State) : State :=
  let x := s.strm i
  let b := bStr i
  if s.rd b F.Trs.SSTAT.GAP = 0 ∨ s.frozen ∨ !s.domOn 87 then s
  else
    let g := gapMarkRec s i
    let close := fun (t : State) => (t.wr b F.Trs.SSTAT.GAP 0).updStrm i (fun x => { x with
      gapStart := none, gapRaw := 0, gapRes := 0, gapMark := 0, gapEnding := false, frz := none })
    if x.gapEnding then
      if s.ringFits i g ∨ x.staging.length < 16 then
        idleUpd i (close ((s.inc b F.Trs.GENERATED 1).updStrm i (fun x => { x with queue := g :: x.queue, pend := x.pend + 1 })))
      else s
    else if s.strOn i ∧ s.memReady ∧ (x.frz.isSome ∨ s.fillLow i) then
      let dev := decide (s.rd b F.Trs.S_SCFG.DEVMARK = 1)
      let fz := match x.frz with
        | some (at_, cause, hold) => if dev then [markRec 0x32 0 (BitVec.ofNat 64 cause) 0#64 0#64 at_ hold] else []
        | none => []
      let rs := [g, keyframeRec s (stampAt s.nowFt)] ++ fz
      close ((s.inc b F.Trs.GENERATED rs.length).updStrm i (fun x => { x with
        queue := rs ++ x.queue, pend := x.pend + rs.length }))
    else s

/-! ### Rate reduction (R243, R244) -/

/-- A host ring's size (R236). -/
def State.hostSize (s : State) (h : Nat) : Nat :=
  let n := s.tq (tRing + 64 * h + 8) % 32
  2 ^ (if 12 ≤ n ∧ n ≤ 30 then n else 12)

/-- The host ring's free space. -/
def State.hostFree (s : State) (h : Nat) : Nat :=
  s.hostSize h - (s.tq (tRing + 64 * h + 16) - s.tq (tRing + 64 * h + 24))

/-- The host-ring condition of R244: the head device, which holds the table, judges it by the entry; what another device
knows of the host ring's free space the manual does not say, so there it is a free value. (DESIGN CHOICE, log 84.) -/
def State.hostLow (s : State) (i : Nat) : Bool :=
  if s.isHead then decide (128 * s.hostFree (64 * s.pos + i) < s.rd (bStr i) F.Trs.SRATE.HCRED * s.hostSize (64 * s.pos + i))
  else decide (Config.freeNat s.free % 2 = 1)

/-- What the mark of a change of level in the present cycle holds (R231). -/
def State.decMark (s : State) (old new cause : Nat) : DecMark :=
  { src := old + 16 * new + 256 * cause, ref := stampAt s.nowFt, hold := s.holdover }

/-- The level of a running stream changes (R227, R243, R244). -/
def setLevel (i new cause : Nat) (s : State) : State :=
  let old := s.rd (bStr i) F.Trs.SSTAT.LEVEL
  let s1 := format i ((pushCut i s.nowFt false (some (s.decMark old new cause)) s).wr (bStr i) F.Trs.SSTAT.LEVEL new)
  (s1.updStrm i (fun x => { x with lastChg := s.cycle })).fresh

/-- RATE_LEVEL_RISE (R244). -/
def levelRise (i : Nat) (s : State) : State :=
  let b := bStr i
  let l := s.rd b F.Trs.SSTAT.LEVEL
  let high := decide (s.rd b F.Trs.SRATE.HW * s.ringSize i ≤ 128 * s.ringUsed i)
  if s.strOn i ∧ s.rd b F.Trs.SRATE.AUTO = 1 ∧ l < 7 ∧ (high ∨ s.hostLow i) ∧
      (s.strm i).lastChg + 1000 * s.rd b F.Trs.SRATE.UPHOLD ≤ s.cycle then
    setLevel i (l + 1) (if high then 0 else 1) s
  else s

/-- RATE_LEVEL_FALL (R244). (DEDUCED, log 83.) -/
def levelFall (i : Nat) (s : State) : State :=
  let b := bStr i
  let l := s.rd b F.Trs.SSTAT.LEVEL
  if s.strOn i ∧ s.rd b F.Trs.SRATE.AUTO = 1 ∧ s.rd b F.Trs.SRATE.LVL < l ∧ s.fillLow i ∧ !s.hostLow i ∧
      (s.strm i).lastChg + 1000 * s.rd b F.Trs.SRATE.DNHOLD ≤ s.cycle then
    setLevel i (l - 1) 0 s
  else s

/-- SCFG, SRING, SWIN and SRATE of a disabled, IDLE stream take their staged copies; the level follows LVL (R244).
(DEDUCED, log 81.) -/
def applyStream (snap : Table Word) (i : Nat) (s : State) : State :=
  let b := bStr i
  let s1 := forL [b + 0x1008, b + 0x1010, b + 0x1018, b + 0x1020] (applyReg snap) s
  let l := s1.rd b F.Trs.SSTAT.LEVEL
  let v := s1.rd b F.Trs.SRATE.LVL
  let new := if s1.rd b F.Trs.SRATE.AUTO = 0 then v else max l v
  if new = l then s1
  else (s1.wr b F.Trs.SSTAT.LEVEL new).updStrm i (fun x => { x with
    hostOld := some (x.hostOld.getD l), idx := List.replicate 16 0, lastChg := s.cycle })

/-! ### Enable, disable, snapshot, clear (R240, R248, R249) -/

/-- A stream begins: its KEYFRAME is its first record, a level the host changed is marked, and nothing is held (R232,
R240, R244, R249). (DEDUCED, log 81.) -/
def streamStart (i : Nat) (s : State) : State :=
  let s1 := s.updStrm i (fun x => { x with
    enWait := false, held := [], post := none, winRaw := 0, buf := [], opens := [], cuts := [], idx := List.replicate 16 0 })
  let s2 := idleUpd i (offer i (keyframeRec s1 (stampAt s1.nowFt)) s1)
  let s3 := match (s2.strm i).hostOld with
    | some old => (decFinish i (s2.decMark old (s2.rd (bStr i) F.Trs.SSTAT.LEVEL) 2) s2).updStrm i (fun x => { x with hostOld := none })
    | none => s2
  let s4 := if s3.frozen then
      (gapBegin i s3).updStrm i (fun x => { x with frz := some (s3.memc.frzAt, s3.rd bMem F.Mem.MSTAT.FCAUSE, s3.memc.frzHold) })
    else s3
  gapCheck i s4

/-- EN = 1 written to stream i: at once where it is IDLE, else when IDLE sets (R249). -/
def opStreamOn (i : Nat) (s : State) : State :=
  if s.rd (bStr i) F.Trs.SCTL.EN = 1 then s
  else if s.rd (bStr i) F.Trs.SSTAT.IDLE = 1 then streamStart i (s.wr (bStr i) F.Trs.SCTL.EN 1)
  else (s.wr (bStr i) F.Trs.SCTL.EN 1).updStrm i (fun x => { x with enWait := true })

/-- EN = 0 written to stream i (R249): open records close, a window ends with LAST = 1, held records are never
committed; in a gap the GAP mark stays owed. -/
def opStreamOff (i : Nat) (s : State) : State :=
  let x := s.strm i
  if s.rd (bStr i) F.Trs.SCTL.EN = 0 then s
  else if x.enWait then idleUpd i ((s.wr (bStr i) F.Trs.SCTL.EN 0).updStrm i (fun x => { x with enWait := false }))
  else
    let s1 := if x.post.isSome then windowEnd i s else pushCut i s.nowFt false none s
    let s2 := formatCore i ((s1.wr (bStr i) F.Trs.SCTL.EN 0).updStrm i (fun x => { x with
      gapEnding := decide (s.rd (bStr i) F.Trs.SSTAT.GAP = 1) }))
    idleUpd i (fillUpd i (s2.updStrm i (fun x => { x with held := [] })))

/-- STREAM_DEFERRED_ENABLE (R249). -/
def deferredOn (i : Nat) (s : State) : State :=
  if (s.strm i).enWait ∧ s.rd (bStr i) F.Trs.SSTAT.IDLE = 1 then streamStart i s else s

/-- The four counters and their snapshots (R248). -/
def strmCounters : List (Fld × Fld) :=
  [(F.Trs.GENERATED, F.Trs.SNAP_GENERATED), (F.Trs.DELIVERED, F.Trs.SNAP_DELIVERED),
   (F.Trs.DECIMATED, F.Trs.SNAP_DECIMATED), (F.Trs.GAPPED, F.Trs.SNAP_GAPPED)]

/-- SCTL.SNAP (R248). -/
def opStreamSnap (i : Nat) (s : State) : State :=
  let b := bStr i
  let s1 := forL strmCounters (fun p t => t.wr b p.2 (t.rd b p.1)) s
  (s1.wr b F.Trs.PENDING (s.strm i).pend).inc b F.Trs.SSTAT.SNAP_SEQ 1

/-- SCTL.CLR: ignored unless EN = 0 and IDLE = 1 (R249). -/
def opStreamClr (i : Nat) (s : State) : State :=
  let b := bStr i
  if s.rd b F.Trs.SCTL.EN = 0 ∧ s.rd b F.Trs.SSTAT.IDLE = 1 then
    (forL strmCounters (fun p t => (t.wr b p.1 0).wr b p.2 0) s).wr b F.Trs.PENDING 0
  else s

/-! ### Transport and delivery (R234, R237, R314) -/

/-- The items of a committed record are delivered and its ring space is free (R234, R237, R247). -/
def delivered (i : Nat) (r : RingRec) (s : State) : State :=
  let s1 := (s.inc (bStr i) F.Trs.DELIVERED r.rec_.items).updStrm i (fun x => { x with
    pend := x.pend - r.rec_.items, rpos := x.rpos + 16 * r.rec_.units, ring := x.ring.filter (fun y => y.seq != r.seq) })
  idleUpd i (fillUpd i s1)

/-- An STRACK covers every record up to its SEQ (R314). -/
def strackArrive (i seq : Nat) (s : State) : State :=
  let done := (s.strm i).ring.filter (fun r => decide ((seq + 2 ^ 32 - r.seq) % 2 ^ 32 < 2 ^ 31))
  forL done (delivered i) s

/-- The head acknowledges the records of ring h up to a SEQ: to its own stream at once, elsewhere by STRACK (R314). -/
def ringAck (h seq : Nat) (s : State) : State :=
  if h / 64 = s.pos then strackArrive (h % 64) seq s else sendTo 0x31 (h % 64) (h / 64) 2 [seq] s

/-- A record for ring h is judged by its SEQ (R314): behind the expected one it has been delivered before and is
acknowledged again, any other waits its turn in its packet. A cleared expectation takes the record as its new start. -/
def ringJudge (h : Nat) (r : HRec) (s : State) : State :=
  let x := s.hring h
  if (x.early ++ x.waiting).any (fun y => y.seq == r.seq) then s
  else
    let n := x.expect.getD r.seq
    let behind := (n + 2 ^ 32 - r.seq) % 2 ^ 32
    if 0 < behind ∧ behind ≤ 2 ^ 31 then ringAck h ((n + 2 ^ 32 - 1) % 2 ^ 32) s
    else holdRx r.held (s.updHring h (fun y => { y with expect := some n, waiting := y.waiting ++ [r] }))

/-- The records of a list that are next in order from `n` on. -/
def inOrder (n : Nat) : List HRec → List HRec → List HRec
  | [], _ => []
  | _ :: fuel, ws => match ws.find? (fun r => r.seq == n) with
    | some r => r :: inOrder ((n + 1) % 2 ^ 32) fuel ws
    | none => []

/-- The expectation of ring h is cleared (R314). The records that were next in order are written first, whatever record
comes next; those ahead are given up: their packets leave the receiver, and their stream, which no STRACK has reached, keeps
them and sends them again. (DESIGN CHOICE, log 143.) -/
def ringClear (h : Nat) (s : State) : State :=
  let x := s.hring h
  match x.expect with
  | none => s
  | some n =>
    let e := inOrder n x.waiting x.waiting
    let gone := x.waiting.filter (fun r => !e.contains r)
    let s1 := s.updHring h (fun x => { x with expect := none, early := x.early ++ e, waiting := [] })
    let again := fun (y : RingRec) => if gone.any (fun r => r.seq == y.seq) then { y with sent := false } else y
    let s2 := if h / 64 = s.pos then s1.updStrm (h % 64) (fun z => { z with ring := z.ring.map again }) else s1
    forL gone (fun r t => releaseRx r.held t) s2

/-- RECORD_TRANSPORT: the oldest record not yet sent, all its writes complete, is read from the capture ring and sent
toward the head's host ring (R234, R314): on the head device HIF takes it, on another, once discovery is done (R316), LNK
reads it through its memory port and sends it when the read is complete. (DEDUCED, log 85.) -/
def recordTransport (i : Nat) (s : State) : State :=
  match (s.strm i).ring.find? (fun r => !r.sent) with
  | none => s
  | some r =>
    if 0 < r.writes ∨ s.frozen ∨ !s.domOn 87 ∨ (!s.isHead ∧ s.rd bLnk F.Lnk.LSTAT.READY = 0) then s
    else
      let s1 := s.updStrm i (fun x => { x with ring := x.ring.map (fun y => if y.seq = r.seq then { y with sent := true } else y) })
      if s.isHead then ringJudge i { seq := r.seq, items := r.rec_.items, bytes := r.rec_.bytes r.seq } s1
      else portReq (64 + i % 8) (s.rd (bStr i) F.Trs.SRING.BASE * 128 + r.addr) (16 * r.rec_.units) none (.transport i r.seq) s1

/-- A record read for transport leaves as a STREAM packet (R307). (DEDUCED, log 85.) -/
def streamSend (i seq : Nat) (s : State) : State :=
  match (s.strm i).ring.find? (fun r => r.seq == seq) with
  | none => s
  | some r => sendTo 0x30 i 0 (1 + r.rec_.units) ([seq, r.rec_.items] ++ (r.rec_.bytes seq).map (·.toNat)) s

/-- Host addresses of `n` bytes from WR on, wrapping at the ring's end: the writes of R237. -/
def hostChunks (base size w : Nat) (bs : List Byte) : List (Nat × List Byte) :=
  let room := size - w % size
  if bs.length ≤ room then [(base + w % size, bs)] else [(base + w % size, bs.take room), (base, bs.drop room)]

/-- HOST_RING_WRITE: the record next in order is written where EN = 1 and it fits whole; WR and its copy advance and
its items count as delivered (R237, R314). -/
def hostRingWrite (h : Nat) (s : State) : State :=
  let e := tRing + 64 * h
  let x := s.hring h
  let due : Option HRec := match x.early.head? with
    | some r => some r
    | none => x.expect.bind (fun n => x.waiting.find? (fun r => r.seq == n))
  match due with
  | none => s
  | some r =>
    let ctrl := s.tq (e + 8)
    if !s.isHead ∨ !s.domOn 84 ∨ !ctrl.testBit 5 ∨ s.hostFree h < r.bytes.length then s
    else
      let w := s.tq (e + 16)
      let s1 := forL (hostChunks (s.tq e) (s.hostSize h) w r.bytes) (fun p t => t.out (.hostWrite p.1 p.2)) s
      let w' := (w + r.bytes.length) % 2 ^ 64
      let s2 := s1.setTq (e + 16) w'
      let wb := s.tq (e + 32) / 8 * 8
      let s3 := if wb = 0 then s2 else s2.out (.hostWrite wb (leBytes 8 w'))
      let next := if x.early.isEmpty then some ((r.seq + 1) % 2 ^ 32) else x.expect
      let s4 := s3.updHring h (fun y => { y with
        early := y.early.erase r, waiting := if x.early.isEmpty then y.waiting.erase r else y.waiting, expect := next,
        irqFrom := some (y.irqFrom.getD s.cycle) })
      releaseRx r.held (ringAck h r.seq s4)

/-- HOST_RING_IRQ: the ring's vector goes out once IRQ_HOLD µs have passed since the first advance not yet signalled
(R238). -/
def hostRingIrq (h : Nat) (s : State) : State :=
  let ctrl := s.tq (tRing + 64 * h + 8)
  match (s.hring h).irqFrom with
  | none => s
  | some t =>
    if s.isHead ∧ s.domOn 84 ∧ ctrl.testBit 6 ∧ t + 1000 * (ctrl / 2 ^ 16 % 2 ^ 20) ≤ s.cycle then
      (sendVec (ctrl / 2 ^ 7 % 64) s).updHring h (fun y => { y with irqFrom := none })
    else s

/-- A write of a host ring entry's field (R236, R237, R314). (DEDUCED, log 44.) (DEDUCED, log 86.) -/
def hostRingEntry (h : Nat) (f : RingField) (w : Nat) (s : State) : State :=
  let e := tRing + 64 * h
  let en := (s.tq (e + 8)).testBit 5
  let bad := if h / 64 = s.pos then s.raise (bStr (h % 64)) F.Trs.SSTAT.HRERR 0 else s
  match f with
  | .base => s.setTq e w
  | .wbaddr => s.setTq (e + 32) w
  | .ctrl =>
    let v := w % 2 ^ 13 + w / 2 ^ 16 % 2 ^ 20 * 2 ^ 16
    let s1 := s.setTq (e + 8) v
    if v.testBit 5 then s1 else ringClear h s1
  | .wr => if en then bad else s.setTq (e + 16) w
  | .rd => if w % 16 = 0 ∧ s.tq (e + 24) ≤ w ∧ w ≤ s.tq (e + 16) then s.setTq (e + 24) w else bad

/-- Every record not yet acknowledged is to be sent again (R250, R314). -/
def resendAll (s : State) : State :=
  forN 64 (fun i t => t.updStrm i (fun x => { x with ring := x.ring.map (fun y => { y with sent := false }) })) s

/-! ### Meanings -/

/-- RAW_RECORD_TIMEOUT (R227). -/
def execRawRecordTimeout (i : Fin 64) (c : Fin 16) (s : State) : Outcome State Fault Refusal := act s (rawTimeout i c)

/-- RECORD_COMMIT (R224, R234, R246). -/
def execRecordCommit (i : Fin 64) (s : State) : Outcome State Fault Refusal := act s (recordCommit i)

/-- GAP_END (R245, R249, R250). -/
def execGapEnd (i : Fin 64) (s : State) : Outcome State Fault Refusal := act s (gapEnd i)

/-- RATE_LEVEL_RISE (R244). -/
def execRateLevelRise (i : Fin 64) (s : State) : Outcome State Fault Refusal := act s (levelRise i)

/-- RATE_LEVEL_FALL (R244). -/
def execRateLevelFall (i : Fin 64) (s : State) : Outcome State Fault Refusal := act s (levelFall i)

/-- RECORD_TRANSPORT (R234, R314). -/
def execRecordTransport (i : Fin 64) (s : State) : Outcome State Fault Refusal := act s (recordTransport i)

/-- HOST_RING_WRITE (R237). -/
def execHostRingWrite (h : Fin 4096) (s : State) : Outcome State Fault Refusal := act s (hostRingWrite h)

/-- HOST_RING_ENTRY_WRITE (R235-R237): the table is on the head device alone. -/
def execHostRingEntryWrite (h : Fin 4096) (f : RingField) (w : Word) (s : State) : Outcome State Fault Refusal :=
  act s (cmdAccess (tRing + 64 * h) false false (fun t => if t.isHead then hostRingEntry h f w.toNat t else t))

/-- HOST_RING_IRQ (R238). -/
def execHostRingIrq (h : Fin 4096) (s : State) : Outcome State Fault Refusal := act s (hostRingIrq h)

/-- STREAM_ENABLE (R249). -/
def execStreamEnable (i : Fin 64) (s : State) : Outcome State Fault Refusal :=
  act s (cmdAccess (bStr i + F.Trs.SCTL.EN.off) false false (opStreamOn i))

/-- STREAM_DISABLE (R249). -/
def execStreamDisable (i : Fin 64) (s : State) : Outcome State Fault Refusal :=
  act s (cmdAccess (bStr i + F.Trs.SCTL.EN.off) false false (opStreamOff i))

/-- STREAM_DEFERRED_ENABLE (R249). -/
def execStreamDeferredEnable (i : Fin 64) (s : State) : Outcome State Fault Refusal := act s (deferredOn i)

/-- SCTL_SNAP (R248). -/
def execSctlSnap (i : Fin 64) (s : State) : Outcome State Fault Refusal :=
  act s (cmdAccess (bStr i + F.Trs.SCTL.EN.off) false false (opStreamSnap i))

/-- SCTL_CLR (R249). -/
def execSctlClr (i : Fin 64) (s : State) : Outcome State Fault Refusal :=
  act s (cmdAccess (bStr i + F.Trs.SCTL.EN.off) false false (opStreamClr i))

/-- STREAM_PACKET (R314): one record reaches the head device. -/
def execStreamPacket (hdr : PktHdr) (seq : BitVec 32) (items : Nat) (bytes : List Byte) (s : State) :
    Outcome State Fault Refusal :=
  act s (receive hdr 0x30 ([seq.toNat, items] ++ bytes.map (·.toNat)) (fun t =>
    let r : HRec := { seq := seq.toNat, items := items, bytes := bytes, held := (rxRef hdr) }
    if t.isHead then ringJudge (64 * hdr.src + hdr.tag.toNat % 64) r t else t))

/-- STRACK (R314). -/
def execStrack (hdr : PktHdr) (seq : BitVec 32) (s : State) : Outcome State Fault Refusal :=
  act s (receive hdr 0x31 [seq.toNat] (strackArrive (hdr.tag.toNat % 64) seq.toNat))

end Sys2Proof.Machine
end

