-- ==== Sys2Proof/Machine/Link.lean ====
section
/-! DEFINITION. The LANYARD ports, scheduled actions and discovery (R303-R318). -/

namespace Sys2Proof.Machine

open Host

/-! ### Discovery (R315-R318) -/

/-- A DISC, FIXUP or VERIFY packet leaves port q for the next device. -/
def sendHop (q kind : Nat) (payload : List Nat) (s : State) : State := sendBy q (mkPkt s kind 0 0 false 2 payload) s

/-- A DISC packet (R307): count, provisional, END. -/
def sendDisc (q count : Nat) (prov end_ : Bool) (s : State) : State := sendHop q 0x40 [count, b2n prov, b2n end_] s

/-- The device has its place: READY, MODE and N (R316, R317); DISCSEQ counts a discovery. -/
def setDone (n mode : Nat) (s : State) : State :=
  let s1 := if s.rd bLnk F.Lnk.LSTAT.READY = 1 then s else s.inc bLnk F.Lnk.LSTAT.DISCSEQ 1
  ((s1.wr bLnk F.Lnk.LSTAT.N n).wr bLnk F.Lnk.LSTAT.MODE mode).wr bLnk F.Lnk.LSTAT.READY 1

/-- In ring mode no break is known any more. -/
def ringBack (mode : Nat) (s : State) : State := if mode = 1 then s.updLnk (fun x => { x with brks := [] }) else s

/-- The head completes discovery, or a change of mode: DONE goes to every device (R316-R318). -/
def headDone (n mode : Nat) (s : State) : State :=
  let e := s.rd bLnk F.Lnk.DISCFG.EXPECT
  let s1 := s.flag bLnk F.Lnk.LSTAT.NMISMATCH (decide (e ≠ 0 ∧ e ≠ n))
  let s2 := (ringBack mode (setDone n mode s1)).updLnk (fun x => { x with token := none, stage := 6, verified := 0 })
  if mode = 3 then s2 else broadcast 0x43 2 [n, mode] s2

/-- Full discovery starts at the head (R316): its token leaves port A, or waits for it. A head in conflict takes part in
none (R315). (DEDUCED, log 100.) -/
def startDisc (s : State) : State :=
  if !s.isHead ∨ s.conflict then s
  else
    let s1 := (((s.wr bLnk F.Lnk.LSTAT.READY 0).wr bLnk F.Lnk.LSTAT.MODE 0).wr bLnk F.Lnk.LSTAT.POS 0).updLnk (fun x =>
      { x with token := none, stage := 1, brks := [], brkJ := none, cwCount := 0, verified := 0, mode := 0, count := 0 })
    if s1.portUp 0 then sendDisc 0 1 false false s1 else s1.updLnk (fun x => { x with token := some (0, 0) })

/-- VERIFY leaves the head (R316 step 5): round the ring by port B, or out along each chain. -/
def startVerify (n mode : Nat) (s : State) : State :=
  let a := s.portUp 0
  let b := s.portUp 1
  let need := if mode = 1 then 1 else b2n a + b2n b
  let s1 := s.updLnk (fun x => { x with stage := 5, mode := mode, count := n, verified := need })
  if need = 0 then headDone n 3 s1
  else
    let s2 := if b then sendHop 1 0x42 [n, 0] s1 else s1
    if mode = 2 ∧ a then sendHop 0 0x42 [n, 0] s2 else s2

/-- 6 ms have passed since this device's PWRGOOD (R316 step 2). -/
def State.breakDue (s : State) : Bool :=
  match s.thms.pwrAt with
  | some t => decide (t + 6000000 ≤ s.cycle)
  | none => false

/-- Port q is declared broken, or has been (R316 step 2). -/
def declareBroken (q : Nat) (s : State) : State :=
  (s.wr (bLp q) F.Lnk.PSTAT.BROKEN 1).updLnk (fun x => { x with token := none })

/-- The head has the count i of a broken clockwise pass (R316 step 3): the provisional pass leaves port B, whose token
waits for the port as any other does. -/
def cwBroken (i : Nat) (s : State) : State :=
  let s1 := s.updLnk (fun x => { x with stage := 3, cwCount := i, brks := [i] })
  if s.portUp 1 then sendDisc 1 1 true false s1
  else if s.breakDue then startVerify (i + 1) 2 (declareBroken 1 s1)
  else s1.updLnk (fun x => { x with token := some (1, 0) })

/-- A break is known: the one whose clockwise-facing port A is that of position p. -/
def addBreak (p : Nat) (s : State) : State := s.updLnk (fun x => { x with brks := x.brks.filter (· ≠ p) ++ [p] })

/-- A break has healed. -/
def dropBreak (p : Nat) (s : State) : State := s.updLnk (fun x => { x with brks := x.brks.filter (· ≠ p) })

/-- The link of port q of a device, by the position whose port A it is. -/
def State.linkOf (s : State) (q pos : Nat) : Nat :=
  let n := s.rd bLnk F.Lnk.LSTAT.N
  if q = 0 then pos else (pos + n - 1) % (max n 1)

/-- What the END of a token that passes says of the place of a break (R310): before READY the count of the broken
clockwise pass, or the j_max that FIXUP makes a position; after READY the position of the device that reports its port down,
or with the provisional flag up again, whose report came in from the side of the break. (DEDUCED, log 99.) -/
def learnBreak (q count : Nat) (prov : Bool) (s : State) : State :=
  let ready := decide (s.rd bLnk F.Lnk.LSTAT.READY = 1)
  if !ready && prov then s.updLnk (fun x => { x with brkJ := some count })
  else if prov then dropBreak (s.linkOf q count) s
  else if !ready && count == 0 then s
  else addBreak (s.linkOf q count) s

/-- The END of a DISC token travels back to the head, or is acted on there. After READY an END is the report of a break,
and with the provisional flag of a port that has come up again (R318). Before it, the END of the clockwise pass comes in at
port A with its count; one with count 0 reports a port down, and discovery starts again (R319). (DEDUCED, log 99.) -/
def discEnd (q count : Nat) (prov : Bool) (s : State) : State :=
  let s1 := learnBreak q count prov s
  if !s.isHead then sendDisc (1 - q) count prov true s1
  else if s.rd bLnk F.Lnk.LSTAT.READY = 1 then
    if prov then startVerify (s.rd bLnk F.Lnk.LSTAT.N) 1 s1 else resendAll (headDone (s.rd bLnk F.Lnk.LSTAT.N) 2 s1)
  else if !prov then (if q = 0 ∧ s.lnk.stage = 1 ∧ count ≠ 0 then cwBroken count s1 else startDisc s)
  else
    let n := s.lnk.cwCount + 1 + count
    sendHop 1 0x41 [n] (s.updLnk (fun x => { x with stage := 4, count := n }))

/-- A token goes on by port q with the next count. While that port is not up the token is held, until 6 ms after PWRGOOD
the port is declared broken and END goes back (R316 step 2). -/
def passToken (q count : Nat) (prov : Bool) (s : State) : State :=
  if s.portUp q then sendDisc q (count + 1) prov false s
  else if s.breakDue then sendDisc (1 - q) count prov true (declareBroken q s)
  else s.updLnk (fun x => { x with token := some (q, count) })

/-- DISC (R315, R316). (DEDUCED, log 100.) -/
def discArrive (q count : Nat) (prov end_ otherHead : Bool) (s : State) : State :=
  if s.conflict then s
  else if s.isHead ∧ otherHead then s.wr bLnk F.Lnk.LSTAT.HEADCONFLICT 1
  else if end_ then discEnd q count prov s
  else if s.isHead then
    if prov then s else startVerify count 1 s
  else
    let s1 := ((s.wr bLnk F.Lnk.LSTAT.READY 0).wr bLnk F.Lnk.LSTAT.MODE 0).wr bLnk F.Lnk.LSTAT.NOHEAD 0
    let s2 := s1.updLnk (fun x => { x with tokenSeen := true, token := none, brks := [], brkJ := none })
    if prov then passToken 1 count true (s2.updLnk (fun x => { x with provIdx := some count }))
    else passToken 0 count false ((s2.wr bLnk F.Lnk.LSTAT.POS count).updLnk (fun x => { x with provIdx := none }))

/-- FIXUP (R316 step 4): outward by port B each provisional device takes POS = N - j; the last one sends it back, and at
the head it ends the step. -/
def fixupArrive (q n : Nat) (s : State) : State :=
  if s.conflict then s
  else if s.isHead then startVerify n 2 s
  else if q = 1 then sendHop 0 0x41 [n] s
  else
    let s0 := match s.lnk.brkJ with
      | some j => addBreak (n - j - 1) (s.updLnk (fun x => { x with brkJ := none }))
      | none => s
    let s1 := match s.lnk.provIdx with
      | some j => (s0.wr bLnk F.Lnk.LSTAT.POS (n - j)).updLnk (fun x => { x with provIdx := none })
      | none => s0
    if s1.portUp 1 then sendHop 1 0x41 [n] s1 else sendHop 0 0x41 [n] s1

/-- The neighbour's position fits this device's (R316 step 5): a packet that came in at port A was sent by the next
device clockwise. -/
def fits (q n sender pos : Nat) : Bool :=
  decide (n ≠ 0 ∧ sender < n) && (if q = 0 then decide ((pos + 1) % n = sender) else decide ((sender + 1) % n = pos))

/-- VERIFY (R316 step 5). A device that does not fit sends it on with a position no device has, so that the check fails
at the head: DISCERR, and discovery from step 1, whichever port it comes back by. At the head one that is not awaited is
passed over. A sound verify of the whole ring that comes back by port B has met a break on its way, and the mode stays the
chain's. (DEDUCED, log 99.) -/
def verifyArrive (q n sender : Nat) (s : State) : State :=
  let ok := fits q n sender s.pos
  if s.conflict then s
  else if s.isHead then
    if s.lnk.stage ≠ 5 then s
    else if !ok then startDisc (s.raise bLnk F.Lnk.LSTAT.DISCERR 0)
    else if s.lnk.mode = 1 ∧ q = 1 then headDone s.lnk.count 2 s
    else if s.lnk.verified ≤ 1 then headDone s.lnk.count s.lnk.mode s
    else s.updLnk (fun x => { x with verified := x.verified - 1 })
  else
    let p := [n, if ok then s.pos else 127]
    if s.portUp (1 - q) then sendHop (1 - q) 0x42 p s else sendHop q 0x42 p s

/-- BREAK_DECLARE: 6 ms after PWRGOOD a device that holds the token declares its onward port broken (R316 step 2): END
goes back, or the head's next step follows. (DEDUCED, log 99.) -/
def breakDeclare (q : Nat) (s : State) : State :=
  match s.lnk.token with
  | some (p, count) =>
    if p ≠ q ∨ s.portUp q ∨ !s.breakDue ∨ s.conflict then s
    else
      let s1 := declareBroken q s
      if !s.isHead then sendDisc (1 - q) count (q == 1) true s1
      else if q = 0 then cwBroken 0 s1
      else startVerify (s.lnk.cwCount + 1) 2 s1
  | none => s

/-- NOHEAD_TIMEOUT (R315). -/
def noHead (s : State) : State :=
  match s.thms.pwrAt with
  | some t => if !s.isHead ∧ !s.lnk.tokenSeen ∧ t + 20000000 ≤ s.cycle then s.wr bLnk F.Lnk.LSTAT.NOHEAD 1 else s
  | none => s

/-! ### Ports (R304, R305, R308, R309) -/

/-- The credits that every receiver grants on its four virtual channels (R309). -/
def vcGrants : List Nat := [64, 64, 32, 1024]

/-- The transmitter of port q trains (R443): MAIN, or 63 - PRE - POST where the three exceed 63, is above PRE + POST. -/
def State.trains (s : State) (q : Nat) : Bool :=
  let b := bLp q
  let side := s.rd b F.Lnk.PEQ.PRE + s.rd b F.Lnk.PEQ.POST
  decide (side < min (s.rd b F.Lnk.PEQ.MAIN) (63 - side))

/-- PORT_UP: training and the exchange of credits are complete (R304, R309); discovery or a verify goes on, and what waited
for a port leaves. `credits` are the grants received, which R309 fixes: an exchange of others does not occur and does
nothing. A head that was alone starts discovery anew. (DEDUCED, log 99.) -/
def portUpOp (q : Nat) (credits : List Nat) (s : State) : State :=
  if credits ≠ vcGrants ∨ !s.trains q ∨ s.portUp q ∨ s.scanOn ∨ !s.domOn (80 + 2 * q) ∨ !s.domOn (81 + 2 * q) then s
  else
    let b := bLp q
    let s1 := ((((s.wr b F.Lnk.PSTAT.UP 1).wr b F.Lnk.PSTAT.TRAINING 0).wr b F.Lnk.PSTAT.LANELOCK 0xff).wr b
      F.Lnk.PSTAT.BROKEN 0)
    let s2 := forN 4 (fun v t =>
      let c := bCred q v
      let n := atD credits v 0
      (((t.wr c F.Lnk.PCRED.INIT n).wr c F.Lnk.PCRED.AVAIL n).wr c F.Lnk.PCRED.OUT 0).wr c F.Lnk.PCRED.RXUSED 0) s1
    let s3 := dropBreak (s.linkOf q s.pos) (pump q (s2.updLp q (fun x => { sendQ := x.sendQ })))
    if s.conflict then s3
    else if s.rd bLnk F.Lnk.LSTAT.READY = 1 then
      if !s.isHead then sendDisc (1 - q) s.pos true true s3
      else if s.rd bLnk F.Lnk.LSTAT.MODE = 3 then startDisc s3
      else if s3.portUp 0 && s3.portUp 1 then startVerify (s.rd bLnk F.Lnk.LSTAT.N) 1 s3
      else s3
    else match s.lnk.token with
      | some (p, count) =>
        if p = q then sendDisc q (count + 1) (q == 1) false (s3.updLnk (fun x => { x with token := none })) else s3
      | none => if s.isHead ∧ s.lnk.stage = 0 then startDisc s3 else s3

/-- Packets waiting at a port that has gone down leave by the other; those that have no other way are gone. -/
def reroute (q : Nat) (s : State) : State :=
  forL (s.lp q).sendQ (sendBy q) (s.updLp q (fun x => { x with sendQ := [] }))

/-- A port is down: its replay and receive buffers are discarded and counted, it trains again, and after READY the break is
reported; before it discovery starts again, for which the report has count 0 (R305, R318, R319). A device knows the place of
a break at its own port (R310). (DEDUCED, log 99.) -/
def portDownOp (q : Nat) (s : State) : State :=
  if !s.portUp q then s
  else
    let b := bLp q
    let s1 := (((s.wr b F.Lnk.PSTAT.UP 0).wr b F.Lnk.PSTAT.TRAINING 1).wr b F.Lnk.PSTAT.LANELOCK 0).inc b F.Lnk.PSTAT.DOWNS 1
    let s2 := s1.inc b F.Lnk.PDROP ((s.lp q).replay.length + (s.lp q).rx.length)
    let s3 := forN 4 (fun v t => t.wr (bCred q v) F.Lnk.PCRED.RXUSED 0) (portDrop q s2)
    let s4 := schedAdmit (resendAll (reroute q s3))
    if s.conflict then s4
    else if s.rd bLnk F.Lnk.LSTAT.READY = 1 then
      let s5 := addBreak (s.linkOf q s.pos) s4
      if s.isHead then headDone (s.rd bLnk F.Lnk.LSTAT.N) 2 s5 else sendDisc (1 - q) s.pos false true s5
    else if s.isHead then startDisc s4
    else sendDisc (1 - q) 0 false true s4

/-- PORT_DOWN: a lane has been without block lock for more than 10 us (R305). -/
def portLost (q : Nat) (s : State) : State :=
  if (s.lp q).lost.any (fun l => decide (l.2 + 10000 < s.cycle)) then portDownOp q s else s

/-- LINKCTL (R308, R309): packets up to ACKSEQ are acknowledged, and credits come back; a NAK names the packet from which
the transmitter replays. The first NAK starts a replay and each further one without progress says that a replay has failed:
the sixteenth failure takes the port down (R305). -/
def linkctlOp (q ackseq : Nat) (nak : Bool) (vc units : Nat) (s : State) : State :=
  if !s.portUp q then s
  else
    let c := bCred q vc
    let out := s.rd c F.Lnk.PCRED.OUT
    let back := min units out
    let s1 := (s.wr c F.Lnk.PCRED.OUT (out - back)).inc c F.Lnk.PCRED.AVAIL back
    let last := if nak then (ackseq + 2 ^ 16 - 1) % 2 ^ 16 else ackseq
    let kept := (s.lp q).replay.filter (fun p => decide (2 ^ 15 ≤ (last + 2 ^ 16 - p.lseq) % 2 ^ 16))
    let moved := decide (kept.length < (s.lp q).replay.length)
    let fails := if moved then b2n nak else (s.lp q).fails + b2n nak
    let s2 := s1.updLp q (fun x => { x with replay := kept, fails := fails })
    let s3 := if nak then forL kept (fun p t => sendOut p t) (s2.inc (bLp q) F.Lnk.PRETRY 1) else s2
    if 16 < fails then portDownOp q s3 else pump q s3

/-- BLOCK_LOCK_LOSS (R305); a port in training loses the lock it had on the lane. -/
def lockLoss (q lane : Nat) (s : State) : State :=
  let s1 := s.setBit (bLp q) F.Lnk.PSTAT.LANELOCK lane false
  if !s.portUp q then s1
  else if (s.lp q).lost.any (fun l => l.1 == lane) then s
  else s1.updLp q (fun x => { x with lost := (lane, s.cycle) :: x.lost })

/-- BLOCK_LOCK_REGAIN: a port in training locks on the lane (R304 step 2); within 10 us of a loss a port that is up carries
on (R305). -/
def lockRegain (q lane : Nat) (s : State) : State :=
  let s1 := s.setBit (bLp q) F.Lnk.PSTAT.LANELOCK lane true
  if !s.portUp q then (if s.domOn (81 + 2 * q) then s1 else s)
  else match (s.lp q).lost.find? (fun l => l.1 == lane) with
    | some (_, t) =>
      if s.cycle ≤ t + 10000 then s1.updLp q (fun x => { x with lost := x.lost.filter (fun l => l.1 != lane) }) else s
    | none => s

/-- The kinds of R307. -/
def knownKinds : List Nat := [0x01, 0x10, 0x11, 0x12, 0x20, 0x21, 0x22, 0x23, 0x30, 0x31, 0x40, 0x41, 0x42, 0x43]

/-! ### Scheduled actions (R298, R311, R312, R378) -/

/-- A SCHED packet acts here (R298, R311, R312). -/
def schedArrive (r : Option (Nat × Nat)) (at_ action arg sender : Nat) (s : State) : State :=
  let d := toSigned 48 ((s.coarse48 + ctrMod - sender % ctrMod) % ctrMod)
  let s1 := s.flag bLnk F.Lnk.LSTAT.EPOCHDIFF (decide (d < -1000 ∨ 20000 < d))
  let a := at_ % coarseMod
  match action with
  | 1 => recvHitch r a arg s1
  | 2 => recvArm r (arg % 4) a s1
  | 3 => recvDisarm r (arg % 4) a s1
  | 4 => opAlign s1
  | _ => s1

/-- SCHED_HITCH_COMMIT: the first HITCH in the queue whose AT - 64 has come takes its commit (R378). -/
def schedHitch (s : State) : State :=
  match s.lnk.schedQ.find? (fun a => a.act == 1 && s.reached ((a.at_ + coarseMod - 64) % coarseMod)) with
  | some a => schedDrop a (takeCommits a.arg (some a.at_) s)
  | none => s

/-- LCTL.SHITCH: only on the head device (R312). -/
def opShitch (s : State) : State :=
  if !s.isHead then s
  else
    let at_ := s.rd bLnk F.Lnk.SHITCH.AT
    let m := s.rd bLnk F.Lnk.SHITCH.MASK
    recvHitch none at_ m (schedCast [at_, 1, m, s.coarse48] s)

/-- LCTL.SALIGN: only on the head device (R298, R312). -/
def opSalign (s : State) : State :=
  if !s.isHead then s else opAlign (schedCast [s.rd bLnk F.Lnk.SHITCH.AT, 4, 0, s.coarse48] s)

/-! ### Meanings -/

/-- PORT_UP (R304). -/
def execPortUp (q : Fin 2) (credits : List Nat) (s : State) : Outcome State Fault Refusal := act s (portUpOp q credits)

/-- PORT_DOWN (R305). -/
def execPortDown (q : Fin 2) (s : State) : Outcome State Fault Refusal := act s (portLost q)

/-- LINKCTL (R308, R309). -/
def execLinkctl (q : Fin 2) (ackseq : BitVec 16) (nak : Bool) (vc : Fin 4) (units : Nat) (s : State) :
    Outcome State Fault Refusal := act s (linkctlOp q ackseq.toNat nak vc units)

/-- SCHED (R311, R312). -/
def execSched (hdr : PktHdr) (at52 action : Nat) (arg : BitVec 8) (sender48 : Nat) (s : State) :
    Outcome State Fault Refusal :=
  act s (receive hdr 0x20 [at52, action, arg.toNat, sender48] (schedArrive (rxRef hdr) at52 action arg.toNat sender48))

/-- SCHED_HITCH_COMMIT (R378). -/
def execSchedHitchCommit (s : State) : Outcome State Fault Refusal := act s schedHitch

/-- DISC (R316). -/
def execDisc (hdr : PktHdr) (count : Nat) (provisional isEnd fromOtherHead : Bool) (s : State) :
    Outcome State Fault Refusal :=
  act s (receiveHere hdr (discArrive hdr.port (count % 128) provisional isEnd fromOtherHead))

/-- FIXUP (R316). -/
def execFixup (hdr : PktHdr) (n : Nat) (s : State) : Outcome State Fault Refusal :=
  act s (receiveHere hdr (fixupArrive hdr.port (n % 128)))

/-- VERIFY (R316). -/
def execVerify (hdr : PktHdr) (n senderPos : Nat) (s : State) : Outcome State Fault Refusal :=
  act s (receiveHere hdr (verifyArrive hdr.port (n % 128) (senderPos % 128)))

/-- DONE (R316, R318). -/
def execDone (hdr : PktHdr) (n mode : Nat) (s : State) : Outcome State Fault Refusal :=
  act s (receive hdr 0x43 [n, mode] (fun t => resendAll (ringBack (mode % 4) (setDone (n % 128) (mode % 4) t))))

/-- UNKNOWN_PACKET (R307). -/
def execUnknownPacket (hdr : PktHdr) (kind : BitVec 8) (s : State) : Outcome State Fault Refusal :=
  act s (whenB (!knownKinds.contains kind.toNat) (receiveHere hdr (fun t => t.inc (bLp hdr.port) F.Lnk.PDROP 1)))

/-- BREAK_DECLARE (R316). -/
def execBreakDeclare (q : Fin 2) (s : State) : Outcome State Fault Refusal := act s (breakDeclare q)

/-- NOHEAD_TIMEOUT (R315). -/
def execNoheadTimeout (s : State) : Outcome State Fault Refusal := act s noHead

/-- LCTL_REDISC (R318). -/
def execLctlRedisc (s : State) : Outcome State Fault Refusal := act s (cmdAccess bLnk false false startDisc)

/-- LCTL_SHITCH (R312). -/
def execLctlShitch (s : State) : Outcome State Fault Refusal := act s (cmdAccess bLnk false false opShitch)

/-- LCTL_SALIGN (R312). -/
def execLctlSalign (s : State) : Outcome State Fault Refusal := act s (cmdAccess bLnk false false opSalign)

/-- BLOCK_LOCK_LOSS (R305). -/
def execBlockLockLoss (q : Fin 2) (lane : Fin 8) (s : State) : Outcome State Fault Refusal := act s (lockLoss q lane)

/-- BLOCK_LOCK_REGAIN (R304, R305). -/
def execBlockLockRegain (q : Fin 2) (lane : Fin 8) (s : State) : Outcome State Fault Refusal := act s (lockRegain q lane)

/-- PACKET_CRC_ERROR: NAK names the packet expected (R308). -/
def execPacketCrcError (q : Fin 2) (s : State) : Outcome State Fault Refusal :=
  act s (fun t => if t.portUp q then linkctl q (t.lp q).rxSeq true 0 0 t else t)

end Sys2Proof.Machine
end

