-- ==== Sys2Proof/Machine/Column.lean ====
section
/-! DEFINITION. The command slots of a pseudo-channel (R254, R256, R267): the HBMCLK edges of a cycle, the column commands
of activated requests, and the edges they leave free. -/

namespace Sys2Proof.Machine

open Host

/-- HBMCLK in MHz (R254). -/
def State.hbmMHz (s : State) : Nat :=
  match s.rd bMem F.Mem.MSTAT.RATE with | 0 => 800 | 1 => 1200 | _ => 1600

/-- A timing of the set in force, in HBMCLK cycles (R278). -/
def State.mclk (s : State) (f : Fld) : Nat := s.rd (bMem + 0x40 * s.rd bMem F.Mem.MSTAT.TSET) f

/-- A timing of the set in force, in ns. -/
def State.mtim (s : State) (f : Fld) : Nat := s.mclk f * 1000 / s.hbmMHz

/-- The first HBMCLK edge at or after elapsed ns t, by number. (DEDUCED, log 89.) -/
def State.hbmEdge (s : State) (t : Nat) : Nat := (t * s.hbmMHz + 999) / 1000

/-- A 128-byte unit takes four bursts (R256), each one column command; a read-modify-write reads and writes them. -/
def MReq.columns (r : MReq) (rmw : Bool) : Nat × Nat :=
  (if r.write.isNone || rmw then 4 else 0, if r.write.isSome then 4 else 0)

/-- The distance that the set in force asks from an issued column command to the next one: tCCDL in one bank group and
tCCDS otherwise, tRTW and tWTR where the direction changes. Banks of one stack ID and one BG form a group (R253). -/
def State.colGap (s : State) (write : Bool) (bank : Nat) (a : Act) : Nat :=
  s.mclk (if a.write ≠ write then (if write then F.Mem.MTIM1.tRTW else F.Mem.MTIM1.tWTR)
    else if a.bank / 16 = bank / 16 ∧ a.bank % 4 = bank % 4 then F.Mem.MTIM1.tCCDL else F.Mem.MTIM1.tCCDS)

/-- The next column command of a burst group is a write. -/
def Burst.writes (b : Burst) : Bool := decide (b.left.1 = 0)

/-- The first HBMCLK edge at which the next column command of b can issue. -/
def State.colAt (s : State) (x : PChan) (b : Burst) : Nat :=
  x.cols.foldl (fun m a => max m (a.at_ + s.colGap b.writes b.bank a)) (max (max b.ready x.slot) (s.hbmEdge x.busyTo))

/-- The column command that issues next: the earliest that can, the oldest request's among those of one edge (R267). -/
def State.nextCol (s : State) (x : PChan) : Option (Nat × Burst) :=
  x.bursts.foldr (fun b m => match m with
    | some (h, c) => if s.colAt x b < h ∨ (s.colAt x b = h ∧ b.ord < c.ord) then some (s.colAt x b, b) else some (h, c)
    | none => some (s.colAt x b, b)) none

/-- The next column command of burst group b issues at edge h; after its last one the group is gone. -/
def PChan.issueCol (x : PChan) (h : Nat) (b : Burst) : PChan :=
  let left := if b.writes then (0, b.left.2 - 1) else (b.left.1 - 1, b.left.2)
  { x with
    bursts := if left = (0, 0) then x.bursts.filter (fun c => c.ord ≠ b.ord)
      else x.bursts.map (fun c => if c.ord = b.ord then { c with left := left } else c),
    cols := ({ at_ := h, bank := b.bank, addr := b.addr, port := b.port, write := b.writes } :: x.cols).take 64, slot := h + 1 }

/-- Column commands issue, at most n of them: all before edge lo, and from there those that keep the next edge before hi
from being free. -/
def State.runCols (s : State) (lo hi : Nat) : Nat → PChan → PChan
  | 0, x => x
  | n + 1, x => match s.nextCol x with
    | none => x
    | some (h, b) => if h < lo ∨ (h < hi ∧ h ≤ x.slot) then s.runCols lo hi n (x.issueCol h b) else x

/-- The column commands that the burst groups of a pseudo-channel still owe. -/
def PChan.owedCols (x : PChan) : Nat := (x.bursts.map (fun b => b.left.1 + b.left.2)).sum

/-- Pseudo-channel p at the first edge of the present cycle that a command ahead of the column commands can take: a refresh
that is urgent, and a neighbour refresh (R267). -/
def State.atTop (s : State) (p : Nat) : PChan :=
  let x := s.runCols (s.hbmEdge s.cycle) (s.hbmEdge s.cycle) (s.pchan p).owedCols (s.pchan p)
  { x with slot := max (s.hbmEdge s.cycle) x.slot }

/-- Pseudo-channel p at the first edge of the present cycle that the column commands leave free (R267). -/
def State.atFree (s : State) (p : Nat) : PChan :=
  s.runCols (s.hbmEdge s.cycle) (s.hbmEdge (s.cycle + 1)) (s.pchan p).owedCols (s.atTop p)

/-- The edge found lies in the present cycle. -/
def State.hasEdge (s : State) (x : PChan) : Bool := decide (x.slot < s.hbmEdge (s.cycle + 1))

/-- Pseudo-channel p with every column command up to the end of the present cycle issued. -/
def State.atEnd (s : State) (p : Nat) : PChan :=
  let h := s.hbmEdge (s.cycle + 1)
  s.runCols h h (s.pchan p).owedCols (s.pchan p)

/-- The last column command of the request with order number `ord` has been issued (R263). -/
def State.colsDone (s : State) (p ord : Nat) : Bool := (s.atEnd p).bursts.all (fun b => b.ord ≠ ord)

/-- A physical address in the row that a table key names, on PC p: the home bits undo the hash (R257, R258). -/
def State.rowAddr (s : State) (p key : Nat) : Nat :=
  let hi := key / 32 * 2 ^ 20 + key / 16 % 2 * 2 ^ 19
  hi + ((p + 32 * (key % 16)) ^^^ s.hashed hi) * 2 ^ 7

end Sys2Proof.Machine
end

