-- ==== Sys2Proof/Machine/Mem.lean ====
section
/-! DEFINITION. The memory controller (R253-R289): requests and their scheduling, refresh, row-disturb protection,
freezes, the change of the data rate, initialisation, fill and training. -/

namespace Sys2Proof.Machine

open Host

/-! ### Ports and queues (R259-R266) -/

/-- The largest number of requests a port may have outstanding (R265). -/
def portMax (n : Nat) : Nat :=
  if n < 32 then 192 else if n < 64 then 64 else if n < 72 then 128 else if n < 76 then 64 else 8

/-- The target of port n in ns; 0 acts as 1 (R265). -/
def State.target (s : State) (n : Nat) : Nat := max 1 (s.rd (bMem + 8 * n) F.Mem.MPORT.TARGET)

/-- The urgency of a request of age `age` at a target (R266). -/
def urgency (target age : Nat) : Nat :=
  if 2 * age < target then 0 else if 4 * age < 3 * target then 1 else if age < target then 2 else 3

def State.reqUrg (s : State) (n : Nat) (r : MReq) : Nat := urgency (s.target n) (s.cycle - r.at_)

/-- The urgency of a port: the highest among its outstanding requests (R266). -/
def State.portUrg (s : State) (n : Nat) : Nat := (s.port n).outs.foldl (fun u r => max u (s.reqUrg n r)) 0

/-- A port write of a part of a unit, done as a read-modify-write (R260); capture rings are written in whole units.
(DEDUCED, log 87.) -/
def MReq.rmw (r : MReq) : Bool :=
  r.write.isSome && decide (r.len < 128) && (match r.why with | .record _ _ => false | _ => true)

/-- The queued requests of PC p, whose activate has not been issued, with their ports, in port order. -/
def State.queued (s : State) (p : Nat) : List (Nat × MReq) :=
  (List.range 77).flatMap (fun n => ((s.port n).outs.filter (fun r => !r.issued && s.pcOf r.addr == p)).map (fun r => (n, r)))

def nReads (q : List (Nat × MReq)) : Nat := (q.filter (fun r => r.2.write.isNone)).length
def nWrites (q : List (Nat × MReq)) : Nat := (q.filter (fun r => r.2.write.isSome)).length

/-- The slice of PC p is on. -/
def State.pcOn (s : State) (p : Nat) : Bool := s.domOn (64 + p / 2)

/-- The ports are served: enabled, not frozen, not held for a rate change (R280, R285). -/
def State.served (s : State) : Bool :=
  decide (s.rd bMem F.Mem.MCTL.EN = 1) && !s.frozen && decide (s.rd bMem F.Mem.MSTAT.FHOLD = 0)

/-- Host bytes read by HIF: they come from outside the device. (DESIGN CHOICE, log 9.) -/
def hostBytes (f n : Nat) : List Byte := (List.range n).map (fun i => Config.freeByte (2 ^ 64 + f * 128 + i))

/-- MEM_REQUEST_ACCEPT: the first 128-byte request of the transfer that waits at port n enters its PC's queue; at its
maximum outstanding, or with the queue full, the port waits (R259, R265). -/
def memAccept (n : Nat) (s : State) : State :=
  match (s.port n).wait with
  | [] => s
  | t :: rest =>
    let k := min t.len (128 - t.addr % 128)
    let p := s.pcOf t.addr
    let q := s.queued p
    let full := if t.write.isSome || t.fromHost then 64 ≤ nWrites q else 48 ≤ nReads q
    if !s.served ∨ !s.pcOn p ∨ portMax n ≤ (s.port n).outs.length ∨ full then s
    else
      let bytes := if t.fromHost then some (hostBytes s.free k) else t.write.map (·.take k)
      let r : MReq := { t with len := k, write := bytes, at_ := s.cycle, issued := false, ord := s.memc.ord, fromHost := false }
      let left : List MReq := if t.len ≤ k then rest
        else { t with addr := (t.addr + k) % 2 ^ 34, len := t.len - k, write := t.write.map (·.drop k) } :: rest
      let s0 := match t.why with
        | .dma d => if t.fromHost then hostAsks d (t.addr - (s.dma d).mem + k) s.fresh else s
        | _ => s
      let s1 := s0.updPort n (fun x => { x with wait := left, outs := x.outs ++ [r], issued := (x.issued + 1) % ctrMod })
      let s2 := s1.updMemc (fun m => { m with ord := m.ord + 1, lastBusy := max s.cycle m.lastBusy })
      if r.write.isSome ∧ 48 ≤ nWrites q + 1 then s2.updPc p (fun x => { x with drain := true }) else s2

/-! ### Refresh (R271, R272, R274) -/

/-- The tREFI of the band in force, ns: the interval of the timing set in force in band N, half of it in band H and a
quarter in band X; 3,900, 1,950 and 975 at reset (R271). (DEDUCED, log 89.) An interval below 1 ns, as of a set with
tREFI_N = 0, acts as 1 ns. (DESIGN CHOICE, log 151.) -/
def State.tREFI (s : State) : Nat :=
  let n := s.mtim F.Mem.MTIM2.tREFI_N
  max 1 (match s.rd bMem F.Mem.MSTAT.BAND with | 0 => n | 1 => n / 2 | _ => n / 4)

/-- The refresh debt D of PC p now (R271). -/
def State.debt (s : State) (p : Nat) : Int :=
  (s.pchan p).debt + (if s.rd bMem F.Mem.MCTL.REFEN = 1 then ((s.cycle - (s.pchan p).debtAt : Nat) : Int) else 0)

/-- Refreshes owed. -/
def State.owed (s : State) (p : Nat) : Int := s.debt p / (s.tREFI : Int)

/-- Every debt brought up to the present, for a change of REFEN. -/
def settleDebts (s : State) : State :=
  forN 32 (fun p t => t.updPc p (fun x => { x with debt := s.debt p, debtAt := s.cycle })) s

/-- The entry of the PHY delay table for the active timing set, a band and PC p (R281). -/
def State.phyEntry (s : State) (p : Nat) : List (BitVec 32) :=
  let a := tPhy + 0x800 * (3 * s.rd bMem F.Mem.MSTAT.TSET + min 2 (s.rd bMem F.Mem.MSTAT.BAND)) + 0x40 * p
  (List.range 16).map (fun i => s.tw (a + 4 * i))

/-- The PHY of PC p loads its delays (R281). (DEDUCED, log 92.) -/
def loadPhy (p : Nat) (s : State) : State :=
  s.updMemc (fun m => { m with phy := tput (fun _ => []) m.phy p (s.phyEntry p), phyPend := m.phyPend.filter (· ≠ p) })

def loadPhyAll (s : State) : State := forN 32 loadPhy s

/-- The seed of the LFSR; 0 acts as 1 (R277). (DEDUCED, log 91.) -/
def State.seed (s : State) : Nat := max 1 (s.rd bMem F.Mem.MRDCFG.SEED)

/-- The activate table of PC p empties and the LFSR is loaded. -/
def emptyTable (p : Nat) (s : State) : State := s.updPc p (fun x => { x with table := [], ovf := false, lfsr := s.seed })

/-- An uncompleted read-modify-write, or a scrub read that may write its unit back, holds the other requests to its unit
(R260, R283). -/
def State.unitHeld (s : State) (r : MReq) : Bool :=
  (List.range 77).any (fun n => (s.port n).outs.any (fun o => o.issued && (o.rmw || o.why == .scrub) && o.ord != r.ord &&
    s.loc o.addr / 128 == s.loc r.addr / 128))

/-- The bank of an address within its PC: SID, bank group and bank (R256). -/
def State.bankOf (s : State) (a : Nat) : Nat := s.rowKey a % 32

/-- An activate to bank `b` of PC p can issue at the edge that the column commands leave free (R267): no refresh blocks
the PC, and the distances of the timing set in force to its last activates are kept; banks of one stack ID and one BG
form a bank group (R253). (DEDUCED, log 89.) -/
def State.bankFree (s : State) (p b : Nat) : Bool :=
  let x := s.atFree p
  let ok := fun (a : Act) (f : Fld) => decide (a.at_ + s.mclk f ≤ x.slot)
  s.hasEdge x && decide (x.busyTo ≤ s.cycle) &&
    x.acts.all (fun a => if a.bank = b then ok a F.Mem.MTIM0.tRC
                         else if a.bank / 16 = b / 16 ∧ a.bank % 4 = b % 4 then ok a F.Mem.MTIM0.tRRDL
                         else ok a F.Mem.MTIM0.tRRDS) &&
    (match x.acts[3]? with | some a => ok a F.Mem.MTIM0.tFAW | none => true)

/-- An activate at the edge found joins the last ones of a pseudo-channel, the newest first. -/
def PChan.noteAct (a : Act) (x : PChan) : PChan := { x with acts := ({ a with at_ := x.slot } :: x.acts).take 64 }

/-- The requests that PC p may choose from (R267, R268): of those whose activate can issue now, the reads, and the writes
in a drain, with no read queued, or at urgency 3. (DEDUCED, log 89.) -/
def State.eligible (s : State) (p : Nat) : List (Nat × MReq) :=
  if !s.pcOn p ∨ s.frozen ∨ s.rd bMem F.Mem.MSTAT.FHOLD = 1 then []
  else
    let q := s.queued p
    let anyW := (s.pchan p).drain || decide (nReads q = 0)
    q.filter (fun r => s.bankFree p (s.bankOf r.2.addr) && !s.unitHeld r.2 &&
      (r.2.write.isNone || anyW || decide (s.reqUrg r.1 r.2 = 3)))

/-- The stack is powered down after a HOT freeze (R285). -/
def State.hotFrozen (s : State) : Bool := s.frozen && decide (s.rd bMem F.Mem.MSTAT.FCAUSE = 3)

/-- REFRESH, at an HBMCLK edge of the present cycle: urgent when owed ≥ 9, lazy when owed ≥ 1 with nothing to issue, pulled
in when idle (R267, R272); in a freeze, where neighbour refreshes wait, it is all that issues (R285). It blocks its PC for
tRFC (R271). -/
def refreshOp (p : Nat) (s : State) : State :=
  let owed := s.owed p
  let urgent := decide (9 ≤ owed)
  let idle := ((s.pchan p).nbr.isEmpty || s.frozen) && (s.eligible p).isEmpty && s.hasEdge (s.atFree p)
  let lazy := idle && (decide (1 ≤ owed) || ((s.queued p).isEmpty && decide (-7 ≤ owed)))
  if !s.pcOn p ∨ s.rd bMem F.Mem.MCTL.REFEN = 0 ∨ s.rd bMem F.Mem.MSTAT.FHOLD = 1 ∨ s.hotFrozen ∨ s.cycle < (s.pchan p).busyTo ∨
      !((urgent && s.hasEdge (s.atTop p)) || lazy) then s
  else
    let n := (s.pchan p).refs + 1
    let fin := s.cycle + s.mtim F.Mem.MTIM1.tRFC
    let x := if urgent then s.atTop p else s.atFree p
    let s1 := s.updPc p (fun _ => { x with
      debt := s.debt p - (s.tREFI : Int), debtAt := s.cycle, refs := n, busyTo := fin, slot := x.slot + 1 })
    let s2 := if urgent then (s1.inc (bPc p) F.Mem.PCREF.URGENT 1).updMemc (fun m => { m with lastBusy := max fin m.lastBusy }) else s1
    let s3 := if n % 8192 = 0 then emptyTable p s2 else s2
    if s3.memc.phyPend.contains p then loadPhy p s3 else s3

/-! ### Row-disturb protection (R275-R277) -/

/-- The position of the entry with the lowest count, lowest first. -/
def minEntry : List (Nat × Nat) → Nat → Option (Nat × Nat)
  | [], _ => none
  | (_, c) :: t, i => match minEntry t (i + 1) with
    | some (j, d) => if d < c then some (j, d) else some (i, c)
    | none => some (i, c)

/-- An activate to a row: the new table, and the count a replacement inherits (R275). -/
def tableHit (row : Nat) (t : List (Nat × Nat)) : List (Nat × Nat) × Option Nat :=
  if t.any (fun e => e.1 == row) then (t.map (fun e => if e.1 = row then (row, e.2 + 1) else e), none)
  else if t.length < 32 then (t ++ [(row, 1)], none)
  else match minEntry t 0 with
    | some (i, c) => (updAt i (fun _ => (row, c + 1)) t, some c)
    | none => (t, none)

/-- One step of the LFSR x^32 + x^22 + x^2 + x + 1: a left shift whose new bit 0 is the parity of bits 31, 21, 1
and 0. (DEDUCED, log 91.) -/
def lfsrStep (x : Nat) : Nat :=
  (2 * x + (x / 2 ^ 31 + x / 2 ^ 21 + x / 2 + x) % 2) % 2 ^ 32

/-- An activate to `row` on PC p counts (R275-R277). It advances the LFSR where the table was in overflow before it: the one
whose replacement brings the table into overflow does not. (DESIGN CHOICE, log 152.) -/
def countActivate (p row : Nat) (s : State) : State :=
  let th := max 1 (s.rd bMem F.Mem.MRDCFG.TH)
  let on := decide (s.rd bMem F.Mem.MCTL.RDEN = 1)
  let x := s.pchan p
  let ovr := x.ovf || !on
  let hit := if on then tableHit row x.table else (x.table, none)
  let reached := hit.1.any (fun e => e.1 == row && decide (th ≤ e.2))
  let tbl := if reached then hit.1.map (fun e => if e.1 = row then (row, 0) else e) else hit.1
  let ovf := x.ovf || (match hit.2 with | some c => decide (s.rd bMem F.Mem.MRDCFG.OVF ≤ c) | none => false)
  let l := if ovr then lfsrStep x.lfsr else x.lfsr
  let fall := ovr && decide (l % 1024 = 0)
  s.updPc p (fun x => { x with
    table := tbl, ovf := ovf, lfsr := l,
    nbr := x.nbr ++ (if on && reached then [(row, true)] else []) ++ (if fall then [(row, false)] else []) })

/-- The neighbours of a row in its bank (R276): two on either side, but for rows outside 0 to 16,383. -/
def neighbours (key : Nat) : List Nat :=
  let row := key / 32
  ((if 2 ≤ row then [row - 2] else []) ++ (if 1 ≤ row then [row - 1] else []) ++ [row + 1, row + 2]).filter (· < 16384)
    |>.map (fun r => 32 * r + key % 32)

/-- NEIGHBOUR_REFRESH: the neighbours of one row are refreshed, each as an activate and a precharge, ahead of the ports;
each counts (R276, R277). (DEDUCED, log 90.) Their activates neither count in the activate table nor advance the LFSR.
(DESIGN CHOICE, log 152.) -/
def neighbourOp (p : Nat) (s : State) : State :=
  match (s.pchan p).nbr with
  | [] => s
  | (key, th) :: t =>
    if 9 ≤ s.owed p ∨ !s.pcOn p ∨ s.frozen ∨ s.rd bMem F.Mem.MSTAT.FHOLD = 1 ∨ s.cycle < (s.pchan p).busyTo ∨
        !s.hasEdge (s.atTop p) then s
    else
      let x := (neighbours key).foldl (fun x r =>
        x.noteAct { at_ := 0, bank := r % 32, addr := s.rowAddr p r, port := 0xff }) (s.atTop p)
      let s1 := s.updPc p (fun _ => { x with nbr := t, slot := x.slot + 1 })
      s1.inc (bPc p) (if th then F.Mem.PCRD.TABLE else F.Mem.PCRD.FALLBACK) (neighbours key).length

/-! ### Activates (R267) -/

/-- Whether request `a` goes before `b`: urgency, then the preferred direction, then age. -/
def before (s : State) (drain : Bool) (a b : Nat × MReq) : Bool :=
  let ua := s.reqUrg a.1 a.2
  let ub := s.reqUrg b.1 b.2
  let pa := a.2.write.isSome == drain
  let pb := b.2.write.isSome == drain
  if ua ≠ ub then decide (ub < ua) else if pa ≠ pb then pa else decide (a.2.ord < b.2.ord)

/-- The first of a list by an order. -/
def bestOf {α : Type} (lt : α → α → Bool) : List α → Option α
  | [] => none
  | a :: t => match bestOf lt t with
    | some b => if lt b a then some b else some a
    | none => some a

/-- ACTIVATE_ISSUE: PC p picks a request and issues its activate; from tRCD on its column commands issue (R267, R268,
R275). (DEDUCED, log 89.) -/
def activateOp (p : Nat) (s : State) : State :=
  if 9 ≤ s.owed p ∨ !(s.pchan p).nbr.isEmpty then s
  else match bestOf (before s (s.pchan p).drain) (s.eligible p) with
    | none => s
    | some (n, r) =>
      let s1 := s.updPort n (fun x => { x with outs := x.outs.map (fun o => if o.ord = r.ord then { o with issued := true } else o) })
      let a : Act := { at_ := 0, bank := s.bankOf r.addr, addr := r.addr / 128 * 128, port := n }
      let x := (s.atFree p).noteAct a
      let b : Burst := { ord := r.ord, bank := a.bank, addr := a.addr, port := n, left := r.columns r.rmw,
                         ready := x.slot + s.mclk F.Mem.MTIM0.tRCD }
      let s2 := countActivate p (s.rowKey r.addr) ((s1.updPc p (fun _ => { x with bursts := x.bursts ++ [b], slot := x.slot + 1 })).updMemc
        (fun m => { m with lastBusy := max s.cycle m.lastBusy }))
      let s3 := if r.rmw then s2.inc (bPc p) F.Mem.PCRMW.RMW 1 else s2
      if nWrites (s3.queued p) ≤ 16 then s3.updPc p (fun x => { x with drain := false }) else s3

/-! ### Freezes (R284-R287) -/

/-- One queue entry of the snapshot (R287). -/
def snapEntry (s : State) (e : Nat × MReq) : Nat :=
  2 ^ 63 + 2 ^ 62 * b2n e.2.write.isSome + 2 ^ 55 * e.1 + 2 ^ 53 * s.reqUrg e.1 e.2 +
    2 ^ 27 * min (2 ^ 26 - 1) (s.cycle - e.2.at_) + e.2.addr / 128

/-- Insertion by acceptance. -/
def insOrd (e : Nat × MReq) : List (Nat × MReq) → List (Nat × MReq)
  | [] => [e]
  | f :: t => if e.2.ord < f.2.ord then e :: f :: t else f :: insOrd e t

/-- Entries of the snapshot from an aperture offset on. -/
def putEntries (a : Nat) (es : List Nat) (s : State) : State :=
  es.zipIdx.foldl (fun t e => t.setTq (a + 8 * e.2) e.1) s

/-- The header of the snapshot (R287). -/
def snapHeader (cause pc port word synd addr : Nat) (approx : Bool) (s : State) : State :=
  ((s.setTq tSnap (stampAt s.nowFt).toNat).setTq (tSnap + 8)
    (cause + 2 ^ 8 * pc + 2 ^ 16 * port + 2 ^ 24 * (word + 16 * b2n approx) + 2 ^ 32 * synd)).setTq (tSnap + 16) addr

/-- The snapshot of a freeze in the staging SRAM, in place of the last one (R287). -/
def writeSnap (cause pc port word synd addr : Nat) (approx : Bool) (s : State) : State :=
  let s0 : State := { s with tables := s.tables.filter (fun e => e.1 < tSnap || tSnap + 0x8000 ≤ e.1) }
  forN 32 (fun p t =>
    let q := (s.queued p).foldr insOrd []
    let a := tSnap + 0x40 + 0x380 * p
    putEntries (a + 8 * 48) (((q.filter (fun e => e.2.write.isSome)).take 64).map (snapEntry s))
      (putEntries a (((q.filter (fun e => e.2.write.isNone)).take 48).map (snapEntry s)) t))
    (snapHeader cause pc port word synd addr approx s0)

/-- The FREEZE mark that every enabled stream owes (R250, R285). -/
def freezeStreams (cause : Nat) (s : State) : State :=
  forN 64 (fun i t => if t.strOn i then
    (gapBegin i t).updStrm i (fun x => { x with frz := some (stampAt s.nowFt, cause, s.holdover) }) else t) s

/-- The stack powers down without refresh: its contents are lost and LOST is set (R285). -/
def loseStack (s : State) : State :=
  { s.raise bMem F.Mem.MSTAT.LOST 0 with hbm := { cells := [], lost := some (s.free + 1), ecc := [] }, free := s.free + 1 }

/-- The controller freezes (R284, R285). A second cause of the same cycle with a lower number is the one recorded (R289);
where one of the two is HOT the contents are lost, whichever came first. (DESIGN CHOICE, log 153.) -/
def freeze (cause pc port word synd addr : Nat) (approx : Bool) (s : State) : State :=
  if s.frozen then
    if s.memc.frzCyc ≠ s.cycle then s
    else if cause < s.rd bMem F.Mem.MSTAT.FCAUSE then
      let s1 := forN 64 (fun i t => t.updStrm i (fun x => { x with frz := x.frz.map (fun f => (f.1, cause, f.2.2)) }))
        (snapHeader cause pc port word synd addr approx (s.wr bMem F.Mem.MSTAT.FCAUSE cause))
      if cause = 3 then loseStack s1 else s1
    else if cause = 3 ∧ s.rd bMem F.Mem.MSTAT.FCAUSE < 3 then loseStack s
    else s
  else
    let s1 := writeSnap cause pc port word synd addr approx ((s.wr bMem F.Mem.MSTAT.FROZEN 1).wr bMem F.Mem.MSTAT.FCAUSE cause)
    let s2 := s1.updMemc (fun m => { m with frzAt := stampAt s.nowFt, frzHold := s.holdover, frzCyc := s.cycle, filled := m.filled && !m.filling })
    let s3 := forN 77 (fun n t => t.updPort n (fun x => { x with
      frozen := (x.frozen + x.outs.length) % ctrMod, outs := [],
      caught := x.outs.map (fun r => { r with issued := r.issued && s.colsDone (s.pcOf r.addr) r.ord }) })) s2
    let s4 := forN 32 (fun p t => t.updPc p (fun _ => { s.atEnd p with bursts := [] })) s3
    let s5 := forN 32 (fun k t => if t.engRunning k then stopEngine k 7 t else t) s4
    let s6 := freezeStreams cause (safeAll s5)
    if cause = 3 then loseStack s6 else s6

/-- The commands issued to PC p within the parity report latency, activates and column commands, in no order.
(DESIGN CHOICE, log 138.) -/
def State.lateCmds (s : State) (p : Nat) : List Act :=
  let x := s.atEnd p
  (x.acts ++ x.cols).reverse.filter (fun a => decide (s.cycle * s.hbmMHz ≤ a.at_ * 1000 + Config.parityLatency * s.hbmMHz))

/-- CAPAR_ERROR: the address is that of the oldest command issued to the PC within the parity report latency (R284,
R287). -/
def caparOp (p : Nat) (s : State) : State :=
  match bestOf (fun a b => decide (a.at_ < b.at_)) (s.lateCmds p) with
  | some a => freeze 2 p a.port 0 0 a.addr true s
  | none => freeze 2 p 0xff 0 0 0 true s

/-! ### Completion (R263, R270, R283) -/

/-- A corrected error is logged (R283). -/
def logCorrected (p unit word bit synd : Nat) (s : State) : State :=
  let b := bPc p
  (((((s.wr b F.Mem.PCECC.VALID 1).incSat b F.Mem.PCECC.COUNT 1).wr b F.Mem.PCECC.SYND synd).wr b F.Mem.PCECC.BIT bit).wr b
    F.Mem.PCECC.WORD word).wr b F.Mem.PCECC.ADDR unit

/-- What a completed request brings about for the one that asked for it. (DEDUCED, log 88.) -/
def completeFor (n : Nat) (r : MReq) (corrected : Bool) (s : State) : State :=
  match r.why with
  | .vectorLine k req => s.updVu k (fun v => { v with lines := v.lines.map (fun l =>
      if l.req = req then { l with data := some (s.memBytes r.addr r.len) } else l) })
  | .fetchLine k line => codeIn k (16 * line) (s.memBytes r.addr r.len) s
  | .pinLoad k =>
    let first := s.rd (bEng k) F.Eng.ECODE.BASE * 128 + 8 * (s.eng k).pinBase
    codeIn k ((s.eng k).pinBase + (r.addr + 2 ^ 34 - first % 2 ^ 34) % 2 ^ 34 / 8) (s.memBytes r.addr r.len) s
  | .record i seq =>
    let s1 := memWrite r.addr (r.write.getD []) s
    s1.updStrm i (fun x => { x with ring := x.ring.map (fun y => if y.seq = seq then { y with writes := y.writes - 1 } else y) })
  | .transport i seq => if s.portHas n (.transport i seq) then s else streamSend i seq s
  | .dma d => match r.write with
    | some bs => dmaMoved d bs (memWrite r.addr bs s)
    | none => dmaMoved d (s.memBytes r.addr r.len) s
  | .scrub => if corrected then
      { s with hbm := { s.hbm with ecc := s.hbm.ecc.filter (fun e => e.1 != s.loc r.addr / 128) } } else s
  | .neighbour => s

/-- Corrected words of one unit are logged, one after the other (R283). -/
def logWords (p unit : Nat) (ws : List (Fin 16 × Fin 72 × BitVec 8)) (s : State) : State :=
  forL ws (fun w t => logCorrected p unit w.1 w.2.1 w.2.2.toNat t) s

/-- Request r of port n has been completed and counted; an ECC event of its read is logged, and its data take effect
(R263, R283). -/
def finishReq (n : Nat) (r : MReq) (reads : Bool) (ecc : EccObs) (s : State) : State :=
  match reads, ecc with
  | true, .corrected ws => completeFor n r (!ws.isEmpty) (logWords (s.pcOf r.addr) (r.addr / 128) ws s)
  | _, _ => completeFor n r false s

/-- A request caught by a freeze of the present cycle: completed in that cycle it counts as COMPLETED (R286); an
uncorrectable word of it is a second cause (R289). -/
def caughtComplete (n : Nat) (ecc : EccObs) (s : State) : State :=
  match (s.port n).caught with
  | [] => s
  | r :: t =>
    let reads := r.write.isNone || r.rmw
    if s.memc.frzCyc ≠ s.cycle ∨ !r.issued then s
    else match reads, ecc with
      | true, .uncorrectable word synd => freeze 1 (s.pcOf r.addr) n word synd.toNat (r.addr / 128 * 128) false s
      | _, _ =>
        let late := decide (2 * s.target n < s.cycle - r.at_)
        finishReq n r reads ecc (s.updPort n (fun x => { x with
          caught := t, completed := (x.completed + 1) % ctrMod, frozen := (x.frozen + ctrMod - 1) % ctrMod,
          late := (x.late + b2n late) % ctrMod }))

/-- MEM_REQUEST_COMPLETE: the oldest request of port n, its last column command issued, completes, or an uncorrectable word
freezes the controller (R261, R263, R270, R283, R284). (DEDUCED, log 88.) -/
def memComplete (n : Nat) (ecc : EccObs) (s : State) : State :=
  if s.frozen then caughtComplete n ecc s
  else match (s.port n).outs with
  | [] => s
  | r :: t =>
    if !r.issued ∨ !s.colsDone (s.pcOf r.addr) r.ord then s
    else
      let reads := r.write.isNone || r.rmw
      match reads, ecc with
      | true, .uncorrectable word synd => freeze 1 (s.pcOf r.addr) n word synd.toNat (r.addr / 128 * 128) false s
      | _, _ =>
        let late := decide (2 * s.target n < s.cycle - r.at_)
        let busy := decide (2 ≤ s.reqUrg n r)
        let s1 := s.updPort n (fun x => { x with
          outs := t, completed := (x.completed + 1) % ctrMod, late := (x.late + b2n late) % ctrMod })
        finishReq n r reads ecc (if busy then s1.updMemc (fun m => { m with lastBusy := max s.cycle m.lastBusy }) else s1)

/-- SCRUB_READ: the next unit of the patrol (R283). -/
def scrubOp (s : State) : State :=
  let iv := s.rd bMem F.Mem.MSCRUB
  if s.rd bMem F.Mem.MCTL.SCRUB_EN = 1 ∧ s.served ∧ s.memc.scrubAt ≤ s.cycle then
    (portReq 76 (128 * s.memc.scrubPtr) 128 none .scrub s).updMemc (fun m => { m with
      scrubPtr := (m.scrubPtr + 1) % 2 ^ 27, scrubAt := s.cycle + (if iv = 0 then 1000 else iv) })
  else s

/-! ### Release (R288) -/

/-- The records whose writes a freeze caught are written again, oldest first (R250, R288). -/
def rewriteRecords (i : Nat) (s : State) : State :=
  forL ((s.strm i).ring.filter (fun r => 0 < r.writes)) (fun r t =>
    let w := ringWrite i r.seq (t.rd (bStr i) F.Trs.SRING.BASE * 128) (t.ringSize i) r.addr (r.rec_.bytes r.seq) t
    w.1.updStrm i (fun x => { x with ring := x.ring.map (fun y => if y.seq = r.seq then { y with writes := w.2 } else y) })) s

/-- The stack's temperature is 102 °C or above (R288). -/
def State.stackHot (s : State) : Bool := decide (102 * 16 ≤ s.rdInt (bThm + 8 * 39) F.Thm.TEMP.T)

/-- MFRZ.RELEASE (R288): the frozen requests are lost, the queues are clear, the streams' writes are issued again, the
DMA transfers end with FROZEN, and re-initialisation starts. (DEDUCED, log 93.) -/
def opRelease (s : State) : State :=
  if !s.frozen ∨ s.memc.reinit then s
  else if s.rd bMem F.Mem.MSTAT.FCAUSE = 3 ∧ s.stackHot then s.raise bMem F.Mem.MSTAT.RELREFUSED 0
  else
    let s1 := forN 77 (fun n t => t.updPort n (fun x => { x with wait := [] })) s
    let s2 := forN 32 (fun p t => t.updPc p (fun x => { x with nbr := [], drain := false })) s1
    let s3 := resendAll (forN 64 rewriteRecords s2)
    let s4 := dmaEndAll 1 s3
    s4.updMemc (fun m => { m with reinit := true })

/-- STACK_REINIT_COMPLETE: FROZEN clears; a fill that the freeze ended runs again (R288, R411). (DEDUCED, log 93.) -/
def reinitDone (s : State) : State :=
  if !s.frozen ∨ !s.memc.reinit then s
  else (loadPhyAll (s.wr bMem F.Mem.MSTAT.FROZEN 0)).updMemc (fun m => { m with reinit := false })

/-! ### Changing the data rate (R278-R280) -/

/-- A change to the shadow set is requested (R278). -/
def rateRequest (s : State) : State :=
  if s.rd bMem F.Mem.MSTAT.FPEND = 1 then s
  else (s.wr bMem F.Mem.MSTAT.FPEND 1).updMemc (fun m => { m with lastBusy := max s.cycle m.lastBusy })

/-- MFREQ.CANCEL (R279). -/
def opCancel (s : State) : State :=
  if s.rd bMem F.Mem.MSTAT.FHOLD = 1 then s else s.wr bMem F.Mem.MSTAT.FPEND 0

/-- SELF_REFRESH_ENTRY: no request queued, no port urgent, no urgent refresh due or in progress, for 64 HBMCLK cycles (R279,
R280). -/
def selfRefresh (s : State) : State :=
  let quiet := (List.range 77).all (fun n => (s.port n).outs.all (·.issued) && decide (s.portUrg n < 2)) &&
    (List.range 32).all (fun p => decide (s.owed p < 9))
  if s.rd bMem F.Mem.MSTAT.FPEND = 1 ∧ s.rd bMem F.Mem.MSTAT.FHOLD = 0 ∧ !s.frozen ∧ quiet ∧
      64000 ≤ (s.cycle - s.memc.lastBusy) * s.hbmMHz then
    s.wr bMem F.Mem.MSTAT.FHOLD 1
  else s

/-- The band in force changes (R273, R274, R289): debts stay, and each PHY takes the new delays at its PC's next refresh;
OFF freezes the controller. -/
def bandSet (b : Nat) (s : State) : State :=
  let s1 := (s.wr bMem F.Mem.MSTAT.BAND b).updMemc (fun m => { m with phyPend := List.range 32 })
  if b = 3 then freeze 3 0xff 0xff 0 0 0 false s1 else s1

/-- The device has fallen below THROTTLE: a rate change that THM requested is requested back (R351), or withdrawn where
the first one has not taken place; during its hold the request back follows its end. (DEDUCED, log 34.) -/
def restoreRate (s : State) : State :=
  match s.thms.askedFrom with
  | none => s
  | some a =>
    let s1 := s.updThms (fun x => { x with askedFrom := none })
    if s.rd bMem F.Mem.MSTAT.TSET ≠ a then rateRequest s1
    else if s.rd bMem F.Mem.MSTAT.FHOLD = 1 then s
    else opCancel s1

/-- The three words of a timing set (R278). -/
def State.timing (s : State) (t : Nat) : Word × Word × Word :=
  let x := bMem + 0x200 + 0x40 * t
  (s.reg x, s.reg (x + 8), s.reg (x + 16))

/-- Mode register n of PC p of the stack (R255): as MRW wrote it, else as the controller did, from the set in force for the
latencies and from timing set 0 for the others; before the initialisation what the stack holds is open.
(DESIGN CHOICE, log 147.) -/
def State.modeReg (s : State) (p n : Nat) : BitVec 8 :=
  match s.memc.modeRegs.find? (fun e => e.1 == 256 * p + n), if Config.latencyReg n then s.memc.latSet else s.memc.modeSet with
  | some e, _ => e.2
  | none, some t => Config.modeReg t n
  | none, none => Config.freeByte n

/-- RATE_CHANGE_COMPLETE: the latency mode registers are written for the new rate (R280, R289). -/
def rateDone (s : State) : State :=
  if s.rd bMem F.Mem.MSTAT.FHOLD = 0 then s
  else
    let t := 1 - s.rd bMem F.Mem.MSTAT.TSET
    let r := s.rd (bMem + 0x40 * t) F.Mem.MTIM2.RATE
    let s1 := ((s.wr bMem F.Mem.MSTAT.TSET t).wr bMem F.Mem.MSTAT.RATE (min r 2)).wr bMem F.Mem.MSTAT.FHOLD 0
    let s2 := forN 32 (fun p x => emptyTable p (x.updPc p (fun c => { c with
        debt := 0, debtAt := s.cycle, busyTo := s.cycle, acts := [], cols := [], bursts := [], slot := 0 })))
      ((s1.wr bMem F.Mem.MSTAT.FPEND 0).updMemc (fun m => { m with
        latSet := some (s.timing t), modeRegs := m.modeRegs.filter (fun e => !Config.latencyReg (e.1 % 256)) }))
    let s3 := match s2.memc.bandNext with
      | some b => loadPhyAll (bandSet b (s2.updMemc (fun m => { m with bandNext := none })))
      | none => loadPhyAll s2
    if s3.rd bThm F.Thm.THMSTAT.STATE < 2 then restoreRate s3 else s3

/-! ### Counters (R286) -/

/-- MCTL.SNAP copies all port counters. -/
def opMemSnap (s : State) : State :=
  (forN 77 (fun n t =>
    let x := t.port n
    let b := bPort n
    (((t.wr b F.Mem.ISSUED x.issued).wr b F.Mem.COMPLETED x.completed).wr b F.Mem.FROZEN x.frozen).wr b F.Mem.LATE x.late) s).inc
    bMem F.Mem.MSTAT.SNAP_SEQ 1

/-- MCTL.CNTCLR zeroes every counter of the controller and PCECC. -/
def opMemClr (s : State) : State :=
  let s1 := forN 77 (fun n t =>
    let b := bPort n
    let t1 := t.updPort n (fun x => { x with issued := 0, completed := 0, frozen := 0, late := 0 })
    (((t1.wr b F.Mem.ISSUED 0).wr b F.Mem.COMPLETED 0).wr b F.Mem.FROZEN 0).wr b F.Mem.LATE 0) s
  forN 32 (fun p t =>
    let b := bPc p
    ((((t.setReg (b + 0x2000) 0#64).wr b F.Mem.PCREF.URGENT 0).wr b F.Mem.PCRD.FALLBACK 0).wr b F.Mem.PCRD.TABLE 0).wr b
      F.Mem.PCRMW.RMW 0) s1

/-! ### Initialisation, fill, enable, training (R282, R410, R411) -/

/-- MEM_INIT_COMPLETE: the mode registers are written from timing set 0 (R410); a write of EN = 1 before starts the fill
now, unless the factory delays failed their check word (R411). -/
def memInitDone (s : State) : State :=
  if s.memc.initDone ∨ !(List.range 32).all (fun p => s.pcOn p) then s
  else
    let good := crc32 (s.mramBytes 0x2f0000 0x1800) == s.mramW 0x2f1800
    let s1 := s.updMemc (fun m => { m with
      initDone := true, modeRegs := [], modeSet := some (s.timing 0), latSet := some (s.timing 0) })
    if good then
      let s2 := forN 0x600 (fun i t => t.setTw (tPhy + 4 * i) (s.mramW (0x2f0000 + 4 * i))) s1
      let s3 := (settleDebts (loadPhyAll s2)).wr bMem F.Mem.MCTL.REFEN 1
      if s.rd bCtl F.Ctl.STRAP.ADDR_LOCK = 1 then s3.updMemc (fun m => { m with filling := true }) else s3
    else (s1.wr bMem F.Mem.MSTAT.PHYNOFAC 1).updMemc (fun m => { m with filling := false })

/-- A write of EN = 1: the first one after reset starts the fill, once the initialisation has ended, and EN reads 0 until it
ends; a later one serves the ports again and loads the PHY (R281, R411). -/
def setEn (s : State) : State :=
  if s.memc.filling ∨ s.rd bMem F.Mem.MCTL.EN = 1 then s
  else if s.memc.filled then loadPhyAll (s.wr bMem F.Mem.MCTL.EN 1)
  else s.updMemc (fun m => { m with filling := true })

/-- MEMORY_FILL_COMPLETE: the stack holds zeros, EN reads 1 and the PHY loads its delays (R281, R411). -/
def fillDone (s : State) : State :=
  if !s.memc.filling ∨ !s.memc.initDone ∨ s.frozen then s
  else
    let s1 := s.updMemc (fun m => { m with filling := false, filled := true })
    loadPhyAll { s1.wr bMem F.Mem.MCTL.EN 1 with hbm := { cells := [], lost := none, ecc := [] } }

/-- A training primitive starts (R282): only with EN = 0, the initialisation over (R410) and no fill running. -/
def trainStart (op : Nat) (s : State) : State :=
  if s.rd bMem F.Mem.MCTL.EN = 1 ∨ !s.memc.initDone ∨ s.memc.filling ∨ s.memc.trainOp ≠ 0 then s
  else ((s.updMemc (fun m => { m with trainOp := op })).wr bMem F.Mem.MTRAIN.BUSY 1).wr bMem F.Mem.MTRES.DONE 0

/-- The 128 bytes of TRAINBUF. -/
def State.trainBuf (s : State) : List Byte :=
  (List.range 16).flatMap (fun w => leBytes 8 (s.reg (bMem + 0x300 + 8 * w)).toNat)

/-- The 128 ECC-line bits of TRAINECC. (DESIGN CHOICE, log 17.) -/
def State.trainEcc (s : State) : BitVec 128 := s.reg (bMem + 0x388) ++ s.reg (bMem + 0x380)

/-- The lines on which a unit differs from the buffer: bit j of both beats of each 64-bit word lies on line j; the check
bits of a unit that no primitive wrote are a free value (R282, R283). (DESIGN CHOICE, log 17.) (DEDUCED, log 92.) -/
def failLines (s : State) (a : Nat) : Nat :=
  let x := ((s.memBytes a 128).zip s.trainBuf).map (fun p => (p.1 ^^^ p.2).toNat)
  let line := fun (j : Nat) => (List.range 32).any (fun b => (atD x (4 * b + j / 8) 0).testBit (j % 8))
  let e := match s.hbm.ecc.find? (fun e => e.1 == s.loc a / 128) with
    | some (_, w) => w
    | none => Config.freeWord (2 * s.free + 1) ++ Config.freeWord (2 * s.free)
  let d := (e ^^^ s.trainEcc).toNat
  let eccLine := fun (j : Nat) => (List.range 32).any (fun b => d.testBit (4 * b + j))
  ((List.range 32).map (fun j => if line j then 2 ^ j else 0)).sum +
    ((List.range 4).map (fun j => if eccLine j then 2 ^ (32 + j) else 0)).sum

/-- MTRAIN_DONE: the primitive in progress completes (R282). -/
def trainDone (s : State) : State :=
  let a := s.rd bMem F.Mem.MTRAIN.ADDR * 128
  let fin := fun (t : State) => ((t.updMemc (fun m => { m with trainOp := 0 })).wr bMem F.Mem.MTRAIN.BUSY 0).wr bMem F.Mem.MTRES.DONE 1
  match s.memc.trainOp with
  | 1 =>
    let s1 := memWrite a s.trainBuf s
    fin { s1 with hbm := { s1.hbm with ecc := (s.loc a / 128, s.trainEcc) :: s1.hbm.ecc } }
  | 2 => fin (s.fresh.wr bMem F.Mem.MTRES.FAIL (failLines s a))
  | 3 =>
    let key := 256 * s.rd bMem F.Mem.MTRAIN.PC + s.rd bMem F.Mem.MTRAIN.MRN
    fin (s.updMemc (fun m => { m with modeRegs :=
      (key, BitVec.ofNat 8 (s.rd bMem F.Mem.MTRAIN.MRVAL)) :: m.modeRegs.filter (fun e => e.1 != key) }))
  | _ => s

/-! ### Meanings -/

/-- MEM_REQUEST_ACCEPT (R259, R265). -/
def execMemRequestAccept (n : Fin 77) (s : State) : Outcome State Fault Refusal := act s (memAccept n)

/-- ACTIVATE_ISSUE (R267, R268, R275-R277). -/
def execActivateIssue (p : Fin 32) (s : State) : Outcome State Fault Refusal := act s (activateOp p)

/-- NEIGHBOUR_REFRESH (R276, R277). -/
def execNeighbourRefresh (p : Fin 32) (s : State) : Outcome State Fault Refusal := act s (neighbourOp p)

/-- REFRESH (R271, R272, R274, R275). -/
def execRefresh (p : Fin 32) (s : State) : Outcome State Fault Refusal := act s (refreshOp p)

/-- MEM_REQUEST_COMPLETE (R263, R270, R283, R284). -/
def execMemRequestComplete (n : Fin 77) (ecc : EccObs) (s : State) : Outcome State Fault Refusal := act s (memComplete n ecc)

/-- SCRUB_READ (R283). -/
def execScrubRead (s : State) : Outcome State Fault Refusal := act s scrubOp

/-- CAPAR_ERROR (R284, R287). -/
def execCaparError (p : Fin 32) (s : State) : Outcome State Fault Refusal := act s (caparOp p)

/-- MFREQ_REQ (R278, R279). -/
def execMfreqReq (s : State) : Outcome State Fault Refusal := act s (cmdAccess (bMem + 0x10) false false rateRequest)

/-- MFREQ_CANCEL (R279). -/
def execMfreqCancel (s : State) : Outcome State Fault Refusal := act s (cmdAccess (bMem + 0x10) false false opCancel)

/-- SELF_REFRESH_ENTRY (R279, R280). -/
def execSelfRefreshEntry (s : State) : Outcome State Fault Refusal := act s selfRefresh

/-- RATE_CHANGE_COMPLETE (R280, R289). -/
def execRateChangeComplete (s : State) : Outcome State Fault Refusal := act s rateDone

/-- MCTL_FORCEFRZ (R284). -/
def execMctlForcefrz (s : State) : Outcome State Fault Refusal :=
  act s (cmdAccess bMem true false (freeze 4 0xff 0xff 0 0 0 false))

/-- MFRZ_RELEASE (R288). -/
def execMfrzRelease (s : State) : Outcome State Fault Refusal := act s (cmdAccess (bMem + 0x18) true true opRelease)

/-- STACK_REINIT_COMPLETE (R288). -/
def execStackReinitComplete (s : State) : Outcome State Fault Refusal := act s reinitDone

/-- MCTL_SNAP (R286). -/
def execMctlSnap (s : State) : Outcome State Fault Refusal := act s (cmdAccess bMem false false opMemSnap)

/-- MCTL_CNTCLR (R286). -/
def execMctlCntclr (s : State) : Outcome State Fault Refusal := act s (cmdAccess bMem false false opMemClr)

/-- MCTL_EN: a write of EN = 1 (R383, R411). -/
def execMctlEn (s : State) : Outcome State Fault Refusal :=
  act s (cmdAccess bMem (decide (s.rd bMem F.Mem.MCTL.EN = 0)) true setEn)

/-- MEM_INIT_COMPLETE (R410). -/
def execMemInitComplete (s : State) : Outcome State Fault Refusal := act s memInitDone

/-- MEMORY_FILL_COMPLETE (R411). -/
def execMemoryFillComplete (s : State) : Outcome State Fault Refusal := act s fillDone

/-- WRITE_PATTERN (R282). -/
def execWritePattern (s : State) : Outcome State Fault Refusal := act s (cmdAccess (bMem + 0x280) false false (trainStart 1))

/-- READ_COMPARE (R282). -/
def execReadCompare (s : State) : Outcome State Fault Refusal := act s (cmdAccess (bMem + 0x280) false false (trainStart 2))

/-- MRW (R282). -/
def execMrw (s : State) : Outcome State Fault Refusal := act s (cmdAccess (bMem + 0x280) false false (trainStart 3))

/-- MTRAIN_DONE (R282). -/
def execMtrainDone (s : State) : Outcome State Fault Refusal := act s trainDone

end Sys2Proof.Machine
end

