-- ==== Sys2Proof/Machine/Power.lean ====
section
/-! DEFINITION. Heat, supplies and power domains (R344-R362), power-up and reset (R402-R418). -/

namespace Sys2Proof.Machine

open Host

/-! ### Sensors and junction limits (R344-R350) -/

/-- The AONCLK cycle: 32 MHz (R362). -/
def State.aonCycle (s : State) : Nat := s.cycle * 32 / 1000

/-- The host's writes of the present AONCLK cycle; none so far. -/
def State.aonRec (s : State) : AonRec :=
  let fresh : AonRec := { at_ := s.aonCycle, pden := s.reg (bThm + F.Thm.PDEN.off), pden1 := s.reg (bThm + F.Thm.PDEN1.off),
                          thresh := s.reg (bThm + F.Thm.THRESH.WARN.off) }
  match s.thms.aon with
  | some a => if a.at_ = s.aonCycle then a else fresh
  | none => fresh

/-- A limit in 2^-4 degrees C: rising state n = 1, 2, 3 (R348). A value above its reset value acts as that. A sample is
judged against the limits before a write of its AONCLK cycle (R362). -/
def State.limit (s : State) (n : Nat) : Int :=
  let w := s.aonRec.thresh
  let v := fun (f : Fld) => fget w f.hi f.lo
  match n with
  | 1 => 16 * (min 100 (v F.Thm.THRESH.WARN) : Nat)
  | 2 => 16 * (min 110 (v F.Thm.THRESH.THROT) : Nat)
  | _ => 16 * (min 120 (v F.Thm.THRESH.SHUT) : Nat)

/-- A usable reading: -40 to +150 degrees C (R346). (DEDUCED, log 32.) -/
def readOk (r : Option Int) : Option Int :=
  match r with
  | some t => if -640 ≤ t ∧ t ≤ 2400 then some t else none
  | none => none

/-- A THERMAL mark (R231, R350). -/
def thermMark (sensor st : Nat) (t : Int) (s : State) : State :=
  devMark 0x31 sensor (BitVec.ofNat 64 st) (BitVec.ofNat 64 (ofSigned 64 t)) 0#64 (stampAt s.nowFt) s

/-- The state of sensor i. -/
def State.sensState (s : State) (i : Nat) : Nat := s.rd (bThm + 8 * i) F.Thm.TEMP.STATE

/-- A sensor takes a state, with its mark if that is a change. -/
def setSens (i st : Nat) (t : Int) (s : State) : State :=
  if s.sensState i = st then s else thermMark i st t (s.wr (bThm + 8 * i) F.Thm.TEMP.STATE st)

/-- The counts of a sensor after a usable reading against the limits and its state (R348). (DEDUCED, log 32.) -/
def sensCount (l1 l2 l3 : Int) (st : Nat) (t : Int) (x : Sens) : Sens :=
  let up := fun (l : Int) (n : Nat) => if l ≤ t then min 8 (n + 1) else 0
  let own := match st with | 1 => l1 | 2 => l2 | _ => l3
  { x with warn := up l1 x.warn, throt := up l2 x.throt, shut := up l3 x.shut, bad := 0,
           down := if st ≠ 0 ∧ t < own - 32 then min 8 (x.down + 1) else 0 }

/-- The state that the counts lead to (R348): the highest one reached for 8 samples above the present one, else one state
down after 8 samples. -/
def sensNext (st : Nat) (x : Sens) : Nat :=
  if st < 3 ∧ 8 ≤ x.shut then 3
  else if st < 2 ∧ 8 ≤ x.throt then 2
  else if st < 1 ∧ 8 ≤ x.warn then 1
  else if 8 ≤ x.down then st - 1
  else st

/-- Samples in the present run toward a change. -/
def dwellOf (st : Nat) (x : Sens) : Nat :=
  min 8 (max x.down (max (if st < 3 then x.shut else 0) (max (if st < 2 then x.throt else 0) (if st < 1 then x.warn else 0))))

/-- Sensor i of 0 to 38 is read (R346, R348). -/
def sampleJunction (i : Nat) (r : Option Int) (s : State) : State :=
  let b := bThm + 8 * i
  let st := s.sensState i
  let s0 := match r with | some t => s.wrInt b F.Thm.TEMP.T t | none => s
  if s.rd b F.Thm.TEMP.FAIL = 1 then s0
  else match readOk r with
    | none =>
      let n := (s.sens i).bad + 1
      let s1 := (s0.updSens i (fun _ => { bad := n })).wr b F.Thm.TEMP.DWELL 0
      if n < 3 then s1
      else setSens i 2 (r.getD (s.rdInt b F.Thm.TEMP.T)) ((s1.wr b F.Thm.TEMP.FAIL 1).raise bThm F.Thm.THMSTAT.SENSFAIL 0)
    | some t =>
      let x := sensCount (s.limit 1) (s.limit 2) (s.limit 3) st t (s.sens i)
      let st' := sensNext st x
      let y := if st' = st then x else { x with down := 0 }
      let s1 := (s0.updSens i (fun _ => y)).wr b F.Thm.TEMP.DWELL (dwellOf st' y)
      let s2 := if i < 32 then s1.wrInt (bCal + 8 * i) F.Cal.CSKTEMP.TNOW t else s1
      setSens i st' t s2

/-! ### The stack's sensor (R273, R347) -/

/-- The band whose range a reading lies in, from the present band (R273): rising thresholds 85, 95 and 105 degrees C,
falling ones 3 degrees lower. (DEDUCED, log 33.) -/
def bandOf (b : Nat) (t : Int) : Nat :=
  let up := if 1680 < t then 3 else if 1520 < t then 2 else if 1360 ≤ t then 1 else 0
  let down := if 1632 ≤ t then 3 else if 1472 ≤ t then 2 else if 1312 ≤ t then 1 else 0
  max up (min b down)

/-- THM gives the controller a band; during the hold of a rate change it waits for the exit (R289). -/
def bandTo (b : Nat) (s : State) : State :=
  if s.rd bMem F.Mem.MSTAT.FHOLD = 1 then s.updMemc (fun m => { m with bandNext := some b }) else bandSet b s

/-- Sensor 39 is read (R273, R347). (DEDUCED, log 33.) -/
def sampleStack (r : Option Int) (s : State) : State :=
  let b := bThm + 8 * 39
  let s0 := match r with | some t => s.wrInt b F.Thm.TEMP.T t | none => s
  if s.rd b F.Thm.TEMP.FAIL = 1 then s0
  else match readOk r with
    | none =>
      let n := (s.sens 39).bad + 1
      let s1 := (s0.updSens 39 (fun _ => { bad := n })).wr b F.Thm.TEMP.DWELL 0
      if n < 3 then s1
      else
        let s2 := (s1.wr b F.Thm.TEMP.FAIL 1).raise bThm F.Thm.THMSTAT.SENSFAIL 0
        bandTo 2 (thermMark 39 2 (r.getD (s.rdInt b F.Thm.TEMP.T)) (s2.wr b F.Thm.TEMP.STATE 2))
    | some t =>
      let now := s.sensState 39
      let target := bandOf now t
      let x := s.sens 39
      let n := if target = now then 0 else if target = x.band then x.run + 1 else 1
      (s0.updSens 39 (fun _ => { bad := 0, band := target, run := n })).wr b F.Thm.TEMP.DWELL (min 8 n)

/-- BAND_CHANGE: sixteen consecutive samples lay in the new band's range (R273, R350). -/
def bandChange (s : State) : State :=
  let x := s.sens 39
  if s.rd (bThm + 8 * 39) F.Thm.TEMP.FAIL = 1 ∨ x.run < 16 then s
  else
    let s1 := (s.wr (bThm + 8 * 39) F.Thm.TEMP.STATE x.band).updSens 39 (fun x => { x with run := 0 })
    bandTo x.band (thermMark 39 x.band (s.rdInt (bThm + 8 * 39) F.Thm.TEMP.T) (s1.wr (bThm + 8 * 39) F.Thm.TEMP.DWELL 0))

/-! ### The device state (R348, R350-R352, R429) -/

/-- THM requests a lower data rate, where it has not asked for one already and none is pending (R351, R362); RATE 3 acts
as 2. (DEDUCED, log 34.) -/
def throttleRate (s : State) : State :=
  let a := s.rd bMem F.Mem.MSTAT.TSET
  let rate := fun (t : Nat) => min 2 (s.rd (bMem + 0x40 * t) F.Mem.MTIM2.RATE)
  if s.rd bThm F.Thm.THMCFG.MEMRATE = 1 ∧ s.thms.askedFrom = none ∧ rate (1 - a) < rate a ∧
      s.rd bMem F.Mem.MSTAT.FPEND = 0 then
    (rateRequest s).updThms (fun x => { x with askedFrom := some a })
  else s

/-- The device enters SHUTDOWN (R352, R342): channels safe, calibration aborted, a store ends after its present block. -/
def shutdown (s : State) : State :=
  let s1 := calAbort (safeAll (s.inc bThm F.Thm.THMCNT.SHUTDOWNS 1))
  (s1.updCals (fun c => { c with store := c.store.map (fun x => { x with stop := true }) })).updThms
    (fun x => { x with shutAt := some s.cycle })

/-- The enable of a domain. -/
def setEnable (d : Nat) (v : Bool) (s : State) : State :=
  if d < 64 then s.setBit bThm F.Thm.PDEN d v else s.setBit bThm F.Thm.PDEN1 (d - 64) v

/-- The changes of R353 and R360 that are refused: `new` gives the enables that the write would leave. -/
def State.pdFault (s : State) (new : Nat → Bool) (d : Nat) : Bool :=
  let up := new d && !s.domEn d
  let down := s.domEn d && !new d
  let shut := up && decide (s.rd bThm F.Thm.THMSTAT.STATE = 3) && decide (d < 64 ∨ 88 ≤ d)
  let rule :=
    if d < 32 then up && !new (32 + d)
    else if d < 64 then down && (s.engRunning (d - 32) || new (d - 32))
    else if d < 80 then down && decide (s.rd bMem F.Mem.MCTL.EN = 1)
    else if d = 84 then up && !s.isHead
    else if d = 85 then down && (new 87 || (List.range 16).any (fun k => new (32 + k)))
    else if d = 86 then down && (new 87 || (List.range 16).any (fun k => new (48 + k)))
    else if d = 87 then down && (List.range 64).any (fun i => s.rd (bStr i) F.Trs.SCTL.EN == 1)
    else false
  shut || rule

/-- A word written to PDEN (`one` = false) or PDEN1, judged as a whole (R353, R360). -/
def judgePden (one : Bool) (word : Word) (s : State) : State :=
  let new := fun (d : Nat) =>
    if one then (if d < 64 then s.domEn d else word.getLsbD (d - 64)) else (if d < 64 then word.getLsbD d else s.domEn d)
  match (List.range 96).find? (s.pdFault new) with
  | some d => (s.raise bThm F.Thm.THMSTAT.PDERR 0).wr bThm F.Thm.THMSTAT.PDERRDOM d
  | none => s.setReg (bThm + (if one then F.Thm.PDEN1.off else F.Thm.PDEN.off)) word

/-- A write to PDEN or PDEN1 takes effect, and is kept for the AONCLK cycle (R362). -/
def opPden (one whole : Bool) (word : Word) (s : State) : State :=
  let a := s.aonRec
  let w : PdenW := { one := one, whole := whole, old := s.reg (bThm + (if one then F.Thm.PDEN1.off else F.Thm.PDEN.off)),
                     new := word }
  judgePden one word (s.updThms (fun x => { x with aon := some { a with writes := a.writes ++ [w] } }))

/-- THRESH has been written: what it held before the AONCLK cycle judges the sample of that cycle (R362). -/
def noteThresh (old : Word) (s : State) : State :=
  let a := (s.setReg (bThm + F.Thm.THRESH.WARN.off) old).aonRec
  s.updThms (fun x => { x with aon := some a })

/-- The transition to SHUTDOWN comes before the enable writes of its AONCLK cycle (R362): they are judged anew under
R353. -/
def pdenAgain (s : State) : State :=
  let a := s.aonRec
  if a.writes = [] then s
  else
    let s1 := (s.setReg (bThm + F.Thm.PDEN.off) a.pden).setReg (bThm + F.Thm.PDEN1.off) a.pden1
    forL a.writes (fun w t =>
      let now := t.reg (bThm + (if w.one then F.Thm.PDEN1.off else F.Thm.PDEN.off))
      judgePden w.one (if w.whole then w.new else (now ||| (w.new &&& ~~~ w.old)) &&& ~~~ (w.old &&& ~~~ w.new)) t) s1

/-- The device state follows the sensors (R348): a change raises source 33 anew. (DEDUCED, log 31.) -/
def deviceState (s : State) : State :=
  let old := s.rd bThm F.Thm.THMSTAT.STATE
  let new := (List.range 39).foldl (fun m i => max m (s.sensState i)) 0
  if new = old then s
  else
    let bit := 2 ^ 33
    let s1 : State := { s.wr bThm F.Thm.THMSTAT.STATE new with
      irqSent := if s.irqSent.testBit 33 then s.irqSent - bit else s.irqSent
      irqLatch := if s.bit bCtl F.Ctl.IRQEN 33 then s.irqLatch ||| bit else s.irqLatch }
    let s2 := if new = 2 then s1.inc bThm F.Thm.THMCNT.THROTTLES 1 else s1
    let s3 := if new = 2 then throttleRate s2 else if 2 ≤ old ∧ new < 2 then restoreRate s2 else s2
    if new = 3 then pdenAgain (shutdown s3) else s3

/-- A reading lies within 5 degrees C of one of its sensor's limits (R345): those of sensor 39 are the band thresholds of
R273, rising and falling. -/
def State.nearLimit (s : State) (i : Nat) (t : Int) : Bool :=
  let ls : List Int := if i = 39 then [1360, 1312, 1520, 1472, 1680] else [s.limit 1, s.limit 2, s.limit 3]
  ls.any (fun l => decide (l - 80 ≤ t ∧ t ≤ l + 80))

/-- Fast mode, FASTTIME and the time of the next sample (R345). -/
def fastMode (near : Bool) (s : State) : State :=
  let fast := s.rd bThm F.Thm.THMSTAT.FAST = 1
  let ns := if fast then s.thms.fastNs + 31250 else s.thms.fastNs
  let calm := if fast ∧ !near then s.thms.calm + 1 else 0
  let fast' := near || (decide fast && decide (calm < 32))
  let s1 := (s.inc bThm F.Thm.THMCNT.FASTTIME (ns / 1000000)).wr bThm F.Thm.THMSTAT.FAST (b2n fast')
  s1.updThms (fun x => { x with calm := if fast' then calm else 0, fastNs := ns % 1000000,
                                nextAt := s.cycle + (if fast' then 31250 else 1000000) })

/-- The compensated IRO frequency at a reading of the nearest core corner, in 2^-32 ppm (R294): the cubic of the factory
area, evaluated exactly and truncated. (DESIGN CHOICE, log 14.) -/
def State.iroAt (s : State) (t : Int) : Int :=
  let c := fun (n : Nat) => toSigned 64 ((s.mramW (0x2e0000 + 8 * n)).toNat + 2 ^ 32 * (s.mramW (0x2e0004 + 8 * n)).toNat)
  (c 0 * 4096 + c 1 * t * 256 + c 2 * t * t * 16 + c 3 * t * t * t) / 4096

/-- TB is in HOLDOVER. -/
def State.holdTb (s : State) : Bool := decide (s.rd bTb F.Tb.TBSTAT.STATE = 2)

/-- THM_SAMPLE: the 40 readings, in 2^-4 degrees C, none where a sensor returns no conversion (R345-R351). In
holdover the frequency held is the frozen one and the change of the compensated IRO frequency since the freeze (R294).
(DESIGN CHOICE, log 122.) -/
def thmSample (rs : List (Option Int)) (s : State) : State :=
  if s.cycle < s.thms.nextAt then s
  else
    let rd := fun (i : Nat) => atD rs i none
    let s1 := sampleStack (rd 39) (forN 39 (fun i t => sampleJunction i (rd i) t) s)
    let top := (List.range 39).foldl (fun (m : Option Int) i => match readOk (rd i), m with
      | some t, some u => some (max t u)
      | some t, none => some t
      | none, m => m) none
    let s2 := match top with | some t => s1.wrInt bThm F.Thm.THMSTAT.TMAX t | none => s1
    let s3 := match readOk (rd (32 + Config.iroCorner)) with
      | some t => s2.updTbs (fun x => { x with
          iro := s.iroAt t, 
          held := if s.holdTb then x.pllFerr * 2 ^ 32 / 1000 + (s.iroAt t + s.rdInt bTb F.Tb.IROCOMP * 2 ^ 32 / 1000 - x.iroFrz)
            else x.held })
      | none => s2
    let near := (List.range 40).any (fun i => match readOk (rd i) with | some t => s.nearLimit i t | none => false)
    deviceState (fastMode near s3)

/-! ### The core supply loop (R354-R356) -/

/-- The transactions of a loop step in order (R354): at loop start the version, the transition rate of 1 mV/us and the
present voltage are commanded and read, then the current and the temperature. -/
def avsReads (start : Bool) : List (Nat × Option Nat) :=
  (if start then [(0xf, none), (0x1, some 1), (0x0, none)] else []) ++ [(0x2, none), (0x3, none)]

/-- A version reply that reports PMBus 1.3 (R354): major and minor as two digits. (DEDUCED, log 35.) -/
def avsVersionOk (version : Nat) : Bool := decide (version = 13)

/-- AVS_STEP (R355, R356): the CPM slacks of the step, what commands 0h (at loop start), 2h and 3h returned, how many
transactions failed one after another at its end, and the version that command Fh returned. One failure was made good by
its retry; with two, the step's last transaction, and a voltage it commanded, is lost. After a failure the status is read.
(DEDUCED, log 35.) -/
def avsStep (slacks : List Int) (vout iout : Nat) (rtemp : Int) (fails version : Nat) (s : State) : State :=
  let x := s.thms
  let b := bThm
  if s.rd b F.Thm.AVSCFG.EN = 0 ∨ x.pwrAt.isNone ∨ x.avsStop ∨ s.cycle < x.avsAt ∨ slacks = [] then s
  else
    let total := if fails = 0 then 0 else x.avsFails + fails
    let lost := decide (2 ≤ fails)
    let later : State := s.updThms (fun y => { y with avsFails := if lost then fails else 0, avsAt := s.cycle + 100000 })
    if 3 ≤ total then
      ((s.raise b F.Thm.AVSSTAT.BUSERR 0).updThms (fun y => { y with avsStop := true, avsRun := false, avsFails := 0 })).out
        (.avs 0xe none)
    else if !x.avsRun ∧ !avsVersionOk version then later.out (.avs 0xf none)
    else
      let least := slacks.foldl (fun m a => min m a) (slacks.headD 0)
      let margin : Int := s.rd b F.Thm.AVSCFG.MARGIN
      let vmin : Int := max 650 (s.rd b F.Thm.AVSCFG.VMIN)
      let vmax : Int := min 850 (s.rd b F.Thm.AVSCFG.VMAX)
      let v : Int := if x.avsRun then s.rd b F.Thm.AVSSTAT.VOUT else vout
      let v1 := if least ≤ 0 then v + 25 else if least < margin - 2 then v + 5 else if margin + 2 < least then v - 5 else v
      let v2 := min (max v1 vmin) vmax
      let s1 := forL (avsReads (!x.avsRun)) (fun c t => t.out (.avs c.1 c.2)) (later.updThms (fun y => { y with avsRun := true }))
      let s2 := ((s1.wrInt b F.Thm.AVSSTAT.SLACK least).wr b F.Thm.AVSSTAT.IOUT iout).flag b F.Thm.AVSSTAT.ALARM
        (decide (least ≤ 0))
      let s3 := (s2.flag b F.Thm.AVSSTAT.LIMIT (decide (v2 = vmax ∧ least < margin - 2))).wrInt b F.Thm.AVSSTAT.VOUT v
      let s4 := if lost ∧ v2 = v then s3 else s3.wrInt b F.Thm.AVSSTAT.RTEMP rtemp
      let s5 := if v2 = v then s4
        else
          let t := s4.out (.avs 0x0 (some v2.toNat))
          if lost then t else t.wrInt b F.Thm.AVSSTAT.VOUT v2
      if fails = 0 then s5 else s5.out (.avs 0xe none)

/-! ### Power domains (R357-R360) -/

/-- PGOOD of a domain. -/
def setGood (d : Nat) (v : Bool) (s : State) : State :=
  if d < 64 then s.setBit bThm F.Thm.PDSTAT d v else s.setBit bThm F.Thm.PDSTAT1 (d - 64) v

/-- The order in which domains start (R358). -/
def domOrder : List Nat := (List.range 32).map (· + 32) ++ List.range 32 ++ (List.range 32).map (· + 64)

/-- The entries of a table whose key satisfies no test. -/
def tdrop {α : Type} (p : Nat → Bool) (t : Table α) : Table α := t.filter (fun e => !p e.1)

/-- A commit unit lies in a domain (R376). -/
def unitIn (d : Nat) : HUnit → Bool
  | .levels g => decide (d = 32 + g / 16)
  | .echo g => decide (d = 32 + g / 16)
  | .epsk k => decide (d = 32 + k)
  | .slot k _ => decide (d = 32 + k)
  | .engine k => decide (d = 32 + k)
  | .cond _ => decide (d = 87)
  | .stream _ => decide (d = 87)
  | .tb => false
  | .mem => false

/-- A parametric ADC goes off with its queue: each request completes as one to a domain that is off (R41).
(DEDUCED, log 29.) -/
def adcOff (m : Nat) (s : State) : State :=
  let q := tget (fun _ => []) s.adcQ m
  let s1 := forL q (fun e t => ((t.wr (bCh e.1) F.Ch.PMURES.OFFDOMAIN 1).inc (bCh e.1) F.Ch.PMURES.SEQ 1).wr (bCh e.1)
    F.Ch.PESTAT.PMU_BUSY 0) s
  { s1 with adcQ := tput (fun _ => []) s1.adcQ m [] }

/-- A skein's pins without power (R45): high-Z, in safe state. (DEDUCED, log 29.) -/
def analogOff (k : Nat) (s : State) : State :=
  forN 16 (fun c t =>
    let g := 16 * k + c
    ((dskAbortCh g t).updChan g (fun x => safeDrive t g { x with safe := true, rel := false, safeBy := none, evs := [],
                                                                  cmps := [], echoes := [] })).wr (bCh g) F.Ch.PESTAT.SAFE 1) s

/-- A LANYARD port that has lost its transmitter or receiver, and is down: no packet is left in it. -/
def linkReset (q : Nat) (s : State) : State := (portDrop q s).updLp q (fun _ => {})

/-- What a domain holds returns to its reset values (R359): its registers and tables, the parts behind them, the commits
that its units had yet to apply, its block's held low word, the packets of a LANYARD port, the transfers that wait at HIF's
memory ports, the requests in a MEM slice's queues. -/
def domainReset (d : Nat) (s : State) : State :=
  let k := d - 32
  let gone := fun (x : Nat) => domainOf 0 x == some d
  let s0 := if 32 ≤ d ∧ d < 64 then runOff k 15 (dskAbortSk k s) else if d < 32 then runOff d 14 s else if 80 ≤ d ∧ d < 84 then portDownOp ((d - 80) / 2) s else s
  let s1 := unitsDrop (unitIn d) s0
  let s2 : State := { s1 with regs := tdrop gone s1.regs, staged := tdrop gone s1.staged, tables := tdrop gone s1.tables }
  if d < 32 then analogOff d s2
  else if d < 64 then
    let chan := fun (g : Nat) => decide (g / 16 = k)
    let one := fun (j : Nat) => decide (j = k)
    let s3 : State := { s2 with chans := tdrop chan s2.chans, skeins := tdrop one s2.skeins,
                                slots := tdrop (fun j => decide (j / 64 = k)) s2.slots, engs := tdrop one s2.engs,
                                vus := tdrop one s2.vus }
    let last := (s2.skein k).trigAt
    calBusy ((noteDll k false (s3.updSkein k (fun z => { z with trigAt := last }))).setLow (8 + k) none)
  else if d < 80 then
    let m := d - 64
    let mine := fun (p : Nat) => decide (p / 2 = m)
    let h := s2.hbm
    let s3 := forN 77 (fun n t => t.updPort n (fun x =>
      let keep := x.outs.filter (fun r => !mine (s.pcOf r.addr))
      { x with outs := keep, issued := (x.issued + ctrMod - (x.outs.length - keep.length)) % ctrMod })) s2
    forL [2 * m, 2 * m + 1] (fun p t => t.updPc p (fun x => { x with debtAt := s.cycle })) { s3 with
      pcs := tdrop mine s2.pcs, free := s2.free + 1,
      memc := { s2.memc with phy := tdrop mine s2.memc.phy },
      hbm := { h with cells := h.cells.filter (fun c => !mine (c.1 / 128 % 32)), ecc := h.ecc.filter (fun e => !mine (e.1 % 32)),
                      lostPc := h.lostPc.filter (fun p => !mine p.1) ++ [(2 * m, s2.free + 1), (2 * m + 1, s2.free + 1)] } }
  else if d < 84 then linkReset ((d - 80) / 2) s2
  else if d = 84 then forN 8 dmaDropWait <| (forL (s2.hrings.map (·.1)) (fun h t => (ringClear h t).updHring h (fun x => { x with irqFrom := none }))
    { s2 with dmas := [] }).setUnlock 7 none |>.setLow 7 none
  else if d = 87 then
    let s3 := forN 4 (fun i t => if (t.dom i).pulse.isSome then t.out (.fireRelease i) else t) s2
    ({ s3 with doms := [], condCnt := [], strms := [] }).setLow 4 none
  else if 88 ≤ d then adcOff (d - 88) s2
  else s2

/-- POWER_DOMAIN_ON: the next enabled domain in the order starts in its slot of 4 us (R358). (DEDUCED, log 61.) -/
def domainOn (d : Nat) (s : State) : State :=
  let waits := fun (e : Nat) => s.domEn e && !s.domOn e && !s.thms.rising.any (fun p => p.1 == e)
  if s.cycle < s.thms.onAt ∨ domOrder.find? waits ≠ some d then s
  else s.updThms (fun x => { x with rising := x.rising ++ [(d, s.cycle)], onAt := s.cycle + 4000 })

/-- POWER_GOOD (R359, R340, R45). -/
def domainGood (d : Nat) (s : State) : State :=
  if !s.thms.rising.any (fun p => p.1 == d) then s
  else
    let s1 := setGood d true (domainReset d (s.updThms (fun x => { x with rising := x.rising.filter (fun p => p.1 ≠ d) })))
    if d < 32 then forN 16 (fun c t =>
        let g := 16 * d + c
        let t1 := (loadDacs g (t.rd (bCh g) F.Ch.PECFG.LVL_SEL) s.eft t).wr (bCh g) F.Ch.PESTAT.SAFE (b2n (t.chan g).safe)
        t1.fresh.updChan g (fun h => { h with outCh := Config.freeNat t1.free % 2 == 1,
                                              outCl := Config.freeNat t1.free / 2 % 2 == 1 })) s1
    else if d < 64 then
      let s2 := s1.wr (bCal + 8 * (d - 32)) F.Cal.CSKSTAT.FIRSTPASS 0
      if s2.rd bCal F.Cal.CSTAT.READY = 1 then calTake (d - 32) s2 else s2
    else s1

/-- A domain switches off and loses its contents (R359). (DEDUCED, log 30.) -/
def domainDown (d : Nat) (s : State) : State :=
  domainReset d (setGood d false (s.updThms (fun x => { x with rising := x.rising.filter (fun p => p.1 ≠ d) })))

/-- POWER_DOMAIN_OFF: the next disabled domain, in the reverse order, 1 us apart (R360). -/
def domainOff (d : Nat) (s : State) : State :=
  let falls := fun (e : Nat) => !s.domEn e && (s.domOn e || s.thms.rising.any (fun p => p.1 == e))
  if s.cycle < s.thms.offAt ∨ domOrder.reverse.find? falls ≠ some d then s
  else domainDown d (s.updThms (fun x => { x with offAt := s.cycle + 1000 }))

/-- SHUTDOWN_DOMAINS_OFF, 1,000 ns after the entry into SHUTDOWN (R352). (DEDUCED, log 28.) -/
def shutOff (s : State) : State :=
  match s.thms.shutAt with
  | none => s
  | some t =>
    if s.cycle < t + 1000 then s
    else
      let ds := (domOrder.reverse).filter (fun d => decide (d < 64 ∨ 88 ≤ d))
      forL ds (fun d u =>
        let v := setEnable d false u
        if v.domOn d ∨ v.thms.rising.any (fun p => p.1 == d) then domainDown d v else v)
        (s.updThms (fun x => { x with shutAt := none }))

/-! ### Reset and supplies (R403-R407, R417, R418) -/

/-- The device in reset: everything but MRAM, the test access port, the queue and the record of outputs is lost; FIRE lines are released.
(DEDUCED, log 27.) -/
def resetTo (ph : Phase) (pwr : Option Nat) (s : State) : State :=
  let s1 := forN 4 (fun i t => if (t.dom i).pulse.isSome then t.out (.fireRelease i) else t) s
  { State.reset with
    phase := ph, pending := s1.pending, mram := s1.mram, outbox := s1.outbox, free := s1.free + 1,
    jtag := if ph = .off then {} else s1.jtag,
    hbm := { lost := some (s1.free + 1) }, thms := { pwrAt := pwr } }

/-- POR_ASSERT: the block of a store that is being written completes first (R417). (DEDUCED, log 27.) -/
def porAssert (s : State) : State := resetTo .held s.thms.pwrAt (blockWritten true s)

/-- POR_RELEASE with the straps sampled (R405, R407, R358, R290). The head's discovery begins: its token waits for
port A (R316). (DEDUCED, log 20.) (DESIGN CHOICE, log 23.) -/
def porRelease (head refsel lock : Bool) (s : State) : State :=
  let s1 := resetTo .running (s.thms.pwrAt.map (fun _ => 0)) s
  let s2 := ((s1.wr bCtl F.Ctl.STRAP.HEAD (b2n head)).wr bCtl F.Ctl.STRAP.REFSEL (b2n refsel)).wr bCtl F.Ctl.STRAP.ADDR_LOCK
    (b2n lock)
  let s3 := if head then s2.updLnk (fun x => { x with token := some (0, 0), stage := 1 }) else s2
  setEnable 84 head (s3.wr bTb F.Tb.TBCFG.REFSEL (b2n refsel))

/-- SUPPLY_LOSS: a block being written is torn; everything but MRAM is lost (R341, R403, R418). -/
def supplyLoss (s : State) : State :=
  let s1 := match s.cals.store with
    | some _ => blockWritten false s
    | none => s
  resetTo .off none s1

/-! ### Meanings -/

/-- POR_RELEASE (R404-R407). -/
def execPorRelease (head refsel lock : Bool) (s : State) : Outcome State Fault Refusal :=
  match s.phase with
  | .held => .next (porRelease head refsel lock s)
  | .undefined => .fault .undefinedState
  | _ => .next s

/-- POR_ASSERT (R403, R417, R448). -/
def execPorAssert (s : State) : Outcome State Fault Refusal :=
  match s.phase with
  | .running => .next (porAssert s)
  | .undefined => .next (resetTo .held s.thms.pwrAt s)
  | _ => .next s

/-- PWRGOOD (R404, R355). A device whose supplies come up is held in reset. -/
def execPwrgood (s : State) : Outcome State Fault Refusal :=
  match s.phase with
  | .off => .next (({ s with phase := .held }).updThms (fun x => { x with pwrAt := some 0 }))
  | .held => .next (s.updThms (fun x => { x with pwrAt := some (x.pwrAt.getD 0) }))
  | _ => .next (s.updThms (fun x => { x with pwrAt := some (x.pwrAt.getD s.cycle) }))

/-- SUPPLY_LOSS (R403, R418). -/
def execSupplyLoss (s : State) : Outcome State Fault Refusal :=
  match s.phase with
  | .off => .next s
  | _ => .next (supplyLoss s)

/-- POWER_DOMAIN_ON (R358). -/
def execPowerDomainOn (d : Fin 96) (s : State) : Outcome State Fault Refusal := act s (domainOn d)

/-- POWER_GOOD (R359). -/
def execPowerGood (d : Fin 96) (s : State) : Outcome State Fault Refusal := act s (domainGood d)

/-- POWER_DOMAIN_OFF (R360). -/
def execPowerDomainOff (d : Fin 96) (s : State) : Outcome State Fault Refusal := act s (domainOff d)

/-- THM_SAMPLE (R345-R351). -/
def execThmSample (rs : List (Option Int)) (s : State) : Outcome State Fault Refusal := act s (thmSample rs)

/-- SHUTDOWN_DOMAINS_OFF (R352). (DEDUCED, log 28.) -/
def execShutdownDomainsOff (s : State) : Outcome State Fault Refusal := act s shutOff

/-- AVS_STEP (R355, R356). -/
def execAvsStep (slacks : List Int) (vout iout : Nat) (rtemp : Int) (fails version : Nat) (s : State) :
    Outcome State Fault Refusal :=
  act s (avsStep slacks vout iout rtemp fails version)

/-- BAND_CHANGE (R273). -/
def execBandChange (s : State) : Outcome State Fault Refusal := act s bandChange

end Sys2Proof.Machine
end

