-- ==== Sys2Proof/Machine/StreamInstr.lean ====
section
/-! DEFINITION. The stream and trigger instructions (R206-R209). -/

namespace Sys2Proof.Machine

open Host

/-- The legality of MARK. -/
def markLegal (o : TymOps) : Bool := o.dst == 0#4 && o.srcb == 0#4 && immOnly o (2 ^ 39 + 0x3fffff)

/-- MARK (R206): as an item with V, else at the start of its issue cycle. -/
def execTymMark (k : Fin 32) (o : TymOps) (s : State) : Outcome State Fault Refusal :=
  let v := o.imm.getLsbD 39
  let a := s.g k o.srca.toNat
  act s (tymStep k 0x80#8 o [.g o.srca.toNat] (markLegal o) false (s.condOk k o.cond) (v && s.vqStall k true) (fun t =>
    if v then enqueue k (.item (.mark (immF o 21 16) (immF o 15 0) a)) t
    else advance k 1 (userMark k (immF o 21 16) (immF o 15 0) a s.eft t)))

/-- One entry of a SITE record (R229). -/
def siteEntry (s : State) (k i : Nat) (v : Word) (pass : Bool) : List Byte :=
  let w := atD (s.eng k).site i 0
  leBytes 8 v.toNat ++ leBytes 2 ((512 * s.pos + w % 512) % 2 ^ 15 + 2 ^ 15 * b2n pass) ++ leBytes 1 (w / 2 ^ 16 % 16) ++
    leBytes 5 0

/-- The SITE record of EMIT (R207, R229). -/
def siteRec (s : State) (k m la pb : Nat) : Rec :=
  let ls := lanesOf m
  { kind := 3, sub := 0, flags := 128 * b2n s.holdover, ref := stampAt s.nowFt, raw := 0, dec := 0,
    payload := leBytes 5 (s.rd (bSk k) F.Sk.VCOUNT) ++ leBytes 1 k ++ leBytes 1 ls.length ++ leBytes 9 0 ++
      ls.flatMap (fun i => siteEntry s k i (s.lane k la i) ((s.p k pb).testBit i)) }

/-- The legality of EMIT. -/
def emitLegal (o : TymOps) : Bool := o.dst == 0#4 && lp o.srca && lp o.srcb && immOnly o 0x3f

/-- EMIT (R206, R207): the record enters the engine's record queue, which holds 8; a stream that is not enabled takes
none (R233). -/
def execTymEmit (k : Fin 32) (o : TymOps) (s : State) : Outcome State Fault Refusal :=
  let m := s.sel k o.cond
  let i := immF o 5 0
  act s (tymStep k 0x81#8 o [.l o.srca.toNat, .p o.srcb.toNat] (emitLegal o) false (s.laneCondOk k o.cond)
    (m != 0 && decide (8 ≤ (s.eng k).recQ.length)) (fun t =>
      if m = 0 ∨ !t.strOn i then advance k 1 t
      else advance k 1 (t.updEng k (fun e => { e with recQ := e.recQ ++ [(i, siteRec s k m o.srca.toNat o.srcb.toNat)] }))))

/-- The legality of ARM. -/
def armLegal (o : TymOps) : Bool := o.dst == 0#4 && o.srcb == 0#4 && immOnly o 3

/-- ARM (R206, R215): its request reaches the master in this cycle, unless the host makes one (R251). -/
def execTymArm (k : Fin 32) (o : TymOps) (s : State) : Outcome State Fault Refusal :=
  let d := immF o 1 0
  act s (tymStep k 0x82#8 o [.g o.srca.toNat] (armLegal o) false (s.condOk k o.cond) false (fun t =>
    advance k 1 (t.updDom d (fun x => { x with reqs := x.reqs ++ [(s.g k o.srca.toNat).toNat % coarseMod] }))))

/-- The legality of FIRE. -/
def fireLegal (o : TymOps) : Bool := noRegs o && immOnly o (2 ^ 39)

/-- FIRE (R206). -/
def execTymFire (k : Fin 32) (o : TymOps) (s : State) : Outcome State Fault Refusal :=
  let v := o.imm.getLsbD 39
  act s (tymStep k 0x83#8 o [] (fireLegal o) false (s.condOk k o.cond) (v && s.vqStall k true) (fun t =>
    if v then enqueue k (.item .fire) t else advance k 1 (fireSource k (stampAt s.nowFt) t)))

/-- The legality of TWAIT. -/
def twaitLegal (o : TymOps) : Bool := o.srca == 0#4 && o.srcb == 0#4 && immOnly o ((2 ^ 24 - 1) * 2 ^ 16 + 3)

/-- TWAIT (R206, R208). -/
def execTymTwait (k : Fin 32) (o : TymOps) (s : State) : Outcome State Fault Refusal :=
  let n := immF o 39 16
  act s (tymStep k 0x84#8 o [] (twaitLegal o) false (s.condOk k o.cond) false (fun t =>
    waitFor k (.twait o.dst.toNat (immF o 1 0) (if n = 0 then none else some (s.cycle + 1000 * n)) none) (advance k 1 t)))

/-- TWAIT_RELEASE (R208): gd holds the trigger time, Z = 0. -/
def execTwaitRelease (k : Fin 32) (s : State) : Outcome State Fault Refusal :=
  act s (fun s =>
    match (s.eng k).wait with
    | .twait dst _ _ (some w) =>
      if s.engState k ≠ 3 then s
      else resumeAt k (s.cycle + 3) (setFlags k { s.flags k with z := false } (setG k dst w s))
    | _ => s)

/-- TWAIT_TIMEOUT (R208): gd = 0 and Z = 1. -/
def execTwaitTimeout (k : Fin 32) (s : State) : Outcome State Fault Refusal :=
  act s (fun s =>
    match (s.eng k).wait with
    | .twait dst _ (some t) none =>
      if s.engState k ≠ 3 ∨ s.cycle < t then s
      else resumeAt k (s.cycle + 3) (setFlags k { s.flags k with z := true } (setG k dst 0#64 s))
    | _ => s)

/-- The SIGNAL event reaches every engine of the mask on this device (R165, R209). -/
def deliverSignal (mask : Nat) (s : State) : State :=
  forN 32 (fun j t => if mask.testBit j then t.updEng j (fun e => { e with signalEv := true }) else t) s

/-- SIGNAL to the devices `pos` selects (R209): positions 0 to 63, 64 this device, 127 every device. -/
def signalTo (mask pos : Nat) (s : State) : State :=
  if pos = 64 ∨ pos = s.pos then deliverSignal mask s
  else if pos = 127 then broadcast 0x22 2 [mask] (deliverSignal mask s)
  else sendTo 0x22 0 pos 2 [mask] s

/-- The legality of SIGNAL. -/
def signalLegal (o : TymOps) : Bool :=
  o.dst == 0#4 && o.srcb == 0#4 && immOnly o 0x7f && (decide (immF o 6 0 ≤ 64) || immF o 6 0 == 127)

/-- SIGNAL (R206, R209). -/
def execTymSignal (k : Fin 32) (o : TymOps) (s : State) : Outcome State Fault Refusal :=
  act s (tymStep k 0x85#8 o [.g o.srca.toNat] (signalLegal o) false (s.condOk k o.cond) false (fun t =>
    advance k 1 (signalTo ((s.g k o.srca.toNat).toNat % 2 ^ 32) (immF o 6 0) t)))

/-- SIGNAL_PACKET (R209, R307). -/
def execSignalPacket (hdr : PktHdr) (mask : BitVec 32) (s : State) : Outcome State Fault Refusal :=
  act s (receive hdr 0x22 [mask.toNat] (deliverSignal mask.toNat))

/-! ### Host accesses to an engine (R165, R177) -/

/-- Software has set bits of EHOSTSIG in the present cycle (R386). -/
def noteSig (k m : Nat) (s : State) : State :=
  s.updEng k (fun e => { e with sigSet := some (s.cycle, m ||| (match e.sigSet with
    | some (c, x) => if c = s.cycle then x else 0
    | none => 0)) })

/-- EHOSTSIG written (R165, R366): in the normal view a 1 sets a bit; the other views act bitwise. -/
def opEhostsig (k : Nat) (view : View) (m : Nat) (s : State) : State :=
  let old := s.rd (bEng k) F.Eng.EHOSTSIG.SIG
  let new := match view with
    | .normal => old ||| m
    | .set => old ||| m
    | .clear => old - (old &&& m)
    | .toggle => old ^^^ m
  noteSig k (if view = .clear then 0 else m &&& new) (s.wr (bEng k) F.Eng.EHOSTSIG.SIG new)

/-- Which register file an offset of the engine registers lies in: 1 g, 2 p, 3 l, 0 none. -/
def engFile (x : Nat) : Nat :=
  if 0x100 ≤ x ∧ x < 0x180 then 1 else if x = 0x180 ∨ x = 0x188 then 2 else if 0x400 ≤ x ∧ x < 0x800 then 3 else 0

/-- A register of a register file replaced by the host (R177): dropped with WDROP while the engine runs. A p register is
stored ANDed with ACTIVE, and p0 takes none (R141); bit 0 of `words` tells that the low word is written, bit 1 the high
one (R385). -/
def opEngReg (k x : Nat) (w : Word) (words : Nat) (s : State) : State :=
  if s.engRunning k then s.raise (bEng k) F.Eng.ESTAT.WDROP 0
  else if engFile x = 2 then
    let j := if x = 0x180 then 0 else 4
    forN 4 (fun i u => if words.testBit (i / 2) then setP k (j + i) (w.toNat / 2 ^ (16 * i) % 2 ^ 16) u else u) s
  else s.setReg (bEng k + x) w

/-- EHOSTSIG_WRITE (R165, R366). -/
def execEhostsigWrite (k : Fin 32) (view : View) (m : BitVec 16) (s : State) : Outcome State Fault Refusal :=
  act s (cmdAccess (bEng k + F.Eng.EHOSTSIG.SIG.off) false false (opEhostsig k view m.toNat))

/-- ENGINE_REG_WRITE (R177): a 64-bit write of g, p or l at offset `off` of the engine registers; an offset outside the
files is a hole here. -/
def execEngineRegWrite (k : Fin 32) (off : BitVec 12) (w : Word) (s : State) : Outcome State Fault Refusal :=
  let x := off.toNat / 8 * 8
  act s (cmdAccess (bEng k + x) false false (if engFile x = 0 then id else opEngReg k x w 3))

end Sys2Proof.Machine
end

