-- ==== Sys2Proof/Machine/Window.lean ====
section
/-! DEFINITION. The device window (R363-R395): where a 4-byte access lands, what a write does to each class of field
through each view, what hangs on a register's write, and what a read returns. -/

namespace Sys2Proof.Machine

open Host

/-! ### Addresses (R363, R364, R368) -/

/-- The view of address bits [15:14] (R366). -/
def viewOf (n : Nat) : View := match n % 4 with | 0 => .normal | 1 => .set | 2 => .clear | _ => .toggle

/-- The normal-view offset and the view that a window offset below the aperture reaches, after aliasing; none outside
every block (R363, R368). (DEDUCED, log 36.) -/
def winAddr (o : Nat) : Option (Nat × View) :=
  let b := o / 0x10000 * 0x10000
  let y := o % 0x10000
  if o < 0x80000 then
    let small := decide (b = bCtl ∨ b = bTb ∨ b = bThm ∨ b = bLnk)
    some (b + (if small then y % 0x1000 else y % 0x4000), viewOf (y / 0x4000))
  else if 0x100000 ≤ o ∧ o < 0x300000 then some (b + y % 0x4000, viewOf (y / 0x4000))
  else none

/-- The block whose UNLOCK register lies at a normal-view offset. -/
def unlockAtOff (x : Nat) : Option Blk := [Blk.ctl, .tb, .thm, .cal, .mem, .lnk, .hif].find? (fun b => x == blkNo b * 0x10000 + 0xf8)

/-! ### Classes -/

/-- The bits of a register whose class satisfies a test. -/
def clsMask (p : Cls → Bool) (r : RegRow) : Word :=
  r.fields.foldl (fun m f => if p f.cls then m ||| fmask f.hi f.lo else m) 0#64

/-- Bits of a mask taken from `new`. -/
def mergeBits (m old new : Word) : Word := (old &&& ~~~ m) ||| (new &&& m)

/-- A write that KEYOFF still admits with the unlock armed (R383). (DEDUCED, log 38.) (DEDUCED, log 39.) -/
def recoveryWrite (x : Nat) (old new m : Word) : Bool :=
  if x = bMem + 0x18 then true
  else if x = bMem then !m.getLsbD 6 && decide (old &&& ~~~ new &&& 3#64 = 0#64)
  else if x = bThm + F.Thm.PDEN.off ∨ x = bThm + F.Thm.PDEN1.off then decide (old &&& ~~~ new = 0#64)
  else false

/-- MAP[i] under ADDR_LOCK keeps its reset masks (R406). (DEDUCED, log 40.) -/
def State.mapLocked (s : State) (x : Nat) : Bool :=
  decide (bMem + 0x100 ≤ x ∧ x < bMem + 0x148) && decide (s.rd bCtl F.Ctl.STRAP.ADDR_LOCK = 1)

/-! ### What hangs on a register's write -/

/-- An effect of a command bit that is set. -/
def onBit (m : Word) (i : Nat) (f : State → State) (s : State) : State := if m.getLsbD i then f s else s

/-- CTL: hitches, the recapture of LVADDR, CFGMIS. -/
def hookCtl (y : Nat) (old cmds : Word) (s : State) : State :=
  if y = 0x110 then takeCommits cmds.toNat none s
  else if y = 0x128 then
    if old.getLsbD 1 ∧ s.rd bCtl F.Ctl.ERR.LOCKVIOL = 0 then s.wr bCtl F.Ctl.LVADDR.COUNT 0 else s
  else if y = 0x148 then s.wr bCtl F.Ctl.ERR.CFGMIS (b2n (s.rd bCtl F.Ctl.CFG_STAT != 0))
  else s

/-- TB: TBCTL's commands, and a change of REFSEL. (DEDUCED, log 42.) -/
def hookTb (y : Nat) (old cmds : Word) (s : State) : State :=
  if y = 0 then onBit cmds 2 opSplice (onBit cmds 1 alignCancel (onBit cmds 0 opAlign s))
  else if y = 8 then opRefsel (s.rd bTb F.Tb.TBCFG.REFSEL == 1) (s.wr bTb F.Tb.TBCFG.REFSEL (fget old 0 0))
  else s

/-- THM: the power enables are judged as a whole; THRESH judges from the next AONCLK cycle on; EN = 0 restarts the AVS loop.
(DEDUCED, log 35.) -/
def hookThm (y : Nat) (v : View) (old : Word) (s : State) : State :=
  let x := bThm + y
  if y = F.Thm.PDEN.off then opPden false (v == .normal) (s.reg x) (s.setReg x old)
  else if y = F.Thm.PDEN1.off then opPden true (v == .normal) (s.reg x) (s.setReg x old)
  else if y = F.Thm.THRESH.WARN.off then noteThresh old s
  else if y = F.Thm.AVSCFG.EN.off ∧ s.rd bThm F.Thm.AVSCFG.EN = 0 then
    s.updThms (fun t => { t with avsRun := false, avsStop := false, avsFails := 0 })
  else s

/-- CAL: CALCMD. (DEDUCED, log 42.) -/
def hookCal (y : Nat) (cmds : Word) (s : State) : State :=
  if y = 0 then onBit cmds 2 opDeskew (onBit cmds 1 (calStore false) (onBit cmds 0 opCalRun (onBit cmds 3 calAbort s)))
  else s

/-- TRS: TSWFIRE, DCFG, DCTL and SCTL. -/
def hookTrs (y : Nat) (old cmds : Word) (s : State) : State :=
  if y = 0 then opTswfire cmds.toNat s
  else if 0x100 ≤ y ∧ y < 0x300 then
    let d := (y - 0x100) / 0x80
    match (y - 0x100) % 0x80 with
    | 0x00 => dcfgDone d (fget old 0 0) s
    | 0x10 => onBit cmds 1 (opDctlDisarm d) (onBit cmds 0 (opDctlArm d) s)
    | _ => s
  else if 0x1000 ≤ y ∧ y < 0x3000 ∧ y % 0x80 = 0 then
    let i := (y - 0x1000) / 0x80
    let en := s.rd (bStr i) F.Trs.SCTL.EN
    let s1 := s.wr (bStr i) F.Trs.SCTL.EN (fget old 0 0)
    let s2 := if en = 1 then opStreamOn i s1 else opStreamOff i s1
    onBit cmds 1 (opStreamClr i) (onBit cmds 2 (opStreamSnap i) s2)
  else s

/-- MEM: MCTL, MFREQ, MFRZ, a write to the active timing set, MTRAIN.OP. -/
def hookMem (y : Nat) (old cmds : Word) (s : State) : State :=
  if y = 0 then
    let new := s.reg bMem
    let s1 := s.setReg bMem (mergeBits 3#64 new old)
    let s2 := if new.getLsbD 1 = old.getLsbD 1 then s1 else (settleDebts s1).wr bMem F.Mem.MCTL.REFEN (fget new 1 1)
    let s3 := if new.getLsbD 0 then setEn s2 else s2.wr bMem F.Mem.MCTL.EN 0
    onBit cmds 6 (freeze 4 0xff 0xff 0 0 0 false) (onBit cmds 5 opMemClr (onBit cmds 4 opMemSnap s3))
  else if y = 0x10 then onBit cmds 1 opCancel (onBit cmds 0 rateRequest s)
  else if y = 0x18 then onBit cmds 0 opRelease s
  else if 0x200 ≤ y ∧ y < 0x280 then
    if (y - 0x200) / 0x40 = s.rd bMem F.Mem.MSTAT.TSET then (s.setReg (bMem + y) old).raise bMem F.Mem.MSTAT.TSETERR 0 else s
  else if y = 0x280 then
    let op := fget cmds 2 0
    if 1 ≤ op ∧ op ≤ 3 then trainStart op s else s
  else s

/-- LNK: LCTL. -/
def hookLnk (y : Nat) (cmds : Word) (s : State) : State :=
  if y = 0 then onBit cmds 2 opSalign (onBit cmds 1 opShitch (onBit cmds 0 startDisc s)) else s

/-- HIF: DMACTL, a pending bit that a write sets (R400), and a vector whose mask is lifted. -/
def hookHif (y : Nat) (old cmds : Word) (s : State) : State :=
  if 0x100 ≤ y ∧ y < 0x300 ∧ y % 0x40 = 0 then
    let n := (y - 0x100) / 0x40
    onBit cmds 3 (opDmaAbort n) (onBit cmds 0 (opDmaGo n) s)
  else if 0x400 ≤ y ∧ y < 0x600 then
    let up := s.reg (bHif + y) &&& ~~~ old
    forN 64 (fun i t => if up.getLsbD i then irqVec i t else t) s
  else if 0x2000 ≤ y ∧ y < 0x2400 ∧ y % 16 = 8 then msixUnmask ((y - 0x2000) / 16) s
  else s

/-- A channel register set: safe release, a PMU start, the edge counters. -/
def hookCh (g y : Nat) (cmds : Word) (s : State) : State :=
  if y = 0 then onBit cmds 9 (opSafeRelease g) s
  else if y = 0x20 then onBit cmds 5 (opPmuStart g) s
  else if 0x40 ≤ y ∧ y < 0x80 then s.raise (bSk (g / 16)) F.Sk.TCSTAT.ACCT_VOID 0
  else s

/-- The fail latch bits of skein k that a write to FAILLAT has cleared take FIRSTFAIL with them. -/
def failHook (k : Nat) (old : Word) (s : State) : State :=
  forN 16 (fun c t =>
    if old.getLsbD c ∧ !s.bit (bSk k) F.Sk.FAILLAT.LATCH c then t.setReg (bSk k + 0x380 + 8 * c) 0#64 else t) s

/-- Skein common registers: TCCTL, MAUCLR and FAILLAT. -/
def hookSk (k y : Nat) (old cmds : Word) (s : State) : State :=
  if y = 0 then onBit cmds 1 (clearCounters k) (onBit cmds 0 (snapCounters k) s)
  else if y = F.Sk.FAILLAT.LATCH.off then failHook k old s
  else if y = F.Sk.MAUCLR.off then clearSlots k cmds.toNat s
  else s

/-- The low 32 bits of a word, and a word's high half placed. (DEDUCED, log 41.) -/
def loMask : Word := 0xffffffff#64
def hiMask : Word := 0xffffffff00000000#64

/-- Engine registers: ECTL in the order of R176, EHOSTSIG and the register files; `wm` is the written word in its place. -/
def hookEng (k y : Nat) (v : View) (old wm cmds : Word) (s : State) : State :=
  let x := bEng k + y
  if y = 0 then onBit cmds 0 (opStart k (cmds.getLsbD 4)) (onBit cmds 3 (opEngreset k) (onBit cmds 1 (opAbort k) s))
  else if y = F.Eng.EHOSTSIG.SIG.off then
    let new := s.reg x
    match v with
    | .normal => noteSig k new.toNat (s.setReg x (new ||| old))
    | .clear => s
    | _ => noteSig k (new &&& wm).toNat s
  else if engFile y = 0 then s
  else opEngReg k y (s.reg x) (if v = .normal then 3 else b2n (wm &&& loMask != 0#64) + 2 * b2n (wm &&& hiMask != 0#64))
    (s.setReg x old)

/-- What a completed write of the register at normal-view offset `x` causes; `old` is what it held, `cmds` its command
bits that were written as 1 and admitted, `wm` the mask of a write through another view. -/
def regHook (x : Nat) (v : View) (old wm cmds : Word) (s : State) : State :=
  let y := x % 0x10000
  match x / 0x10000 with
  | 0 => hookCtl y old cmds s
  | 1 => hookTb y old cmds s
  | 2 => hookThm y v old s
  | 3 => hookCal y cmds s
  | 4 => hookTrs y old cmds s
  | 5 => hookMem y old cmds s
  | 6 => hookLnk y cmds s
  | 7 => hookHif y old cmds s
  | b =>
    let k := b - 16
    if y < 0x1000 then hookCh (16 * k + y / 0x100) (y % 0x100) cmds s
    else if y < 0x2000 then hookSk k (y - 0x1000) old cmds s
    else if y < 0x3000 then s
    else hookEng k (y - 0x3000) v old wm cmds s

/-! ### Writes (R361, R366, R379-R386) -/

/-- A normal-view write of `w` to the CTR fields of a register whose hardware has counted since the start of the cycle:
w plus the increment (R386). -/
def ctrWrite (r : RegRow) (w old start : Word) : Word :=
  r.fields.foldl (fun a f =>
    if f.cls = .ctr then fset a f.hi f.lo (fget w f.hi f.lo + fget old f.hi f.lo + 2 ^ 64 - fget start f.hi f.lo) else a) w

/-- An MSET of the present cycle has staged the slot register at `x`, and a host write does not replace it (R211). -/
def State.msetHolds (s : State) (x : Nat) : Bool :=
  let y := x % 0x10000
  decide (0x100000 ≤ x ∧ 0x2000 ≤ y ∧ y < 0x3000) &&
    (s.slot ((x - 0x100000) / 0x10000) ((y - 0x2000) / 0x40)).mset == some (s.cycle, y % 0x40 / 8)

/-- The write of one register: `m` the written word, `act` the bits whose W1C fields and command bits act now, `vals`
whether its value fields are written. `off` is the offset as accessed. A W1C bit that hardware has set in this cycle stays
set, and a write through another view acts on what hardware makes of the register in the rest of the cycle (R386). -/
def writeReg (off x : Nat) (r : RegRow) (v : View) (m act : Word) (vals : Bool) (s : State) : State :=
  let old := s.reg x
  let oldS := s.stg x
  let start := tget regReset s.regs0 x
  let new := match v with | .normal => ctrWrite r m old start | _ => viewVal v old m
  let newS := viewVal v oldS m
  let gl := clsMask (· == .glive) r
  let gs := clsMask (· == .gstaged) r
  let gc := clsMask (· == .gcmd) r
  let on := clsMask (· == .once) r
  let changes := (vals && decide ((new ^^^ old) &&& gl ≠ 0#64 ∨ (newS ^^^ oldS) &&& gs ≠ 0#64)) || decide (m &&& act &&& gc ≠ 0#64)
  let ok := s.armed (blkOf x) && (!s.sealed || recoveryWrite x old new m) && !s.mapLocked x
  let once := tget (fun _ => false) s.onceDone x
  let onceBad := vals && once && decide ((new ^^^ old) &&& on ≠ 0#64)
  let pick := fun (b : Bool) (w : Word) => if b then w else 0#64
  let liveM := pick vals (clsMask (fun c => c == .live || c == .ctr) r ||| pick ok gl ||| pick (!once) on)
  let stM := pick (vals && !s.msetHolds x) (clsMask (· == .staged) r ||| pick ok gs)
  let w1c := clsMask (· == .w1c) r
  let w1cNew := match v with | .normal => old &&& ~~~ (m &&& act &&& ~~~ s.raisedAt x) | _ => new
  let cmds := m &&& act &&& (clsMask (· == .cmd) r ||| pick ok gc)
  let s1 := touch x s
  let ctr := pick vals (clsMask (· == .ctr) r)
  let soft := mergeBits ctr start (match v with | .normal => m | _ => new)
  let ops := match v with
    | .normal => s1.viewOps.filter (fun o => o.x ≠ x)
    | _ => if (w1c ||| ctr) &&& m ≠ 0#64 then s1.viewOps ++ [{ x := x, v := v, m := m, old := old, new := new }] else s1.viewOps
  let s0 : State := { s1 with regs0 := tput regReset s1.regs0 x soft, viewOps := ops }
  let s2 := (s0.setReg x (mergeBits w1c (mergeBits liveM old new) w1cNew)).setStg x (mergeBits stM oldS newS)
  let s3 : State := if vals ∧ on ≠ 0#64 then { s2 with onceDone := tput (fun _ => false) s2.onceDone x true } else s2
  let s4 := if changes && !ok then lockViol off false s3 else s3
  let s5 := if onceBad then lockViol off true s4 else s4
  if vals ∨ cmds ≠ 0#64 ∨ x = bCtl + F.Ctl.CFG_STAT.off then regHook x v old m cmds s5 else s5

/-- A view's operation on some bits of a word, those of `f`. -/
def viewOn (f : Word) (o : ViewOp) (w : Word) : Word := mergeBits f w (viewVal o.v w o.m)

/-- What hardware has added to the CTR fields of `r` from one word to another. -/
def ctrSum (r : RegRow) (w a b : Word) : Word :=
  r.fields.foldl (fun t f =>
    if f.cls = .ctr then fset t f.hi f.lo (fget t f.hi f.lo + fget b f.hi f.lo + 2 ^ 64 - fget a f.hi f.lo) else t) w

/-- The writes of the cycle through the set, clear and toggle views of the register at `x`, oldest first, act on what
hardware has made of it by the end of the cycle: on a CTR field with every increment, on a W1C bit that hardware has set
(R386). -/
def replayView (x : Nat) (s : State) : State :=
  let ops := s.viewOps.filter (fun o => o.x = x)
  match rowAt x, ops with
  | some r, o :: rest =>
    let last := (rest.getLast?.getD o).new
    let base := (rest.foldl (fun (a : Word × Word) p => (ctrSum r a.1 a.2 p.old, p.new)) (o.old, o.new)).1
    let hw := ctrSum r base last (s.reg x) ||| s.raisedAt x
    let ctr := clsMask (· == .ctr) r
    let w1c := clsMask (· == .w1c) r &&& s.raisedAt x &&& ops.foldl (fun m p => m ||| p.m) 0#64
    s.setReg x (mergeBits (ctr ||| w1c) (s.reg x) (ops.foldl (fun w p => viewOn (ctr ||| w1c) p w) hw))
  | _, _ => s

/-- The end of a cycle settles its writes through the other views. -/
def replayViews (s : State) : State :=
  { forL (s.viewOps.map (·.x)).eraseDups replayView s with viewOps := [] }

/-- A register with GUARDED fields. -/
def RegRow.guarded (r : RegRow) : Bool := r.fields.any (fun f => f.cls == .glive || f.cls == .gstaged || f.cls == .gcmd)

/-- The MSI-X table, whose words are 32-bit registers of their own (R401). -/
def msixWord (x : Nat) : Bool := decide (bHif + 0x2000 ≤ x ∧ x < bHif + 0x2400)

/-- A 4-byte write to the register at 8-aligned normal-view offset `x`, low or high word (R385). (DEDUCED, log 41.) -/
def writeWord (off x : Nat) (r : RegRow) (hi : Bool) (v : View) (w : BitVec 32) (s : State) : State :=
  let wide : Word := w.setWidth 64
  if r.width = 32 then if hi then touch x s else writeReg off x r v wide loMask true s
  else match v, hi with
    | .normal, false =>
      if msixWord x then writeReg off x r v ((s.reg x &&& hiMask) ||| wide) loMask true s else
      let s1 := writeReg off x r v wide loMask false s
      let s2 := if r.guarded then s1.setUnlock (blkOf x) (tget (fun _ => none) s.unlockAt (blkOf x)) else s1
      s2.setLow (blkOf x) (some (x, w))
    | .normal, true =>
      let stM := clsMask (fun c => c == .staged || c == .gstaged) r
      let now := mergeBits (clsMask (· == .ctr) r) (mergeBits stM (s.reg x) (s.stg x)) (tget regReset s.regs0 x) &&& loMask
      let low : Word := match s.low (blkOf x) with
        | some (x', l) => if x' = x then l.setWidth 64 else now
        | none => now
      writeReg off x r v (wide <<< 32 ||| low) hiMask true s
    | _, false => writeReg off x r v wide loMask true s
    | _, true => writeReg off x r v (wide <<< 32) hiMask true s

/-- A write to the UNLOCK of block b (R379): the key through the normal view arms it, anything else disarms it.
(DEDUCED, log 51.) -/
def opUnlock (b : Blk) (v : View) (w : BitVec 32) (s : State) : State :=
  let x := blkNo b * 0x10000 + 0xf8
  let s1 := touch x s
  if !s.reachable x then offDomain s1
  else if v = .normal ∧ w = 0xb17e#32 then s1.setUnlock (blkNo b) (some (s.cycle + 1000000)) else s1

/-- The bits of a table word that are not RSVD (R19, R78, R81, R142, R281). (DEDUCED, log 43.) -/
def tableMask (o : Nat) : BitVec 32 :=
  if o < tLevel then
    let i := o % 64 / 4
    if i < 12 then (if i % 2 = 0 then 0xffffffff#32 else 0x3ff#32) else if i = 12 then 0x1f#32 else 0#32
  else if o < tPeriod then (if o % 16 = 12 then 0x3fffffff#32 else 0xffffffff#32)
  else if o < tPeriod + 0x1000 then (if o % 8 = 0 then 0xffffffff#32 else 0x3ff#32)
  else if tSite ≤ o ∧ o < tSite + 0x800 then 0x800f01ff#32
  else if tSiteEn ≤ o ∧ o < tSiteEn + 0x40 then 0xffffffff#32
  else if tPhy ≤ o ∧ o < tPhy + 0x3000 then (if o % 64 < 28 then 0xffffffff#32 else 0#32)
  else 0#32

/-- A 4-byte write into the host ring table: the field that the word is part of takes it (R236, R237).
(DEDUCED, log 44.) -/
def ringWord (o : Nat) (w : BitVec 32) (s : State) : State :=
  let h := (o - tRing) / 64
  let f := o / 8 % 8
  let old := s.tq (o / 8 * 8)
  let new := if o % 8 = 0 then old / 2 ^ 32 * 2 ^ 32 + w.toNat else w.toNat * 2 ^ 32 + old % 2 ^ 32
  match f with
  | 0 => hostRingEntry h .base new s
  | 1 => hostRingEntry h .ctrl new s
  | 2 => hostRingEntry h .wr new s
  | 3 => hostRingEntry h .rd new s
  | 4 => hostRingEntry h .wbaddr new s
  | _ => s

/-- A 4-byte write into the table aperture (R365, R394): RO tables and holes ignore it. (DEDUCED, log 43.) -/
def writeTable (o : Nat) (w : BitVec 32) (s : State) : State :=
  let s1 := touch o s
  if !s.reachable o then offDomain s1
  else if tRing ≤ o ∧ o < tRing + 0x40000 then (if s.isHead then ringWord o w s1 else s1)
  else if tMram ≤ o ∧ o < tMram + 0x10000 then opMramWrite (o - tMram) w s1
  else
    let m := tableMask o
    if m = 0#32 then s1
    else
      let s2 := s1.setTw o ((s.tw o &&& ~~~ m) ||| (w &&& m))
      if tSiteEn ≤ o ∧ o < tSiteEn + 0x40 then forL (s.vus.map (·.1)) (fun k t => siteLate k (s.parkMask k) t) s2 else s2

/-- One write access of 4 bytes at device window offset `off` with byte enables (R369). (DEDUCED, log 37.) -/
def writeAcc (off : Nat) (w : BitVec 32) (be : BitVec 4) (s : State) : State :=
  let o := off / 4 * 4
  if be ≠ 15#4 then s.raise bCtl F.Ctl.ERR.PARTIAL 0
  else if 0x400000 ≤ o then writeTable o w s
  else match winAddr o with
    | none => touch o s
    | some (y, v) =>
      match unlockAtOff y with
      | some b => opUnlock b v w s
      | none =>
        let x := y / 8 * 8
        if !s.reachable x then offDomain (touch x s)
        else match rowAt x with
          | none => touch x s
          | some r => writeWord off x r (y % 8 == 4) v w s

/-- A write access of 8 bytes: the lower word, then the higher (R369). -/
def writeAcc8 (off : Nat) (w : Word) (s : State) : State :=
  writeAcc (off + 4) ((w >>> 32).setWidth 32) 15#4 (writeAcc off (w.setWidth 32) 15#4 s)

/-! ### Reads (R361, R366, R367, R391-R397) -/

/-- READY (R396). -/
def State.ready (s : State) : Word :=
  let bits := fun (l : List Bool) (lo : Nat) => (l.zipIdx.map (fun p => if p.1 then 2 ^ (lo + p.2) else 0)).sum
  let sk := (List.range 32).map (fun k =>
    s.domOn (32 + k) && s.dllLock k && (s.skein k).calDone && (s.domOn k || !s.domEn k))
  let tb := decide (s.tbState ≠ 0)
  let cal := s.on bCal F.Cal.CSTAT.READY
  let fab := s.domOn 85 && s.domOn 86
  let trs := s.domOn 87
  let mem := s.on bMem F.Mem.MCTL.EN && !s.frozen
  let lnk := s.on bLnk F.Lnk.LSTAT.READY
  let hif := s.domOn 84 && s.on bHif F.Hif.HIFSTAT.LINKUP
  let all := tb && cal && fab && trs && mem && lnk && (hif || !s.domEn 84) &&
    (List.range 32).all (fun k => !s.domEn (32 + k) || sk.getD k false)
  BitVec.ofNat 64 (bits [tb, cal, fab, trs, mem, lnk, hif, all] 0 + bits sk 32)

/-- HITCH_STAT.SCHED: groups of the scheduled hitches whose commit, from AT - 64 on, waits for AT (R378). -/
def State.schedMask (s : State) : Nat :=
  let q := s.lnk.schedQ.foldl (fun m a =>
    if a.act = 1 ∧ s.reached ((a.at_ + coarseMod - 64) % coarseMod) then m ||| a.arg % 256 else m) 0
  s.commits.foldl (fun m c => if c.group < 8 ∧ c.at_.isSome ∧ !s.ripe c then m ||| 2 ^ c.group else m) q

/-- Whole milliseconds since an elapsed ns, up to a limit. -/
def State.ageMs (s : State) (since lim : Nat) : Nat := min lim ((s.cycle - since) / 1000000)

/-- VTABAGE: the oldest table in service (R322). -/
def State.vtabAge (s : State) (k : Nat) : Nat :=
  (s.skein k).units.foldl (fun m u => if u.st = .inService then max m (s.ageMs u.calAt 65535) else m) 0

/-- LINE of domain d: 0 while this device pulls it, under a boundary-scan instruction as the boundary register says
(R448); else what other devices do with it, which is a free value (R218). (DESIGN CHOICE, log 16.) -/
def State.lineBit (s : State) (d : Nat) : Nat :=
  if (if s.scanOn then s.firePulled d else (s.dom d).pulse.isSome) then 0 else Config.freeNat s.free % 2

/-- PESTAT of channel g at a read: PMU_CLAMP may be set while the parametric unit forces and ILIMIT while the driver drives,
by the current and the voltage at the pin, which are not the model's: free values (R37). (DESIGN CHOICE, log 16.) -/
def State.peStat (s : State) (g : Nat) (w : Word) : Word :=
  let f := Config.freeByte (s.free + g)
  fset (fset w 6 6 (b2n (s.domOn (g / 16) && s.pmuForces g && f.getLsbD 6))) 5 5 (b2n (s.pinDrive g != .hiZ && f.getLsbD 5))

/-- What a read of the register at normal-view offset `x` finds: the stored word with the fields that follow the
device's condition at the read; the receiver equaliser's codes keep adapting, and PEQ shows them as free values (R304).
(DESIGN CHOICE, log 16.) -/
def State.present (s : State) (x : Nat) : Word :=
  let w := s.reg x
  let y := x % 0x10000
  match x / 0x10000 with
  | 0 =>
    if y = 0x10 then s.ready
    else if y = 0x40 then BitVec.ofNat 64 s.irqStat
    else if y = 0x118 then fset w 15 8 s.schedMask
    else w
  | 1 => if y = 0x30 then BitVec.ofNat 64 s.coarse else w
  | 3 =>
    if 0x200 ≤ y ∧ y < 0x300 then fset w 63 48 (s.vtabAge ((y - 0x200) / 8))
    else if 0x1000 ≤ y ∧ y < 0x2000 then
      let g := (y - 0x1000) / 8
      fset w 55 48 (s.ageMs (atD (s.chan g).calAt (1 - s.rd (bCh g) F.Ch.PESTAT.ACTIVE_PATH) 0) 255)
    else w
  | 4 => if 0x100 ≤ y ∧ y < 0x300 ∧ y % 0x80 = 0x20 then fset w 3 3 (s.lineBit ((y - 0x100) / 0x80)) else w
  | 5 =>
    if 0x400 ≤ y ∧ y < 0x668 then
      let n := (y - 0x400) / 8
      fset (fset w 31 16 (s.port n).outs.length) 39 32 (s.portUrg n)
    else if 0x2000 ≤ y ∧ y < 0x2800 then
      let p := (y - 0x2000) / 0x40
      if y % 0x40 = 8 then fset w 31 0 (ofSigned 32 (s.debt p))
      else if y % 0x40 = 0x10 then fset w 63 63 (b2n ((s.pchan p).ovf || decide (s.rd bMem F.Mem.MCTL.RDEN = 0)))
      else w
    else w
  | 6 =>
    if y = 0x48 ∨ y = 0x88 then fset w 47 32 (Config.freeWord (s.free + y)).toNat else w
  | 7 =>
    if y = 0x380 then BitVec.ofNat 64 ((List.range 64).map (fun p => if s.reg (bHif + 0x400 + 8 * p) = 0#64 then 0 else 2 ^ p)).sum
    else w
  | b =>
    let k := b - 16
    if b < 16 then w
    else if y < 0x1000 ∧ y % 0x100 = 0x10 then s.peStat (16 * k + y / 0x100) w
    else if y = 0x3058 then BitVec.ofNat 64 (s.events k none)
    else if y = 0x3060 then BitVec.ofNat 64 (s.active k)
    else if y = 0x3180 then fset w 15 0 (s.active k)
    else w

/-- A read of 4 bytes of the register of row `r`, low or high word, through a view (R367). -/
def State.readWord (s : State) (x : Nat) (r : RegRow) (hi : Bool) (v : View) : BitVec 32 :=
  let stM := clsMask (fun c => c == .staged || c == .gstaged) r
  let all := r.fields.foldl (fun m f => m ||| fmask f.hi f.lo) 0#64
  let w := (match v with
    | .normal => s.present x
    | _ => mergeBits stM (s.present x) (s.stg x)) &&& all
  if hi then (if r.width = 32 then 0#32 else (w >>> 32).setWidth 32) else w.setWidth 32

/-- A read of 4 bytes of the table aperture. How the streams' records lie in staging SRAM the manual leaves open: a free value
of what they hold (R395).
(DESIGN CHOICE, log 10.) -/
def State.readTable (s : State) (o : Nat) : BitVec 32 :=
  if tMram ≤ o ∧ o < tMram + 0x10000 then s.mramW (s.rd bCal F.Cal.MRPAGE.PAGE * 65536 + (o - tMram))
  else if tSram ≤ o ∧ o < tSram + 0x20000 then Config.sramWord s.strms (s.rd bCtl F.Ctl.SRPAGE.PAGE * 131072 + (o - tSram))
  else if tRing ≤ o ∧ o < tRing + 0x40000 ∧ !s.isHead then 0#32
  else s.tw o

/-- One read access of 4 bytes (R361, R367): a domain that is off reads all ones and sets OFFDOMAIN; reads have no other
effect than the model's own: the free counter advances. (DEDUCED, log 118.) -/
def readAcc (off : Nat) (s : State) : State × BitVec 32 :=
  let o := off / 4 * 4
  let off1 := fun (x : Nat) (v : BitVec 32) => if s.reachable x then (s.fresh, v) else (offDomain s, 0xffffffff#32)
  if 0x400000 ≤ o then off1 o (s.readTable o)
  else match winAddr o with
    | none => (s, 0#32)
    | some (y, v) =>
      match unlockAtOff y with
      | some b => off1 y (BitVec.ofNat 32 (b2n (s.armed (blkNo b))))
      | none =>
        let x := y / 8 * 8
        off1 x (match rowAt x with
          | none => 0#32
          | some r => s.readWord x r (y % 8 == 4) v)

/-- A read access of 8 bytes: the lower word, then the higher (R369). -/
def readAcc8 (off : Nat) (s : State) : State × Word :=
  let (s1, lo) := readAcc off s
  let (s2, hi) := readAcc (off + 4) s1
  (s2, hi ++ lo)

end Sys2Proof.Machine
end

