-- ==== Sys2Proof/Machine/Ctl.lean ====
section
/-! DEFINITION. The control path (R363-R390): hitches fired and applied, unlocks, the seal, register writes, the
configuration check and the voted copies. -/

namespace Sys2Proof.Machine

open Host

/-! ### Applying a commit (R22, R23, R95, R106, R149, R258, R376) -/

/-- A mask of MAP[i] is valid (R258): its own home bit, no other bit of [15:7], none of [6:0]. -/
def mapValid (i : Nat) (w : Word) : Bool := decide (w.toNat % 2 ^ 16 = 2 ^ (7 + i))

/-- The MAP masks of a commit (R258): all nine, or none with MAPERR. -/
def applyMap (snap : Table Word) (s : State) : State :=
  let x := fun (i : Nat) => bMem + 0x100 + 8 * i
  if (List.range 9).all (fun i => mapValid i (tget regReset snap (x i))) then forN 9 (fun i t => applyReg snap (x i) t) s
  else s.raise bMem F.Mem.MSTAT.MAPERR 0

/-- A level-set load by a hitch (R22): only while the analog domain is on (R45). (DEDUCED, log 47.) -/
def hitchLevels (g : Nat) (s : State) : State :=
  if s.domOn (g / 16) then loadDacs g (s.rd (bCh g) F.Ch.PECFG.LVL_SEL) s.eft s else s

/-- The staged registers of engine k and its vector unit (R149); LEADER shows whether it leads the braid of two or more
that its MASK names (R146). -/
def applyEngine (snap : Table Word) (k : Nat) (s : State) : State :=
  let t := forL [bEng k + F.Eng.ECFG.PIN.off, bEng k + F.Eng.EBRAID.off, bEng k + 0x18, bSk k + F.Sk.VCFG.VBASE.off]
    (applyReg snap) s
  let b := t.rd (bEng k) F.Eng.EBRAID
  t.wr (bEng k) F.Eng.ESTAT.LEADER (b2n (b.testBit k && decide (b ≠ 2 ^ k ∧ b % 2 ^ k = 0)))

/-- Unit `u` stands at a safe boundary of its own outside the boundaries that other commands bring (R376): it is idle.
The levels of a channel whose engine ran when the hitch fired wait for a LEVEL load (R22, R23).
(DEDUCED, log 48.) -/
def State.unitIdle (s : State) : HUnit → Bool
  | .levels g => match s.unitCommit (.levels g) with
    | some c => !c.ran.contains (g / 16)
    | none => !s.engRunning (g / 16)
  | .echo g => !s.engRunning (g / 16)
  | .epsk k => !s.engRunning k
  | .slot k j => (s.slot k j).opn.isNone
  | .engine k => !s.engRunning k
  | .cond i => decide (s.domState (s.rd (bCond i) F.Trs.TCOND.DOM) ≠ 2)
  | .stream i => decide (s.rd (bStr i) F.Trs.SCTL.EN = 0 ∧ s.rd (bStr i) F.Trs.SSTAT.IDLE = 1)
  | .tb => decide (s.coarse % 1000 = 0)
  | .mem => decide (s.rd bMem F.Mem.MCTL.EN = 0)

/-- Unit `u` takes the staged copies of a commit. (DEDUCED, log 47.) (DEDUCED, log 48.) -/
def applyUnit (snap : Table Word) (u : HUnit) (s : State) : State :=
  match u with
  | .levels g => hitchLevels g (applyLevels snap g s.eft s)
  | .echo g => applyEcho snap g s
  | .epsk k => applyEpsk snap k s
  | .slot k j => applySlotNow snap k j s
  | .engine k => applyEngine snap k s
  | .cond i => applyReg snap (bCond i + F.Trs.TCOND.SEL.off) s
  | .stream i => applyStream snap i s
  | .tb => applyReg snap (bTb + F.Tb.TSCFG.TOL.off) s
  | .mem => applyMap snap s

/-- HITCH_APPLY. -/
def hitchApply (u : HUnit) (s : State) : State :=
  match s.unitSnap u with
  | some snap => if s.unitIdle u then unitDone u (applyUnit snap u s) else s
  | none => s

/-! ### Configuration check (R387, R388) -/

/-- The base of block b of R387. -/
def cfgBase (b : Nat) : Nat := if b < 8 then 0x10000 * b else bSkein (b - 8)

/-- The bytes that the check of block b covers. -/
def State.cfgBytes (s : State) (b : Nat) : List Byte :=
  let slotx := decide (8 ≤ b) && s.on bCtl F.Ctl.CFGCTL.SLOTX
  (List.range 0x800).flatMap (fun i =>
    let y := 8 * i
    let x := cfgBase b + y
    if slotx ∧ 0x2000 ≤ y ∧ y < 0x3000 then []
    else match rowAt x with
      | none => []
      | some r =>
        let m := clsMask (fun c => c == .staged || c == .gstaged) r
        if m = 0#64 then [] else leBytes (r.width / 8) (s.reg x &&& m).toNat)

/-- The power domain of block b. (DEDUCED, log 45.) -/
def State.cfgOn (s : State) (b : Nat) : Bool :=
  if b = 4 then s.domOn 87 else if b = 7 then s.domOn 84 else if b < 8 then true else s.domOn (32 + (b - 8))

/-- The block's group has PEND or SCHED set; a condition of TRS belongs to every group (R374). -/
def State.cfgBusy (s : State) (b : Nat) : Bool :=
  let m := s.rd bCtl F.Ctl.HITCH_STAT.PEND ||| s.schedMask
  if b = 1 then m.testBit (s.rd bCtl F.Ctl.BLKGRP.TB)
  else if b = 5 then m.testBit (s.rd bCtl F.Ctl.BLKGRP.MEM)
  else if b = 4 then decide (m ≠ 0)
  else if b < 8 then false
  else m.testBit (s.hgroup (b - 8))

/-- The check of one block. -/
def cfgCheckOne (b : Nat) (s : State) : State :=
  if !s.bit bCtl F.Ctl.CFG_EN b ∨ !s.cfgOn b then s
  else
    let c := (crc32c (s.cfgBytes b)).toNat
    let s1 := s.wr (bCtl + 8 * b) F.Ctl.CFG.CRC c
    if s.cfgBusy b ∨ c = s.rd (bCtl + 8 * b) F.Ctl.CFG.REF then s1
    else (s1.raise bCtl F.Ctl.CFG_STAT b).wr bCtl F.Ctl.ERR.CFGMIS 1

/-- CFG_CHECK: the check of each millisecond. (DEDUCED, log 45.) -/
def cfgCheck (s : State) : State :=
  if s.cycle < s.cfgAt then s else forN 40 cfgCheckOne { s with cfgAt := s.cycle + 1000000 }

/-! ### Voted copies (R389) -/

/-- The field of VOTE_CNT that counts a set. (DEDUCED, log 46.) -/
def voteFld : VoteSet → Fld
  | .thresh => F.Ctl.VOTE_CNT.THRESH
  | .band => F.Ctl.VOTE_CNT.BAND
  | .unlock => F.Ctl.VOTE_CNT.UNLOCK
  | .pden => F.Ctl.VOTE_CNT.PDEN

/-- The registers that hold a set of R389, as base, field and width, lowest bits first: the limits, the states of sensors 0
to 38 and the device state; the band; KEYOFF; the domain enables. -/
def voteRegs : VoteSet → List (Nat × Fld)
  | .thresh => [(bThm, F.Thm.THRESH.WARN), (bThm, F.Thm.THRESH.THROT), (bThm, F.Thm.THRESH.SHUT)] ++
      (List.range 39).map (fun i => (bThm + 8 * i, F.Thm.TEMP.STATE)) ++ [(bThm, F.Thm.THMSTAT.STATE)]
  | .band => [(bMem, F.Mem.MSTAT.BAND)]
  | .unlock => [(bCtl, F.Ctl.SEAL.KEYOFF)]
  | .pden => [(bThm, F.Thm.PDEN), (bThm, F.Thm.PDEN1)]

/-- The blocks whose armed unlock the set holds, above its registers' bits. -/
def voteArmed : VoteSet → List Blk
  | .unlock => [.ctl, .tb, .thm, .cal, .mem, .lnk, .hif]
  | _ => []

/-- The bits of a set in force. -/
def State.voted (s : State) (set : VoteSet) : List Bool :=
  (voteRegs set).flatMap (fun p => (List.range (p.2.hi + 1 - p.2.lo)).map (fun i => s.bit p.1 p.2 i)) ++
    (voteArmed set).map (fun b => s.armed (blkNo b))

/-- The bits of a register's field from a list, lowest first. -/
def bitsNat (l : List Bool) : Nat := (l.zipIdx.map (fun p => if p.1 then 2 ^ p.2 else 0)).sum

/-- Every copy of a set takes the same bits (R389). -/
def setVoted (set : VoteSet) (l : List Bool) (s : State) : State :=
  let put := fun (p : State × List Bool) (q : Nat × Fld) =>
    let n := q.2.hi + 1 - q.2.lo
    (p.1.wr q.1 q.2 (bitsNat (p.2.take n)), p.2.drop n)
  let r := (voteRegs set).foldl put (s, l)
  (voteArmed set).zipIdx.foldl (fun t p => if atD r.2 p.2 false then t else t.setUnlock (blkNo p.1) none) r.1

/-- The majority of three copies, bit by bit. -/
def majority (a b c : Bool) : Bool := (a && b) || (a && c) || (b && c)

/-- Bits of one copy of a set have been upset: the three copies disagree, the majority of each bit is in force, and every
copy is rewritten with it; the event counts where a bit of the set disagrees. (DEDUCED, log 46.) -/
def voteRepair (set : VoteSet) (copy : Nat) (upset : BitVec 128) (s : State) : State :=
  let good := s.voted set
  let copies := (List.range 3).map (fun i =>
    if i = copy then good.zipIdx.map (fun p => p.1 ^^ upset.getLsbD p.2) else good)
  let maj := (List.range good.length).map (fun i =>
    majority (atD (atD copies 0 []) i false) (atD (atD copies 1 []) i false) (atD (atD copies 2 []) i false))
  if copies.all (fun c => c == maj) then s
  else ((setVoted set maj s).inc bCtl (voteFld set) 1).raise bCtl F.Ctl.ERR.VOTEERR 0

/-! ### Meanings -/

/-- HITCH_FIRE (R375). -/
def execHitchFire (mask : BitVec 8) (s : State) : Outcome State Fault Refusal :=
  act s (cmdAccess (bCtl + 0x110) false false (takeCommits mask.toNat none))

/-- HITCH_APPLY (R376). -/
def execHitchApply (u : HUnit) (s : State) : Outcome State Fault Refusal := act s (hitchApply u)

/-- UNLOCK_WRITE (R379). (DEDUCED, log 51.) -/
def execUnlockWrite (b : Blk) (view : View) (w : BitVec 32) (s : State) : Outcome State Fault Refusal :=
  act s (opUnlock b view w)

/-- UNLOCK_EXPIRY (R379). -/
def execUnlockExpiry (b : Blk) (s : State) : Outcome State Fault Refusal :=
  act s (fun t => if t.armed (blkNo b) then t else t.setUnlock (blkNo b) none)

/-- The view's number in address bits [15:14]. -/
def viewNo : View → Nat
  | .normal => 0 | .set => 1 | .clear => 2 | .toggle => 3

/-- SEAL_WRITE (R381, R383). -/
def execSealWrite (view : View) (w : BitVec 32) (s : State) : Outcome State Fault Refusal :=
  act s (writeAcc (viewNo view * 0x4000 + 0x100) w 15#4)

/-- A 64-bit word written through a view: both words through the normal view; through another each on its own, where it
names a bit (R369, R385). -/
def writeView (x : Nat) (v : View) (w : Word) (s : State) : State :=
  let off := viewNo v * 0x4000 + x
  let lo : BitVec 32 := w.setWidth 32
  let hi : BitVec 32 := (w >>> 32).setWidth 32
  if v = .normal then writeAcc8 off w s
  else
    let s1 := if lo ≠ 0#32 ∨ hi = 0#32 then writeAcc off lo 15#4 s else s
    if hi ≠ 0#32 then writeAcc (off + 4) hi 15#4 s1 else s1

/-- PDEN_WRITE (R353, R358, R360, R380, R383). -/
def execPdenWrite (one : Bool) (v : View) (w : Word) (s : State) : Outcome State Fault Refusal :=
  act s (if one then writeAcc (viewNo v * 0x4000 + bThm + F.Thm.PDEN1.off) (w.setWidth 32) 15#4
    else writeView (bThm + F.Thm.PDEN.off) v w)

/-- THRESH_WRITE (R349, R380). -/
def execThreshWrite (v : View) (w : BitVec 32) (s : State) : Outcome State Fault Refusal :=
  act s (writeAcc (viewNo v * 0x4000 + bThm + F.Thm.THRESH.WARN.off) w 15#4)

/-- REGISTER_WRITE (R361, R366-R369, R379-R385). -/
def execRegisterWrite (off : BitVec 23) (w : BitVec 32) (be : BitVec 4) (s : State) : Outcome State Fault Refusal :=
  act s (writeAcc off.toNat w be)

/-- CFG_CHECK (R387, R388). -/
def execCfgCheck (s : State) : Outcome State Fault Refusal := act s cfgCheck

/-- VOTE_REPAIR (R389). -/
def execVoteRepair (set : VoteSet) (copy : Fin 3) (upset : BitVec 128) (s : State) : Outcome State Fault Refusal :=
  act s (voteRepair set copy upset)

end Sys2Proof.Machine
end

