-- ==== Sys2Proof/Machine/HostIf.lean ====
section
/-! DEFINITION. The PCIe endpoint's events (R392, R412, R444, R445): link up, Hot Reset, D3hot and the return from it. -/

namespace Sys2Proof.Machine

open Host

/-- HIF and the host ring table at their reset values; what HIF holds of a ring beside its entry starts anew, and the
records that are next in order for it still wait (R412, R445). -/
def hifReset (s : State) : State :=
  let gone := fun (x : Nat) => domainOf 0 x == some 84
  let s1 : State := { s with regs := tdrop gone s.regs, staged := tdrop gone s.staged, tables := tdrop gone s.tables, dmas := [] }
  let s2 := (s1.setUnlock 7 none).setLow 7 none
  forL (s.hrings.map (·.1)) (fun h t => (ringClear h t).updHring h (fun x => { x with irqFrom := none })) s2

/-- What no DMA port has taken up is dropped. -/
def dmaDropAll (s : State) : State := forN 8 dmaDropWait s

/-- The transfers in progress in `s` end with code PCIE in `t` (R399, R412). -/
def dmaPcie (s t : State) : State :=
  forN 8 (fun n u => if s.rd (bDma n) F.Hif.DMASTAT.BUSY = 1 then dmaFinish n 2 u else u) t

/-- PCIE_HOT_RESET: HIF and the ring table reset, and every transfer ends with code PCIE; the link trains anew.
(DEDUCED, log 54.) -/
def hotReset (s : State) : State :=
  if !s.isHead ∨ !s.domOn 84 then s else dmaPcie s (hifReset (dmaDropAll s))

/-- D3HOT_TO_D0, the excursion from D0 to D3hot and back: the transfers in progress at its entry end with code PCIE, the
endpoint issues no request, and HIF and the ring table reset; the link, which HIFSTAT mirrors, stays up.
(DEDUCED, log 54.) -/
def d3hotReturn (s : State) : State :=
  if !s.isHead ∨ !s.domOn 84 then s
  else
    let t := dmaPcie s (hifReset (dmaDropAll s))
    ((t.wr bHif F.Hif.HIFSTAT.LINKUP (s.rd bHif F.Hif.HIFSTAT.LINKUP)).wr bHif F.Hif.HIFSTAT.WIDTH
      (s.rd bHif F.Hif.HIFSTAT.WIDTH)).wr bHif F.Hif.HIFSTAT.SPEED (s.rd bHif F.Hif.HIFSTAT.SPEED)

/-- What the endpoint supports, and what its configuration space reads as (R444, R445). -/
structure PcieFn where
  vendor : BitVec 16
  device : BitVec 16
  revision : BitVec 8
  classCode : BitVec 24
  bar0Log2 : Nat             -- BAR0: 64-bit, non-prefetchable, of 2 to this power bytes
  vectors : Nat              -- MSI-X
  tableAt : Nat              -- its table and pending bits, from BAR0
  pbaAt : Nat
  noSoftReset : Bool
  speeds : List Nat          -- codes of HIFSTAT.SPEED
  widths : List Nat
  maxMps : Nat               -- the largest codes of HIFSTAT.MPS and MRRS
  maxMrrs : Nat
  deriving DecidableEq, Repr

/-- The endpoint's configuration (R444, R445). -/
def pcieFn : PcieFn where
  vendor := 0x1f5b#16
  device := 0x0512#16
  revision := 0xa2#8
  classCode := 0x118000#24
  bar0Log2 := 29
  vectors := 64
  tableAt := 0x72000
  pbaAt := 0x73000
  noSoftReset := false
  speeds := [1, 2, 3, 4, 5]
  widths := [1, 2, 4, 8, 16]
  maxMps := 2
  maxMrrs := 5

/-- The configuration space's words at byte offsets 0x00, 0x08, 0x10 and 0x14 with every writable bit of BAR0 written as
1, from the layout that the PCI Express Base Specification gives them (R444). (PRESUMED, log 146.) -/
def pcieConfig (x : Nat) : BitVec 32 :=
  if x = 0x00 then pcieFn.device ++ pcieFn.vendor
  else if x = 0x08 then pcieFn.classCode ++ pcieFn.revision
  else if x = 0x10 then BitVec.ofNat 32 (2 ^ 32 - 2 ^ pcieFn.bar0Log2 + 4)
  else if x = 0x14 then 0xffffffff#32
  else 0#32

/-- A training outcome and a configuration that the endpoint supports (R444). -/
def pcieOk (speed width mps mrrs : Nat) : Bool :=
  pcieFn.speeds.contains speed && pcieFn.widths.contains width && decide (mps ≤ pcieFn.maxMps ∧ mrrs ≤ pcieFn.maxMrrs)

/-- PCIE_LINK_UP: HIFSTAT shows the link and the configuration the host has set. Until 1,000 us after the release of POR_N
configuration requests are answered with Configuration Request Retry Status, and the host sets nothing (R412).
(DEDUCED, log 56.) -/
def pcieUp (speed width mps mrrs : Nat) (bme : Bool) (s : State) : State :=
  if !s.isHead ∨ !s.domOn 84 ∨ s.scanOn ∨ !pcieOk speed width mps mrrs then s
  else
    let b := bHif
    let s1 := ((s.wr b F.Hif.HIFSTAT.SPEED speed).wr b F.Hif.HIFSTAT.WIDTH width).wr b F.Hif.HIFSTAT.LINKUP 1
    if s.cycle < 1000000 then s1
    else ((s1.wr b F.Hif.HIFSTAT.MPS mps).wr b F.Hif.HIFSTAT.MRRS mrrs).wr b F.Hif.HIFSTAT.BME (b2n bme)

/-! ### Meanings -/

/-- PCIE_HOT_RESET (R412). -/
def execPcieHotReset (s : State) : Outcome State Fault Refusal := act s hotReset

/-- D3HOT_TO_D0 (R445). -/
def execD3hotToD0 (s : State) : Outcome State Fault Refusal := act s d3hotReturn

/-- PCIE_LINK_UP (R412, R444). -/
def execPcieLinkUp (speed width mps mrrs : Nat) (bme : Bool) (s : State) : Outcome State Fault Refusal :=
  act s (pcieUp speed width mps mrrs bme)

end Sys2Proof.Machine
end

