-- ==== Sys2Proof/Machine/MeasInstr.lean ====
section
/-! DEFINITION. The measurement instructions (R200-R205). -/

namespace Sys2Proof.Machine

open Host

/-! ### MSET (R201) -/

/-- The staged register `r` of slot j of skein k takes `w`: its STAGED fields (R201); a host write of the same cycle does
not replace it (R211). -/
def stageSlot (k j r : Nat) (w : Word) (s : State) : State :=
  let x := bSlot k j + 8 * r
  match rowAt x with
  | none => s
  | some row => (s.setStg x (takeStaged row w (s.stg x))).updSlot k j (fun y => { y with mset := some (s.cycle, r) })

/-- The whole staged set of slot j applies as a hitch of its group would (R106): at once with no gate open, else at
the next C. -/
def msetApply (k j : Nat) (s : State) : State :=
  if (s.slot k j).opn.isSome then
    { s with commits := s.commits ++ [{ group := 8, snap := s.staged, at_ := none, waiting := [uSlot k j] }] }
  else applySlotNow s.staged k j s

/-- The legality of MSET. -/
def msetLegal (o : TymOps) : Bool :=
  o.dst == 0#4 && decide (immF o 39 37 < 5) &&
    (if o.form then immOnly o (7 * 2 ^ 37) else o.srcb == 0#4 && immOnly o (7 * 2 ^ 37 + 0x3f))

/-- MSET (R200, R201). -/
def execTymMset (k : Fin 32) (o : TymOps) (s : State) : Outcome State Fault Refusal :=
  let j := if o.form then (s.g k o.srcb.toNat).toNat % 64 else immF o 5 0
  act s (tymStep k (twoForm o 0x40#8) o (.g o.srca.toNat :: (if o.form then [.g o.srcb.toNat] else [])) (msetLegal o) false
    (s.condOk k o.cond) false (fun t =>
      advance k 1 (msetApply k j (stageSlot k j (immF o 39 37) (s.g k o.srca.toNat) t))))

/-! ### GATE (R202) -/

/-- The legality of GATE. -/
def gateLegal (o : TymOps) : Bool := o.dst == 0#4 && o.srcb == 0#4 && immOnly o 3 && immF o 1 0 != 3

/-- GATE (R200, R202). -/
def execTymGate (k : Fin 32) (o : TymOps) (s : State) : Outcome State Fault Refusal :=
  act s (tymStep k 0x42#8 o [.g o.srca.toNat] (gateLegal o) false (s.condOk k o.cond) (s.vqStall k true)
    (enqueue k (.item (.gate (s.g k o.srca.toNat) (immF o 1 0)))))

/-! ### MWAIT (R203) -/

/-- The RDY bits of the slots named in a mask. -/
def State.rdyBits (s : State) (k : Nat) (m : Word) : Word :=
  BitVec.ofNat 64 (((List.range 64).map (fun j => if m.toNat.testBit j ∧ (s.slot k j).rdy then 2 ^ j else 0)).sum)

/-- The condition of an MWAIT holds. -/
def State.mwaitMet (s : State) (k : Nat) (m : Word) (any : Bool) : Bool :=
  let r := s.rdyBits k m
  m == 0#64 || (if any then r != 0#64 else r == m)

/-- The legality of MWAIT. -/
def mwaitLegal (o : TymOps) : Bool := o.srcb == 0#4 && immOnly o ((2 ^ 23 - 1) * 2 ^ 17 + 2 ^ 16)

/-- MWAIT (R200, R203). -/
def execTymMwait (k : Fin 32) (o : TymOps) (s : State) : Outcome State Fault Refusal :=
  let n := immF o 39 17
  act s (tymStep k 0x43#8 o [.g o.srca.toNat] (mwaitLegal o) false (s.condOk k o.cond) false (fun t =>
    waitFor k (.mwait o.dst.toNat (s.g k o.srca.toNat) (o.imm.getLsbD 16) (if n = 0 then none else some (s.cycle + 1000 * n)))
      (advance k 1 t)))

/-- MWAIT_RELEASE (R203): gd holds the RDY bits of the named slots; Z = 1 only for an empty mask. -/
def execMwaitRelease (k : Fin 32) (s : State) : Outcome State Fault Refusal :=
  act s (fun s =>
    match (s.eng k).wait with
    | .mwait d m any _ =>
      if s.engState k ≠ 3 ∨ !s.mwaitMet k m any then s
      else resumeAt k (s.cycle + 3) (setFlags k { s.flags k with z := m == 0#64 } (setG k d (s.rdyBits k m) s))
    | _ => s)

/-- MWAIT_TIMEOUT (R203): gd holds the RDY bits present, Z = 1. -/
def execMwaitTimeout (k : Fin 32) (s : State) : Outcome State Fault Refusal :=
  act s (fun s =>
    match (s.eng k).wait with
    | .mwait d m any (some t) =>
      if s.engState k ≠ 3 ∨ s.cycle < t ∨ s.mwaitMet k m any then s
      else resumeAt k (s.cycle + 3) (setFlags k { s.flags k with z := true } (setG k d (s.rdyBits k m) s))
    | _ => s)

/-! ### MGET and MCLR (R204, R205) -/

/-- The publication of this cycle, if slot j has one: MGET does not read it (R204, R211). -/
def State.justPub (s : State) (k j : Nat) : Option PrevRes := (s.slot k j).prev.filter (fun p => p.at_ == s.cycle)

/-- RES, AUX and CNT of slot j as MGET reads them: of one publication, before the present cycle (R204). -/
def State.mgetRes (s : State) (k j : Nat) : Word := ((s.justPub k j).map (·.res)).getD (s.reg (bSlot k j + 0x28))
def State.mgetAux (s : State) (k j : Nat) : Word := ((s.justPub k j).map (·.aux)).getD (s.reg (bSlot k j + 0x30))
def State.mgetCnt (s : State) (k j : Nat) : Word := ((s.justPub k j).map (·.cnt)).getD (s.reg (bSlot k j + 0x38))

/-- RDY of slot j clears, but that of a result published in the present cycle stays (R204). -/
def clearRdy (k j : Nat) (s : State) : State :=
  if (s.justPub k j).isSome then s else s.updSlot k j (fun x => { x with rdy := false })

/-- The legality of the scalar MGET. -/
def mgetLegal (o : TymOps) : Bool :=
  decide (o.dst.toNat ≤ 13) && o.srca == 0#4 && o.srcb == 0#4 && immOnly o 0x3f

/-- MGET (R200, R204): RES, AUX and CNT of one publication; the destinations may be read from the second cycle on. -/
def execTymMget (k : Fin 32) (o : TymOps) (s : State) : Outcome State Fault Refusal :=
  let d := o.dst.toNat
  let j := immF o 5 0
  act s (tymStep k 0x44#8 o [] (mgetLegal o) false (s.condOk k o.cond) false (fun t =>
    let t1 := setG k (d + 2) (s.mgetCnt k j) (setG k (d + 1) (s.mgetAux k j) (setG k d (s.mgetRes k j) t))
    advance k 1 (busyUntil k [.g d, .g (d + 1), .g (d + 2)] (s.cycle + 2) (clearRdy k j t1))))

/-- The legality of the lane MGET. -/
def mgetLaneLegal (o : TymOps) : Bool := lp o.dst && lp o.srcb && o.srca == 0#4 && immOnly o (2 ^ 16 + 0x3f)

/-- MGET, lane form (R200, R204). -/
def execTymMgetLane (k : Fin 32) (o : TymOps) (s : State) : Outcome State Fault Refusal :=
  let m := s.sel k o.cond
  let sl := fun i => (immF o 5 0 + i) % 64
  let aux := fun i => fw (s.mgetAux k (sl i)) F.Slot.AUX.FLAGS
  let good := fun i => if o.imm.getLsbD 16 then (aux i).testBit 0 else !(aux i).testBit 1
  let p := ((lanesOf m).map (fun i => if good i then 2 ^ i else 0)).sum
  act s (tymStep k 0x45#8 o [] (mgetLaneLegal o) false (s.laneCondOk k o.cond) false (fun t =>
    let t1 := setP k o.srcb.toNat p (setLanes k o.dst.toNat m (fun i => s.mgetRes k (sl i)) t)
    let t2 := forL (lanesOf m) (fun i u => clearRdy k (sl i) u) t1
    advance k 1 (busyUntil k [.l o.dst.toNat, .p o.srcb.toNat] (s.cycle + 2) t2)))

/-- The legality of MCLR. -/
def mclrLegal (o : TymOps) : Bool := o.dst == 0#4 && o.srcb == 0#4 && immOnly o 0

/-- MCLR (R200, R205). -/
def execTymMclr (k : Fin 32) (o : TymOps) (s : State) : Outcome State Fault Refusal :=
  act s (tymStep k 0x46#8 o [.g o.srca.toNat] (mclrLegal o) false (s.condOk k o.cond) false (fun t =>
    advance k 1 (clearSlots k (s.g k o.srca.toNat).toNat t)))

end Sys2Proof.Machine
end

