-- ==== Sys2Proof/Machine/Illegal.lean ====
section
/-! DEFINITION. Instruction words that the engine refuses (R157, R163, R175). -/

namespace Sys2Proof.Machine

open Host

/-- The operand fields of a TYM instruction are legal (R157). -/
def tymLegal : Instr → Bool
  | .tymNop _ o | .tymRet _ o | .tymEndl _ o | .tymHalt _ o => bareLegal o
  | .tymJmp _ o => jmpLegal o
  | .tymJcc _ o => jccLegal o
  | .tymCall _ o => callLegal o
  | .tymLoop _ o => loopLegal o
  | .tymRpt _ o => rptLegal o
  | .tymWaitt _ o => waittLegal o
  | .tymWaite _ o => waiteLegal o
  | .tymSyncb _ o => syncbLegal o
  | .tymAdd _ o | .tymSub _ o | .tymMul _ o | .tymMulh _ o | .tymAnd _ o | .tymOr _ o | .tymXor _ o => arithLegal o
  | .tymShl _ o => shiftLegal o
  | .tymShr _ o => shiftLegal o
  | .tymCmp _ o => cmpLegal o
  | .tymMov _ o => movLegal o
  | .tymMovi _ o => moviLegal o
  | .tymLadd _ o | .tymLsub _ o => laneLegal o
  | .tymLsel _ o => lselLegal o
  | .tymLcmp _ o => lcmpLegal o
  | .tymLmov _ o => lmovLegal o
  | .tymPset _ o => psetLegal o
  | .tymPand _ o => pandLegal o
  | .tymVec _ o => vecLegal o
  | .tymVeci _ o => veciLegal o
  | .tymVsub _ o => vsubLegal o
  | .tymTset _ o => tsetLegal o
  | .tymLevel _ o => levelLegal o
  | .tymMatch _ o => matchLegal o
  | .tymFailm _ o => failmLegal o
  | .tymMset _ o => msetLegal o
  | .tymGate _ o => gateLegal o
  | .tymMwait _ o => mwaitLegal o
  | .tymMget _ o => mgetLegal o
  | .tymMgetLane _ o => mgetLaneLegal o
  | .tymMclr _ o => mclrLegal o
  | .tymMark _ o => markLegal o
  | .tymEmit _ o => emitLegal o
  | .tymArm _ o => armLegal o
  | .tymFire _ o => fireLegal o
  | .tymTwait _ o => twaitLegal o
  | .tymSignal _ o => signalLegal o
  | _ => false

/-- A word that raises ILLEGAL when it is due: no table assigns its opcode, a field is not allowed, or it is a control
instruction under an RPT. -/
def tymRefused (s : State) (k : Fin 32) (w : Word) : Bool :=
  match tymDecode k w with
  | none => true
  | some i => !tymLegal i || (decide (w.toNat / 2 ^ 56 < 0x0c) && (s.eng k).rpt.isSome)

/-- ILLEGAL_OPCODE (R157, R175): word w, which stands at PC, is due to issue in engine k. -/
def execIllegalOpcode (k : Fin 32) (w : Word) (s : State) : Outcome State Fault Refusal :=
  act s (ownCause k fun s =>
    if !s.mayIssue k [] then s
    else if !s.lineHere k (s.pc k) then cacheMiss k s
    else if s.codeWord k = w ∧ tymRefused s k w then engineFault k 1 s else s)

end Sys2Proof.Machine
end

