-- ==== Sys2Proof/Machine/Jtag.lean ====
section
/-! DEFINITION. The test access port (R447, R448). -/

namespace Sys2Proof.Machine

open Host

/-- The data register that the present instruction selects, bit 0 first, as it is captured (R447): IDCODE, the boundary
scan register, else the bypass register. (DEDUCED, log 115.) -/
def State.jtagData (s : State) : List Bool :=
  let ir := s.jtag.ir
  if ir = 0x01#8 then (List.range 32).map (0x2051256b#32).getLsbD
  else if ir = 0x00#8 ∨ ir = 0x02#8 ∨ ir = 0x08#8 ∨ ir = 0x09#8 then (List.range 1168).map s.jtag.bsr.getLsbD
  else [s.jtag.bypass]

/-- The pins leave the device: the LANYARD and PCIe links go down, and the FIRE lines follow the boundary register.
(DEDUCED, log 117.) -/
def linksDown (s : State) : State :=
  let s1 := portDownOp 1 (portDownOp 0 s)
  let s2 := s1.wr bHif F.Hif.HIFSTAT.LINKUP 0
  forN 4 (fun d t =>
    let was := (t.dom d).pulse.isSome
    if was && !t.firePulled d then t.out (.fireRelease d) else if !was && t.firePulled d then t.out (.firePull d) else t) s2

/-- An instruction enters the instruction register. One that disturbs the device leaves it in an undefined state when
another takes its place. (DEDUCED, log 117.) -/
def jtagLoad (ir : BitVec 8) (s : State) : State :=
  let t : State := { s with jtag := { s.jtag with ir := ir } }
  if s.scanOn ∧ s.jtag.ir ≠ ir then { t with phase := if s.phase = .held then .held else .undefined }
  else if disturbs ir ∧ !s.scanOn ∧ s.phase = .running then linksDown t
  else t

/-- The port works whenever the device has its supplies. -/
def tap (s : State) (f : State → State) : Outcome State Fault Refusal :=
  match s.phase with
  | .off => .next s
  | _ => .next (f s)

/-- EXTEST (R447, R448). -/
def execExtest (s : State) : Outcome State Fault Refusal := tap s (jtagLoad 0x00#8)

/-- IDCODE (R447). -/
def execIdcode (s : State) : Outcome State Fault Refusal := tap s (jtagLoad 0x01#8)

/-- SAMPLE/PRELOAD (R447): `cells` is what is shifted into the boundary scan register. -/
def execSamplePreload (cells : BitVec 1168) (s : State) : Outcome State Fault Refusal :=
  tap s (fun t => let u := jtagLoad 0x02#8 t; { u with jtag := { u.jtag with bsr := cells } })

/-- CLAMP (R447, R448). -/
def execClamp (s : State) : Outcome State Fault Refusal := tap s (jtagLoad 0x04#8)

/-- HIGHZ (R447, R448). -/
def execHighz (s : State) : Outcome State Fault Refusal := tap s (jtagLoad 0x05#8)

/-- EXTEST_PULSE (R447, R448). -/
def execExtestPulse (s : State) : Outcome State Fault Refusal := tap s (jtagLoad 0x08#8)

/-- EXTEST_TRAIN (R447, R448). -/
def execExtestTrain (s : State) : Outcome State Fault Refusal := tap s (jtagLoad 0x09#8)

/-- BYPASS (R447). (DEDUCED, log 115.) -/
def execBypass (s : State) : Outcome State Fault Refusal := tap s (jtagLoad 0xff#8)

end Sys2Proof.Machine
end

