-- ==== Sys2Proof/Machine/Tunnel.lean ====
section
/-! DEFINITION. Tunnelled register accesses (R313): the head device forwards a host access to another position, that
position executes it and answers. -/

namespace Sys2Proof.Machine

open Host

/-- The access at an offset reaches a domain that is off. -/
def State.offHit (s : State) (off : Nat) : Bool :=
  let o := off / 4 * 4
  if 0x400000 ≤ o then !s.reachable o
  else match winAddr o with
    | some (y, _) => !s.reachable y
    | none => false

/-- A write is a lock violation: what LVADDR.COUNT shows had it been 0. -/
def State.lockHit (s : State) (f : State → State) : Bool :=
  decide ((f (s.wr bCtl F.Ctl.LVADDR.COUNT 0)).rd bCtl F.Ctl.LVADDR.COUNT ≠ 0)

/-- An access of 4 or 8 bytes executed here: the data, and the status of R307. (DEDUCED, log 52.) -/
def localAccess (off : Nat) (wide write : Bool) (w : Word) (s : State) : State × Word × Nat :=
  let st := if s.offHit off ∨ (wide ∧ s.offHit (off + 4)) then 1 else 0
  if write then
    let f := if wide then writeAcc8 off w else writeAcc off (w.setWidth 32) 15#4
    (f s, 0#64, if st = 1 then 1 else if s.lockHit f then 2 else 0)
  else if wide then
    let (t, d) := readAcc8 off s
    (t, d, st)
  else
    let (t, d) := readAcc off s
    (t, d.setWidth 64, st)

/-- A tunnelled access is executed at its position and answered by RRESP. -/
def tunServe (src tag off : Nat) (wide write : Bool) (w : Word) (s : State) : State :=
  let (t, d, st) := localAccess off wide write w s
  sendTo 0x12 tag src 2 [d.toNat, st] t

/-- The data of an access that no device answers. -/
def lostData (write : Bool) : Word := if write then 0#64 else BitVec.allOnes 64

/-- A host access on the head device to position `p` (R313); to its own position it is executed here, and one that two
breaks have cut off does not answer (R318).
(DEDUCED, log 52.) -/
def tunnelAccess (p off : Nat) (wide write : Bool) (w : Word) (s : State) : State :=
  if !s.isHead ∨ !s.domOn 84 then s
  else
    let tag := s.lnk.rtag
    let s1 := s.updLnk (fun x => { x with rtag := (x.rtag + 1) % 2 ^ 32 })
    if p = s.pos then
      let (t, d, st) := localAccess off wide write w s1
      t.out (.tunnelDone tag d st)
    else if s.rd bLnk F.Lnk.LSTAT.READY = 0 ∨ s.rd bLnk F.Lnk.LSTAT.N ≤ p ∨ s.cutOff p then
      (s1.raise bLnk F.Lnk.LSTAT.NOPOS 0).out (.tunnelDone tag (lostData write) 3)
    else
      let s2 := s1.updLnk (fun x => { x with tuns := x.tuns ++ [{ tag := tag, pos := p, write := write, at_ := s.cycle }] })
      let head := off + 2 ^ 23 * b2n wide
      if write then sendTo 0x11 tag p 2 [head, w.toNat] s2 else sendTo 0x10 tag p 2 [head] s2

/-- The RRESP of a tunnelled access completes it; a late one for an access already completed does nothing. -/
def tunnelAnswer (tag : Nat) (w : Word) (st : Nat) (s : State) : State :=
  match s.lnk.tuns.find? (fun t => t.tag == tag) with
  | none => s
  | some t =>
    let s1 := s.updLnk (fun x => { x with tuns := x.tuns.filter (fun y => y.tag != tag) })
    if st = 3 then (s1.raise bLnk F.Lnk.LSTAT.NOPOS 0).out (.tunnelDone tag (lostData t.write) 3) else s1.out (.tunnelDone tag w st)

/-- TUNNEL_TIMEOUT: the oldest access that has waited 45 µs is lost. -/
def tunnelLost (s : State) : State :=
  match s.lnk.tuns with
  | t :: rest =>
    if s.cycle < t.at_ + 45000 then s
    else ((s.updLnk (fun x => { x with tuns := rest })).raise bLnk F.Lnk.LSTAT.RLOST 0).out (.tunnelDone t.tag (lostData t.write) 4)
  | [] => s

/-! ### Meanings -/

/-- RREAD (R313). -/
def execRread (hdr : PktHdr) (off : BitVec 23) (wide : Bool) (s : State) : Outcome State Fault Refusal :=
  act s (receive hdr 0x10 [off.toNat + 2 ^ 23 * b2n wide] (tunServe hdr.src hdr.tag.toNat off.toNat wide false 0#64))

/-- RWRITE (R313). -/
def execRwrite (hdr : PktHdr) (off : BitVec 23) (wide : Bool) (w : Word) (s : State) : Outcome State Fault Refusal :=
  act s (receive hdr 0x11 [off.toNat + 2 ^ 23 * b2n wide, w.toNat]
    (tunServe hdr.src hdr.tag.toNat off.toNat wide true w))

/-- RRESP (R313). -/
def execRresp (hdr : PktHdr) (w : Word) (status : Fin 4) (s : State) : Outcome State Fault Refusal :=
  act s (receive hdr 0x12 [w.toNat, status.val] (tunnelAnswer hdr.tag.toNat w status))

/-- TUNNEL_ACCESS (R313). -/
def execTunnelAccess (p : Fin 64) (off : BitVec 23) (wide write : Bool) (w : Word) (s : State) :
    Outcome State Fault Refusal :=
  act s (tunnelAccess p off.toNat wide write w)

/-- TUNNEL_TIMEOUT (R313). -/
def execTunnelTimeout (s : State) : Outcome State Fault Refusal := act s tunnelLost

end Sys2Proof.Machine
end

