-- ==== Sys2Proof/Machine/Dispatch.lean ====
section
/-! DEFINITION. One arm per command of the table, each a direct call of its meaning. -/

namespace Sys2Proof.Machine

open Host

/-- The effect of a command on everything but the queue. -/
def exec (i : Instr) (s : State) : Host.Outcome State Fault Refusal :=
  match i with
  | .porRelease head refsel addrLock => Sys2Proof.Machine.execPorRelease head refsel addrLock s
  | .porAssert => Sys2Proof.Machine.execPorAssert s
  | .pwrgood => Sys2Proof.Machine.execPwrgood s
  | .powerDomainOn d => Sys2Proof.Machine.execPowerDomainOn d s
  | .powerGood d => Sys2Proof.Machine.execPowerGood d s
  | .powerDomainOff d => Sys2Proof.Machine.execPowerDomainOff d s
  | .pdenWrite one view w => Sys2Proof.Machine.execPdenWrite one view w s
  | .threshWrite view w => Sys2Proof.Machine.execThreshWrite view w s
  | .thmSample readings => Sys2Proof.Machine.execThmSample readings s
  | .shutdownDomainsOff => Sys2Proof.Machine.execShutdownDomainsOff s
  | .avsStep slacks vout iout rtemp fails version => Sys2Proof.Machine.execAvsStep slacks vout iout rtemp fails version s
  | .settleTimerExpiry k c => Sys2Proof.Machine.execSettleTimerExpiry k c s
  | .pmuStart k c => Sys2Proof.Machine.execPmuStart k c s
  | .pmuConversionComplete m codes clamped overrange => Sys2Proof.Machine.execPmuConversionComplete m codes clamped overrange s
  | .safeRelease k c => Sys2Proof.Machine.execSafeRelease k c s
  | .safeConditionReached k c => Sys2Proof.Machine.execSafeConditionReached k c s
  | .pathSwap k c agreedNs => Sys2Proof.Machine.execPathSwap k c agreedNs s
  | .edge k c comp rising fs => Sys2Proof.Machine.execEdge k c comp rising fs s
  | .vernierConversionComplete k u q => Sys2Proof.Machine.execVernierConversionComplete k u q s
  | .vernierUnitRelease k u => Sys2Proof.Machine.execVernierUnitRelease k u s
  | .stampDelivery k => Sys2Proof.Machine.execStampDelivery k s
  | .cntSnap k alsoClr => Sys2Proof.Machine.execCntSnap k alsoClr s
  | .cntClr k => Sys2Proof.Machine.execCntClr k s
  | .dllUpdate k err ctrl => Sys2Proof.Machine.execDllUpdate k err ctrl s
  | .vernierWithdraw k => Sys2Proof.Machine.execVernierWithdraw k s
  | .vernierCalComplete k u h => Sys2Proof.Machine.execVernierCalComplete k u h s
  | .vectorIssue k => Sys2Proof.Machine.execVectorIssue k s
  | .driveEvent k c => Sys2Proof.Machine.execDriveEvent k c s
  | .compareJudgement k c w0 w1 => Sys2Proof.Machine.execCompareJudgement k c w0 w1 s
  | .echoMiss k c => Sys2Proof.Machine.execEchoMiss k c s
  | .timedGateBoundary k j => Sys2Proof.Machine.execTimedGateBoundary k j s
  | .armedGateClose k j => Sys2Proof.Machine.execArmedGateClose k j s
  | .deferredClose k j => Sys2Proof.Machine.execDeferredClose k j s
  | .waitWindowEnd k j => Sys2Proof.Machine.execWaitWindowEnd k j s
  | .pairingTimeout k j => Sys2Proof.Machine.execPairingTimeout k j s
  | .divideJobStart k => Sys2Proof.Machine.execDivideJobStart k s
  | .divideJobComplete k => Sys2Proof.Machine.execDivideJobComplete k s
  | .totHistPublish k j => Sys2Proof.Machine.execTotHistPublish k j s
  | .mauclr k mask => Sys2Proof.Machine.execMauclr k mask s
  | .ectlStart k timed => Sys2Proof.Machine.execEctlStart k timed s
  | .timedStart k => Sys2Proof.Machine.execTimedStart k s
  | .pinLoadComplete k => Sys2Proof.Machine.execPinLoadComplete k s
  | .ectlAbort k => Sys2Proof.Machine.execEctlAbort k s
  | .ectlEngreset k => Sys2Proof.Machine.execEctlEngreset k s
  | .engineRegWrite k off w => Sys2Proof.Machine.execEngineRegWrite k off w s
  | .ehostsigWrite k view m => Sys2Proof.Machine.execEhostsigWrite k view m s
  | .cacheLineFill k => Sys2Proof.Machine.execCacheLineFill k s
  | .tymNop k o => Sys2Proof.Machine.execTymNop k o s
  | .tymJmp k o => Sys2Proof.Machine.execTymJmp k o s
  | .tymJcc k o => Sys2Proof.Machine.execTymJcc k o s
  | .tymCall k o => Sys2Proof.Machine.execTymCall k o s
  | .tymRet k o => Sys2Proof.Machine.execTymRet k o s
  | .tymLoop k o => Sys2Proof.Machine.execTymLoop k o s
  | .tymEndl k o => Sys2Proof.Machine.execTymEndl k o s
  | .tymRpt k o => Sys2Proof.Machine.execTymRpt k o s
  | .tymHalt k o => Sys2Proof.Machine.execTymHalt k o s
  | .tymWaitt k o => Sys2Proof.Machine.execTymWaitt k o s
  | .waittExpiry k => Sys2Proof.Machine.execWaittExpiry k s
  | .tymWaite k o => Sys2Proof.Machine.execTymWaite k o s
  | .waiteEvent k => Sys2Proof.Machine.execWaiteEvent k s
  | .waiteTimeout k => Sys2Proof.Machine.execWaiteTimeout k s
  | .tymSyncb k o => Sys2Proof.Machine.execTymSyncb k o s
  | .barrierRelease k => Sys2Proof.Machine.execBarrierRelease k s
  | .drainComplete k => Sys2Proof.Machine.execDrainComplete k s
  | .tymAdd k o => Sys2Proof.Machine.execTymAdd k o s
  | .tymSub k o => Sys2Proof.Machine.execTymSub k o s
  | .tymMul k o => Sys2Proof.Machine.execTymMul k o s
  | .tymMulh k o => Sys2Proof.Machine.execTymMulh k o s
  | .tymAnd k o => Sys2Proof.Machine.execTymAnd k o s
  | .tymOr k o => Sys2Proof.Machine.execTymOr k o s
  | .tymXor k o => Sys2Proof.Machine.execTymXor k o s
  | .tymShl k o => Sys2Proof.Machine.execTymShl k o s
  | .tymShr k o => Sys2Proof.Machine.execTymShr k o s
  | .tymCmp k o => Sys2Proof.Machine.execTymCmp k o s
  | .tymMov k o => Sys2Proof.Machine.execTymMov k o s
  | .tymMovi k o => Sys2Proof.Machine.execTymMovi k o s
  | .tymLadd k o => Sys2Proof.Machine.execTymLadd k o s
  | .tymLsub k o => Sys2Proof.Machine.execTymLsub k o s
  | .tymLsel k o => Sys2Proof.Machine.execTymLsel k o s
  | .tymLcmp k o => Sys2Proof.Machine.execTymLcmp k o s
  | .tymLmov k o => Sys2Proof.Machine.execTymLmov k o s
  | .tymPset k o => Sys2Proof.Machine.execTymPset k o s
  | .tymPand k o => Sys2Proof.Machine.execTymPand k o s
  | .tymVec k o => Sys2Proof.Machine.execTymVec k o s
  | .tymVeci k o => Sys2Proof.Machine.execTymVeci k o s
  | .tymVsub k o => Sys2Proof.Machine.execTymVsub k o s
  | .tymTset k o => Sys2Proof.Machine.execTymTset k o s
  | .tymLevel k o => Sys2Proof.Machine.execTymLevel k o s
  | .tymMatch k o => Sys2Proof.Machine.execTymMatch k o s
  | .matchRelease k => Sys2Proof.Machine.execMatchRelease k s
  | .tymFailm k o => Sys2Proof.Machine.execTymFailm k o s
  | .tymMset k o => Sys2Proof.Machine.execTymMset k o s
  | .tymGate k o => Sys2Proof.Machine.execTymGate k o s
  | .tymMwait k o => Sys2Proof.Machine.execTymMwait k o s
  | .mwaitRelease k => Sys2Proof.Machine.execMwaitRelease k s
  | .mwaitTimeout k => Sys2Proof.Machine.execMwaitTimeout k s
  | .tymMget k o => Sys2Proof.Machine.execTymMget k o s
  | .tymMgetLane k o => Sys2Proof.Machine.execTymMgetLane k o s
  | .tymMclr k o => Sys2Proof.Machine.execTymMclr k o s
  | .tymMark k o => Sys2Proof.Machine.execTymMark k o s
  | .tymEmit k o => Sys2Proof.Machine.execTymEmit k o s
  | .tymArm k o => Sys2Proof.Machine.execTymArm k o s
  | .tymFire k o => Sys2Proof.Machine.execTymFire k o s
  | .tymTwait k o => Sys2Proof.Machine.execTymTwait k o s
  | .twaitRelease k => Sys2Proof.Machine.execTwaitRelease k s
  | .twaitTimeout k => Sys2Proof.Machine.execTwaitTimeout k s
  | .tymSignal k o => Sys2Proof.Machine.execTymSignal k o s
  | .vqItemAttach k => Sys2Proof.Machine.execVqItemAttach k s
  | .vectorLineRequest k => Sys2Proof.Machine.execVectorLineRequest k s
  | .vectorLineArrival k => Sys2Proof.Machine.execVectorLineArrival k s
  | .runOpen k => Sys2Proof.Machine.execRunOpen k s
  | .underrun k => Sys2Proof.Machine.execUnderrun k s
  | .tswfire mask => Sys2Proof.Machine.execTswfire mask s
  | .dcfgWrite d view w => Sys2Proof.Machine.execDcfgWrite d view w s
  | .dctlArm d => Sys2Proof.Machine.execDctlArm d s
  | .dctlDisarm d => Sys2Proof.Machine.execDctlDisarm d s
  | .armreq hdr d a disarm => Sys2Proof.Machine.execArmreq hdr d a disarm s
  | .firePulseEnd d => Sys2Proof.Machine.execFirePulseEnd d s
  | .fireLineEdge d fine => Sys2Proof.Machine.execFireLineEdge d fine s
  | .holdoffEnd d => Sys2Proof.Machine.execHoldoffEnd d s
  | .schedArm d => Sys2Proof.Machine.execSchedArm d s
  | .schedDisarm d => Sys2Proof.Machine.execSchedDisarm d s
  | .rawRecordTimeout j c => Sys2Proof.Machine.execRawRecordTimeout j c s
  | .recordCommit j => Sys2Proof.Machine.execRecordCommit j s
  | .gapEnd j => Sys2Proof.Machine.execGapEnd j s
  | .rateLevelRise j => Sys2Proof.Machine.execRateLevelRise j s
  | .rateLevelFall j => Sys2Proof.Machine.execRateLevelFall j s
  | .recordTransport j => Sys2Proof.Machine.execRecordTransport j s
  | .hostRingWrite h => Sys2Proof.Machine.execHostRingWrite h s
  | .hostRingEntryWrite h f w => Sys2Proof.Machine.execHostRingEntryWrite h f w s
  | .hostRingIrq h => Sys2Proof.Machine.execHostRingIrq h s
  | .streamEnable j => Sys2Proof.Machine.execStreamEnable j s
  | .streamDisable j => Sys2Proof.Machine.execStreamDisable j s
  | .streamDeferredEnable j => Sys2Proof.Machine.execStreamDeferredEnable j s
  | .sctlSnap j => Sys2Proof.Machine.execSctlSnap j s
  | .sctlClr j => Sys2Proof.Machine.execSctlClr j s
  | .memRequestAccept n => Sys2Proof.Machine.execMemRequestAccept n s
  | .activateIssue p => Sys2Proof.Machine.execActivateIssue p s
  | .neighbourRefresh p => Sys2Proof.Machine.execNeighbourRefresh p s
  | .refresh p => Sys2Proof.Machine.execRefresh p s
  | .memRequestComplete n ecc => Sys2Proof.Machine.execMemRequestComplete n ecc s
  | .scrubRead => Sys2Proof.Machine.execScrubRead s
  | .caparError p => Sys2Proof.Machine.execCaparError p s
  | .bandChange => Sys2Proof.Machine.execBandChange s
  | .mfreqReq => Sys2Proof.Machine.execMfreqReq s
  | .mfreqCancel => Sys2Proof.Machine.execMfreqCancel s
  | .selfRefreshEntry => Sys2Proof.Machine.execSelfRefreshEntry s
  | .rateChangeComplete => Sys2Proof.Machine.execRateChangeComplete s
  | .mctlForcefrz => Sys2Proof.Machine.execMctlForcefrz s
  | .mfrzRelease => Sys2Proof.Machine.execMfrzRelease s
  | .stackReinitComplete => Sys2Proof.Machine.execStackReinitComplete s
  | .mctlSnap => Sys2Proof.Machine.execMctlSnap s
  | .mctlCntclr => Sys2Proof.Machine.execMctlCntclr s
  | .mctlEn => Sys2Proof.Machine.execMctlEn s
  | .memInitComplete => Sys2Proof.Machine.execMemInitComplete s
  | .memoryFillComplete => Sys2Proof.Machine.execMemoryFillComplete s
  | .writePattern => Sys2Proof.Machine.execWritePattern s
  | .readCompare => Sys2Proof.Machine.execReadCompare s
  | .mrw => Sys2Proof.Machine.execMrw s
  | .mtrainDone => Sys2Proof.Machine.execMtrainDone s
  | .refinMissingEdge lastEdgeAgoNs => Sys2Proof.Machine.execRefinMissingEdge lastEdgeAgoNs s
  | .refinWindowEnd count ferr => Sys2Proof.Machine.execRefinWindowEnd count ferr s
  | .frequencyReacquired phaseErrFs => Sys2Proof.Machine.execFrequencyReacquired phaseErrFs s
  | .slewComplete => Sys2Proof.Machine.execSlewComplete s
  | .firstLock => Sys2Proof.Machine.execFirstLock s
  | .freerunTimeout => Sys2Proof.Machine.execFreerunTimeout s
  | .refselWrite v => Sys2Proof.Machine.execRefselWrite v s
  | .tbctlAlign => Sys2Proof.Machine.execTbctlAlign s
  | .tbctlAligncan => Sys2Proof.Machine.execTbctlAligncan s
  | .tbctlSplice => Sys2Proof.Machine.execTbctlSplice s
  | .tsyncEdge fine => Sys2Proof.Machine.execTsyncEdge fine s
  | .coarseLoad => Sys2Proof.Machine.execCoarseLoad s
  | .epochTick => Sys2Proof.Machine.execEpochTick s
  | .portUp q credits => Sys2Proof.Machine.execPortUp q credits s
  | .portDown q => Sys2Proof.Machine.execPortDown q s
  | .linkctl q ackseq nak vc units => Sys2Proof.Machine.execLinkctl q ackseq nak vc units s
  | .rread hdr off wide => Sys2Proof.Machine.execRread hdr off wide s
  | .rwrite hdr off wide w => Sys2Proof.Machine.execRwrite hdr off wide w s
  | .rresp hdr w status => Sys2Proof.Machine.execRresp hdr w status s
  | .sched hdr at52 action arg sender48 => Sys2Proof.Machine.execSched hdr at52 action arg sender48 s
  | .schedHitchCommit => Sys2Proof.Machine.execSchedHitchCommit s
  | .signalPacket hdr mask => Sys2Proof.Machine.execSignalPacket hdr mask s
  | .irqPacket hdr => Sys2Proof.Machine.execIrqPacket hdr s
  | .streamPacket hdr seq items bytes => Sys2Proof.Machine.execStreamPacket hdr seq items bytes s
  | .strack hdr seq => Sys2Proof.Machine.execStrack hdr seq s
  | .disc hdr count provisional isEnd fromOtherHead => Sys2Proof.Machine.execDisc hdr count provisional isEnd fromOtherHead s
  | .fixup hdr n => Sys2Proof.Machine.execFixup hdr n s
  | .verify hdr n senderPos => Sys2Proof.Machine.execVerify hdr n senderPos s
  | .done hdr n mode => Sys2Proof.Machine.execDone hdr n mode s
  | .unknownPacket hdr kind => Sys2Proof.Machine.execUnknownPacket hdr kind s
  | .tunnelAccess p off wide write w => Sys2Proof.Machine.execTunnelAccess p off wide write w s
  | .tunnelTimeout => Sys2Proof.Machine.execTunnelTimeout s
  | .breakDeclare q => Sys2Proof.Machine.execBreakDeclare q s
  | .noheadTimeout => Sys2Proof.Machine.execNoheadTimeout s
  | .lctlRedisc => Sys2Proof.Machine.execLctlRedisc s
  | .lctlShitch => Sys2Proof.Machine.execLctlShitch s
  | .lctlSalign => Sys2Proof.Machine.execLctlSalign s
  | .calcmdRun => Sys2Proof.Machine.execCalcmdRun s
  | .calcmdStore => Sys2Proof.Machine.execCalcmdStore s
  | .calcmdDeskew => Sys2Proof.Machine.execCalcmdDeskew s
  | .calcmdAbort => Sys2Proof.Machine.execCalcmdAbort s
  | .deskewListenEnd k c => Sys2Proof.Machine.execDeskewListenEnd k c s
  | .deskewRelisten k c => Sys2Proof.Machine.execDeskewRelisten k c s
  | .deskewPulseEnd k c => Sys2Proof.Machine.execDeskewPulseEnd k c s
  | .dlcellPass k h => Sys2Proof.Machine.execDlcellPass k h s
  | .dlcellTrimStep k => Sys2Proof.Machine.execDlcellTrimStep k s
  | .cmppathCalComplete k c ch cl => Sys2Proof.Machine.execCmppathCalComplete k c ch cl s
  | .lvldacTrimStep k c dac err => Sys2Proof.Machine.execLvldacTrimStep k c dac err s
  | .tbpllCal gainPct code => Sys2Proof.Machine.execTbpllCal gainPct code s
  | .calTriggeredRun k => Sys2Proof.Machine.execCalTriggeredRun k s
  | .mramBlockWritten good => Sys2Proof.Machine.execMramBlockWritten good s
  | .calRecordLoad => Sys2Proof.Machine.execCalRecordLoad s
  | .mramWindowWrite off w => Sys2Proof.Machine.execMramWindowWrite off w s
  | .hitchFire mask => Sys2Proof.Machine.execHitchFire mask s
  | .hitchApply u => Sys2Proof.Machine.execHitchApply u s
  | .unlockWrite b view w => Sys2Proof.Machine.execUnlockWrite b view w s
  | .unlockExpiry b => Sys2Proof.Machine.execUnlockExpiry b s
  | .sealWrite view w => Sys2Proof.Machine.execSealWrite view w s
  | .registerWrite off w be => Sys2Proof.Machine.execRegisterWrite off w be s
  | .cfgCheck => Sys2Proof.Machine.execCfgCheck s
  | .voteRepair set copy upset => Sys2Proof.Machine.execVoteRepair set copy upset s
  | .irqSourceReport n => Sys2Proof.Machine.execIrqSourceReport n s
  | .irqRepeat => Sys2Proof.Machine.execIrqRepeat s
  | .dmaGo n => Sys2Proof.Machine.execDmaGo n s
  | .dmaAbort n => Sys2Proof.Machine.execDmaAbort n s
  | .dmaEnd n pcieError => Sys2Proof.Machine.execDmaEnd n pcieError s
  | .pcieHotReset => Sys2Proof.Machine.execPcieHotReset s
  | .d3hotToD0 => Sys2Proof.Machine.execD3hotToD0 s
  | .extest => Sys2Proof.Machine.execExtest s
  | .idcode => Sys2Proof.Machine.execIdcode s
  | .samplePreload cells => Sys2Proof.Machine.execSamplePreload cells s
  | .clamp => Sys2Proof.Machine.execClamp s
  | .highz => Sys2Proof.Machine.execHighz s
  | .extestPulse => Sys2Proof.Machine.execExtestPulse s
  | .extestTrain => Sys2Proof.Machine.execExtestTrain s
  | .bypass => Sys2Proof.Machine.execBypass s
  | .illegalOpcode k w => Sys2Proof.Machine.execIllegalOpcode k w s
  | .pinmiss k => Sys2Proof.Machine.execPinmiss k s
  | .blockLockLoss q lane => Sys2Proof.Machine.execBlockLockLoss q lane s
  | .blockLockRegain q lane => Sys2Proof.Machine.execBlockLockRegain q lane s
  | .packetCrcError q => Sys2Proof.Machine.execPacketCrcError q s
  | .pcieLinkUp speed width mps mrrs bme => Sys2Proof.Machine.execPcieLinkUp speed width mps mrrs bme s
  | .supplyLoss => Sys2Proof.Machine.execSupplyLoss s

end Sys2Proof.Machine
end

