-- ==== Sys2Proof/Machine/Tick.lean ====
section
/-! DEFINITION. One TBCLK cycle with no command waiting (R51, R136, R165). -/

namespace Sys2Proof.Machine

/-- The cycle counter of an engine in RUN or WAIT (ECYCLES); an engine that waits for a line also counts ESTALL
(R153). -/
def tickEngine (k : Nat) (s : State) : State :=
  let e := s.engState k
  if e = 2 then
    let t := s.inc (bEng k) F.Eng.ECYCLES 1
    match (s.eng k).wait with
    | .line _ => t.inc (bEng k) F.Eng.ESTALL 1
    | _ => t
  else if e = 3 then s.inc (bEng k) F.Eng.ECYCLES 1
  else s

/-- One TBCLK cycle: the ARM requests of the cycle that ends reach their master (R251), the elapsed count and the coarse
count advance by one, the engine cycle counters count, SLEW removes its share of the phase error (R295), a scheduled hitch
whose time has come raises its HITCH event, what waits for an S in the new cycle takes effect (R185), and
the threshold servos take a step (R32). What software and hardware did to one field in the cycle is settled, and the
values at the start of the next are kept (R386); a source asserted in the cycle is kept for its report (R429). Where POR_N
is asserted or the device is unpowered no cycle passes. (DESIGN CHOICE, log 2.) -/
def tick (s : State) : State :=
  match s.phase with
  | .running =>
    let t := irqWatch (replayViews (forN 32 tickEngine (forN 4 armTick s)))
    servoTick (forN 32 dueTick (hitchTick { (slewTick t) with
      cycle := s.cycle + 1, coarse := (s.coarse + 1) % coarseMod, regs0 := t.regs, staged0 := t.staged, raised := [] }))
  | _ => s

end Sys2Proof.Machine
end

