-- ==== Sys2Proof/Safety.lean ====
section
/-! DEFINITION. The terms in which claims about the machine are stated: a command that runs, the frame of an engine
instruction, and what every step keeps. -/

namespace Sys2Proof.Machine

open Host

/-- Command `c` acts on `s` and leaves a next state with property `P`. -/
def Runs (c : Instr) (s : State) (P : State → Prop) : Prop := ∃ t, exec c s = .next t ∧ P t

/-- Every byte of the stack reads as before. -/
def MemKept (s t : State) : Prop := ∀ l, t.hbm.get l = s.hbm.get l

/-- Every register but the listed offsets holds what it held. -/
def RegsKept (ws : List Nat) (s t : State) : Prop := ∀ x, x ∉ ws → t.reg x = s.reg x

/-- Every register outside the bases' 64 KiB sub-blocks `bs` holds what it held. -/
def BlocksKept (bs : List Nat) (s t : State) : Prop := ∀ x, x / 0x10000 * 0x10000 ∉ bs → t.reg x = s.reg x

/-- Every bit of the register at `x` outside the listed fields holds what it held. -/
def BitsKept (x : Nat) (fs : List Fld) (s t : State) : Prop :=
  ∀ i, (∀ f ∈ fs, i < f.lo ∨ f.hi < i) → (t.reg x).getLsbD i = (s.reg x).getLsbD i

/-! ### Engine instructions -/

/-- Offsets of gr, of lane i of lr, of ESTAT. -/
def gOff (k r : Nat) : Nat := bEng k + 0x100 + 8 * (r % 16)
def laneOffs (k r : Nat) : List Nat := (List.range 16).map (fun i => bEng k + 0x400 + 0x80 * (r % 8) + 8 * i)
def pOff (k r : Nat) : Nat := bEng k + (pFld (r % 8)).off
def estatOff (k : Nat) : Nat := bEng k + 0x28

/-- An instruction of engine k that reads `reads` is due to issue: the engine is in RUN, holds no wait, its operands are
ready, and its line is present (R151, R152, R159). -/
def TymDue (k : Nat) (o : TymOps) (reads : List Dst) (s : State) : Prop :=
  s.mayIssue k (condReads o.cond ++ reads) = true ∧ s.lineHere k (s.pc k) = true

/-- The word of TYM command `c` stands at the PC of engine k in its buffer (R150). -/
def Fetched (k : Nat) (c : Instr) (s : State) : Prop := tymEncode c = some (s.codeWord k)

/-- TYM command `c`, where it is the instruction at the PC of engine k, acts on `s` and leaves a next state with `P`. -/
def TymRuns (k : Nat) (c : Instr) (s : State) (P : State → Prop) : Prop := Fetched k c s → Runs c s P

/-- Engine k issues an instruction now, whatever it reads: it is in RUN, holds no wait, no destination is outstanding, its
line is present, and it is a member of its braid (R151, R159, R174). -/
def IssuesNow (k : Nat) (s : State) : Prop :=
  s.mayIssue k [] = true ∧ (s.eng k).busyDst = [] ∧ s.lineHere k (s.pc k) = true ∧ k ∈ s.members k

/-- It may be followed by the next instruction in order. -/
def PcRoom (k : Nat) (s : State) : Prop := s.pc k + 1 < 2 ^ 24

/-- The instruction took one cycle: PC has moved on, or within an RPT one repetition is done (R159, R163). -/
def TookOne (k : Nat) (s t : State) : Prop :=
  (t.eng k).nextAt = s.cycle + 1 ∧
  (if 2 ≤ (s.eng k).rpt.getD 1 then t.pc k = s.pc k ∧ (t.eng k).rpt = some ((s.eng k).rpt.getD 1 - 1)
   else t.pc k = s.pc k + 1 ∧ (t.eng k).rpt = none)

/-- The engine goes on at `pc`, at the earliest in cycle `at_`. -/
def GoesOn (k pc at_ : Nat) (t : State) : Prop := t.pc k = pc ∧ (t.eng k).nextAt = at_ ∧ (t.eng k).rpt = none

/-- What an engine instruction leaves alone in any case: every register but `ws` and ESTAT, every bit of ESTAT outside
`fs`, all memory and tables, every other engine, the latched events and the site table of this one, and the time. -/
structure EngineFrame (k : Nat) (ws : List Nat) (fs : List Fld) (s t : State) : Prop where
  regs : RegsKept (estatOff k :: ws) s t
  estat : BitsKept (estatOff k) fs s t
  mem : MemKept s t
  tables : t.tables = s.tables ∧ t.mram = s.mram
  engines : ∀ j, j ≠ k → t.eng j = s.eng j
  events : (t.eng k).hitchEv = (s.eng k).hitchEv ∧ (t.eng k).signalEv = (s.eng k).signalEv ∧
    (t.eng k).site = (s.eng k).site ∧ (t.eng k).recQ = (s.eng k).recQ ∧ (t.eng k).braid = (s.eng k).braid
  time : t.cycle = s.cycle ∧ t.coarse = s.coarse

/-- The parts of the device outside the engines are as they were. -/
def PartsKept (s t : State) : Prop :=
  t.chans = s.chans ∧ t.skeins = s.skeins ∧ t.slots = s.slots ∧ t.vus = s.vus ∧ t.doms = s.doms ∧ t.strms = s.strms ∧
    t.outbox = s.outbox ∧ t.staged = s.staged ∧ t.commits = s.commits

/-- Both frames. -/
def OnlyEngine (k : Nat) (ws : List Nat) (fs : List Fld) (s t : State) : Prop :=
  EngineFrame k ws fs s t ∧ PartsKept s t

/-- The stacks of engine k are as they were. -/
def StacksKept (k : Nat) (s t : State) : Prop := (t.eng k).calls = (s.eng k).calls ∧ (t.eng k).loops = (s.eng k).loops

/-- A scalar result: gd holds `r`, the flags are those of `r` with C and V given, and nothing else but PC has changed
(R167, R168). -/
def ScalarResult (k : Nat) (o : TymOps) (s t : State) (r : Word) (c v : Bool) : Prop :=
  t.g k o.dst.toNat = r ∧ t.flags k = { z := decide (r = 0#64), n := r.msb, c := c, v := v } ∧ TookOne k s t ∧
  OnlyEngine k [gOff k o.dst.toNat] [F.Eng.ESTAT.PC, F.Eng.ESTAT.FLAGS] s t ∧ StacksKept k s t

/-- A lane result: of ld exactly the lanes of `m` are written, and no flag is (R160, R171). -/
def LaneResult (k : Nat) (o : TymOps) (s t : State) (m : Nat) (f : Nat → Word) : Prop :=
  (∀ i, i < 16 → t.lane k o.dst.toNat i = if m.testBit i then f i else s.lane k o.dst.toNat i) ∧ TookOne k s t ∧
  OnlyEngine k (laneOffs k o.dst.toNat) [F.Eng.ESTAT.PC] s t ∧ StacksKept k s t

/-- A predicate result: pd holds `f` in the lanes of the selection and 0 in the others; p0 takes no write (R141, R160). -/
def PredResult (k : Nat) (o : TymOps) (s t : State) (m : Nat) (f : Nat → Bool) : Prop :=
  (o.dst ≠ 0#4 → ∀ i, i < 16 → (t.p k o.dst.toNat).testBit i = (m.testBit i && f i)) ∧
  (∀ j, j < 8 → j ≠ o.dst.toNat → t.p k j = s.p k j) ∧ TookOne k s t ∧
  OnlyEngine k (if o.dst = 0#4 then [] else [pOff k o.dst.toNat]) [F.Eng.ESTAT.PC] s t ∧ StacksKept k s t

/-- An instruction has put entry `e` at the end of the vector queue (R184): only the queue, its level and PC change. -/
structure Queued (k : Nat) (e : VQE) (s t : State) : Prop where
  queue : t.vu k = { s.vu k with vq := (s.vu k).vq ++ [e] }
  others : ∀ j, j ≠ k → t.vu j = s.vu j
  level : t.rd (bSk k) F.Sk.VSTAT.VQ_LEVEL = (s.vu k).vq.length + 1
  vstat : BitsKept (bSk k + 0x208) [F.Sk.VSTAT.VQ_LEVEL, F.Sk.VSTAT.FIFO_LEVEL] s t
  took : TookOne k s t
  frame : EngineFrame k [bSk k + 0x208] [F.Eng.ESTAT.PC] s t
  stackKept : StacksKept k s t
  parts : t.chans = s.chans ∧ t.skeins = s.skeins ∧ t.slots = s.slots ∧ t.doms = s.doms ∧ t.strms = s.strms ∧
    t.outbox = s.outbox ∧ t.staged = s.staged ∧ t.commits = s.commits

/-- A wait of engine k has ended: it is in RUN and issues next in cycle `at_`. -/
def Resumed (k at_ : Nat) (t : State) : Prop :=
  t.engState k = 2 ∧ (t.eng k).wait = .none ∧ (t.eng k).nextAt = at_

/-- Engine k has stopped with a fault (R174, R175): its code, the PC that was due and the vectors issued since START are
recorded, and no wait, run or repetition is left. -/
def Faulted (k code : Nat) (s t : State) : Prop :=
  t.engState k = 6 ∧ t.rd (bEng k) F.Eng.ESTAT.FAULT = code ∧ t.rd (bEng k) F.Eng.EFAULT.PC = s.pc k ∧
  t.rd (bEng k) F.Eng.EFAULT.VEC = s.rd (bSk k) F.Sk.VCOUNT ∧ t.rd (bSk k) F.Sk.VSTAT.RUN = 0 ∧
  (t.eng k).wait = .none ∧ (t.eng k).rpt = none ∧ ∀ r, t.g k r = s.g k r

/-- Every channel of skein k is in safe state, with nothing placed and nothing to be judged (R42, R87). -/
def SkeinSafe (k : Nat) (t : State) : Prop :=
  ∀ c, c < 16 → (t.chan (16 * k + c)).safe = true ∧ (t.chan (16 * k + c)).evs = [] ∧ (t.chan (16 * k + c)).cmps = []

/-- Engine k and the running members of its braid have stopped, k with `code`, the others with BRAID, and their channels
are in safe state; every engine that did not run keeps its state (R174, R175). -/
def BraidFaults (k code : Nat) (s t : State) : Prop :=
  (∀ j ∈ s.members k, s.engRunning j = true → (s.eng j).braid = (s.eng k).braid →
    Faulted j (if j = k then code else 6) s t ∧ SkeinSafe j t) ∧
  (∀ j, s.engRunning j = false → t.engState j = s.engState j) ∧ MemKept s t

/-! ### Counters and fields -/

/-- The commands that act while the device does not run, or in the state R448 calls undefined: the supplies, POR_N and the
test access port. -/
def Outside (c : Instr) : Prop :=
  (∃ h r l, c = .porRelease h r l) ∨ c = .porAssert ∨ c = .pwrgood ∨ c = .supplyLoss ∨ c = .extest ∨ c = .idcode ∨
    (∃ x, c = .samplePreload x) ∨ c = .clamp ∨ c = .highz ∨ c = .extestPulse ∨ c = .extestTrain ∨ c = .bypass

/-- The field went up by `n`, modulo its width. -/
def Grew (b : Nat) (f : Fld) (n : Nat) (s t : State) : Prop := t.rd b f = (s.rd b f + n) % 2 ^ (f.hi + 1 - f.lo)

/-- The field holds what it held. -/
def Held (b : Nat) (f : Fld) (s t : State) : Prop := t.rd b f = s.rd b f

/-- The live counters of a comparator (R66). -/
def fEdges (ch : Bool) : Fld := if ch then F.Ch.EDGES_CH else F.Ch.EDGES_CL
def fFine (ch : Bool) : Fld := if ch then F.Ch.FINE_CH else F.Ch.FINE_CL
def fShed (ch : Bool) : Fld := if ch then F.Ch.SHED_CH else F.Ch.SHED_CL
def fCrowded (ch : Bool) : Fld := if ch then F.Ch.CROWDED_CH else F.Ch.CROWDED_CL

/-- A packet comes in order at a port that is up (R308). -/
def InOrder (h : PktHdr) (s : State) : Prop := s.portUp h.port = true ∧ h.lseq.toNat = (s.lp h.port).rxSeq

/-- It concerns this device: its destination, or a broadcast's first copy here (R306, R310). -/
def Arrives (h : PktHdr) (s : State) : Prop :=
  InOrder h s ∧ ((h.bcast = false ∧ (h.dst : Nat) = s.pos) ∨
    (h.bcast = true ∧ (h.src : Nat) ≠ s.pos ∧ ((h.src : Nat), h.tag.toNat) ∉ s.lnk.seen))

/-- A packet of this kind and payload has left by port q or waits at it for credits (R309). -/
def Sent (q kind : Nat) (payload : List Nat) (t : State) : Prop :=
  ∃ p, p.kind = kind ∧ p.payload = payload ∧ (p ∈ (t.lp q).sendQ ∨ (p.dir = q ∧ Out.packet p p.wire ∈ t.outbox))

/-- The record with number `seq` has been acknowledged up to `n` (R314). -/
def Covered (n seq : Nat) : Prop := (n + 2 ^ 32 - seq) % 2 ^ 32 < 2 ^ 31

/-! ### Results of measurements (R109-R127) -/

/-- The used stamps of an owned list with their edge index: all, or the fine ones alone with SKIP_SHED (R101, R109). -/
def usedStamps (m : MCfg) (own : List Ev) : List (Nat × Ev) := (indexed own).filter (fun p => !(m.skip && p.2.kind == .shed))

/-- The sums of R109 over used stamps, times counted from T_first. -/
def sumsOf (first : Nat) (us : List (Nat × Ev)) : Sums :=
  let t := fun p : Nat × Ev => (delta first p.2.t).toNat
  { n := us.length, sn := (us.map (·.1)).sum, sn2 := (us.map (fun p => p.1 * p.1)).sum, st := (us.map t).sum,
    snt := (us.map (fun p => p.1 * t p)).sum, st2 := (us.map (fun p => t p * t p)).sum }

/-- The sums of a source over its owned edges, with none beyond the bounds of R113. -/
def SumsAre (m : MCfg) (own : List Ev) (a : Sums) : Prop :=
  let first := match indexed own with | [] => 0 | (_, e) :: _ => e.t
  a = sumsOf first (usedStamps m own) ∧ (usedStamps m own).length < 2 ^ 44 ∧
    ∀ p ∈ usedStamps m own, (delta first p.2.t).toNat < 2 ^ 52

/-- D and M of R111. -/
def fitD (a : Sums) : Int := (a.n : Int) * a.sn2 - (a.sn : Int) * a.sn
def fitM (a : Sums) : Int := (a.n : Int) * a.snt - (a.sn : Int) * a.st

/-- What the rules say of the result r of a gate f, from the edges of its two sources that came in time: every type but TOT
and HIST, each with a result if it has stamps or pairs enough, else NODATA (R109-R123, R125). -/
structure ResultOf (f : Fin_) (evA evB : List Ev) (r : Res) : Prop where
  span : r.o = f.o ∧ r.c = f.c ∧ r.scfg = f.scfg ∧ r.limMin = f.limMin ∧ r.limMax = f.limMax
  freq : ∀ a, f.cfg.type = 1 → SumsAre f.cfg (ownedEvs f.o f.c evA) a → r.n = (ownedEvs f.o f.c evA).length % 2 ^ 48 ∧
    r.flags.testBit 1 = decide (a.n < 2) ∧
    (2 ≤ a.n → r.res.toNat = (satU 64 (roundDiv (2 ^ 24 * 512000000000 * fitD a) (fitM a))).1)
  per : ∀ a, f.cfg.type = 3 → SumsAre f.cfg (ownedEvs f.o f.c evA) a → r.n = (ownedEvs f.o f.c evA).length % 2 ^ 48 ∧
    r.flags.testBit 1 = decide (a.n < 2) ∧ (2 ≤ a.n → r.res.toNat = (satU 64 (roundDiv (8000 * fitM a) (fitD a))).1)
  freqc : f.cfg.type = 2 → r.n = (ownedEvs f.o f.c evA).length % 2 ^ 48 ∧
    ((usedStamps f.cfg (ownedEvs f.o f.c evA)).length < 2 → r.flags.testBit 1 = true) ∧
    ∀ (i : Nat) (e : Ev) mid (n : Nat) (d : Ev), usedStamps f.cfg (ownedEvs f.o f.c evA) = (i, e) :: mid ++ [(n, d)] →
      r.flags.testBit 1 = false ∧
      r.res.toNat = (satU 64 (roundDiv (2 ^ 24 * 512000000000 * ((n : Int) - i)) (delta e.t d.t))).1
  ti : f.cfg.type = 4 ∨ f.cfg.type = 12 → ∀ p, p = finPairing f.cfg (ownedEvs f.o f.c evA) evB →
    r.flags.testBit 1 = p.pairs.isEmpty ∧ (p.pairs ≠ [] →
      r.res = BitVec.ofNat 64 (satS 64 (roundDiv (8000 * (p.pairs.map (fun q => delta q.1.t q.2.t)).sum) p.pairs.length)).1 ∧
      r.second = min (2 ^ 32 - 1) p.pairs.length)
  pairs : f.cfg.type = 4 ∨ f.cfg.type = 5 → ∀ p, p = finPairing f.cfg (ownedEvs f.o f.c evA) evB →
    (p.pairs.map (·.1)).Sublist ((ownedEvs f.o f.c evA).filter (fun e => e.kind != .crowd)) ∧
    (p.pairs.map (·.2)).Sublist evB ∧
    p.pairs.length + p.unpaired = ((ownedEvs f.o f.c evA).filter (fun e => e.kind != .crowd)).length ∧
    ∀ q ∈ p.pairs, -(f.cfg.back : Int) ≤ delta q.1.t q.2.t ∧ delta q.1.t q.2.t ≤ (f.cfg.tmo * 512 : Nat) ∧ q.2.kind ≠ .crowd
  phase : f.cfg.type = 5 → ∀ a p, SumsAre f.cfg (ownedEvs f.o f.c evA) a → p = finPairing f.cfg (ownedEvs f.o f.c evA) evB →
    let num := (p.pairs.map (fun q => delta q.1.t q.2.t)).sum * fitD a
    let den := (p.pairs.length : Int) * fitM a
    r.flags.testBit 1 = decide (p.pairs.length = 0 ∨ a.n < 2) ∧
    (p.pairs ≠ [] → 2 ≤ a.n → 0 < fitM a → ∃ n : Int, -den ≤ 2 * (num - n * den) ∧ 2 * (num - n * den) < den ∧
      r.res = BitVec.ofInt 64 (toSigned 32 (ofSigned 32 (roundDiv (2 ^ 32 * (num - n * den)) den))))
  duty : f.cfg.type = 6 → ∀ good, good = (cycles (f.cfg.tmo * 512) f.o f.c evA).filterMap cycleUsed →
    let high := (good.map (·.1)).sum
    let all := (good.map (·.2)).sum
    r.flags.testBit 1 = good.isEmpty ∧ (good ≠ [] → r.second = min (2 ^ 32 - 1) good.length ∧
      r.res.toNat = (satU 32 (roundDiv (2 ^ 32 * (if f.cfg.opt.testBit 0 then all - high else high)) all)).1)
  pw : f.cfg.type = 7 → ∀ ws, ws = (pulses (!f.cfg.opt.testBit 0) (f.cfg.tmo * 512) f.o f.c evA).filterMap
      (fun q => match q.2 with | some b => if b.kind = .crowd then none else some (delta q.1.t b.t) | none => none) →
    r.flags.testBit 1 = ws.isEmpty ∧ (ws ≠ [] → r.second = min (2 ^ 32 - 1) ws.length ∧
      r.res.toNat = (satU 64 (roundDiv (8000 * ws.sum) ws.length)).1)
  ratio : f.cfg.type = 9 → ∀ a b, SumsAre f.cfg (ownedEvs f.o f.c evA) a → SumsAre f.cfg (ownedEvs f.o f.c evB) b →
    2 ≤ a.n → 2 ≤ b.n → r.flags.testBit 1 = false ∧ r.res.toNat = (satU 64
      (if f.cfg.opt.testBit 0 then roundDiv (2 ^ 32 * ((ownedEvs f.o f.c evA).length : Int)) (ownedEvs f.o f.c evB).length
       else roundDiv (2 ^ 32 * (fitM b * fitD a)) (fitD b * fitM a))).1
  tie : f.cfg.type = 10 → ∀ es lo hi, es = tieErrs f.cfg.skip f.cfg.refper (ownedEvs f.o f.c evA) →
    r.flags.testBit 1 = decide (es.length < 2) ∧
    (2 ≤ es.length → lo ∈ es → hi ∈ es → (∀ e ∈ es, lo ≤ e ∧ e ≤ hi) →
      let n : Int := es.length
      r.res.toNat / 2 ^ 32 = (satU 32 (roundDiv (500 * (hi - lo)) 65536)).1 ∧
      r.res.toNat % 2 ^ 32 = (satU 32 (roundSqrt (250000 * (n * (es.map (fun e => e * e)).sum - es.sum * es.sum).toNat)
        (es.length * es.length * 2 ^ 32))).1)

/-- The controller has frozen in `t` (R284-R287): FROZEN and the cause; every request outstanding in `s` has been counted
and is gone; every engine that ran has stopped with FREEZE; every channel is in safe state; the snapshot's header holds
the freeze instant, `info` and the address. -/
def FrozenBy (cause info addr : Nat) (s t : State) : Prop :=
  t.rd bMem F.Mem.MSTAT.FROZEN = 1 ∧ t.rd bMem F.Mem.MSTAT.FCAUSE = cause ∧
  (∀ n, n < 77 → (t.port n).outs = [] ∧ (t.port n).frozen = ((s.port n).frozen + (s.port n).outs.length) % 2 ^ 48 ∧
    (t.port n).issued = (s.port n).issued ∧ (t.port n).completed = (s.port n).completed) ∧
  (∀ k, k < 32 → s.engRunning k = true → t.engState k = 6 ∧ t.rd (bEng k) F.Eng.ESTAT.FAULT = 7) ∧
  (∀ k, k < 32 → SkeinSafe k t) ∧
  t.tq tSnap = (stampAt s.nowFt).toNat ∧ t.tq (tSnap + 8) = cause + info ∧ t.tq (tSnap + 16) = addr

/-! ### What every step keeps -/

/-- The stores of the machine are in canonical form: keys rising, nothing listed that an unlisted key reads as (registers,
staged copies, tables, MRAM, the stack), and the coarse count stays within its 52 bits. -/
structure Inv (s : State) : Prop where
  regs : twf regReset s.regs = true
  staged : twf regReset s.staged = true
  tables : twf tableReset s.tables = true
  mram : twf (fun _ => 0#32) s.mram = true
  stack : s.hbm.wf = true
  coarse : s.coarse < coarseMod

end Sys2Proof.Machine
end

