-- ==== Sys2Proof/Certificates/Slice0/Obligations.lean ====
section
/-! DEFINITION. The statements for the provers. -/

open Sys2Proof Sys2Proof.Machine Host

/-! ### The block -/

/-- A step takes the command at the front of the queue and runs it with the queue's rest (the model's queue, log entry 1). -/
def Obligations.StepRunsFront : Prop :=
  ∀ (s : State) (c : Instr) (rest : List Instr), s.pending = c :: rest → step s = exec c { s with pending := rest }

/-! ### TYM scalar instructions (R167-R170) -/

/-- The two-operand scalar instructions complete: gd takes the result, Z and N are the result's, C and V as R168 says, and
nothing else changes; MUL and MULH take the signed product, and neither their gd nor the flags may be read before 3 cycles
after the issue; CMP writes no register (R159, R167, R168). -/
def Obligations.ScalarArithmeticCompletes : Prop :=
  ∀ (s : State) (k : Fin 32) (o : TymOps), TymDue k o (arithReads o) s → PcRoom k s → arithLegal o = true →
    s.condOk k o.cond = true →
    let a := s.g k o.srca.toNat
    let b := s.srcb k o
    let late := fun t : State => ∀ u : State, u.eng k = t.eng k → u.cycle < s.cycle + 3 →
      u.hazardFree k [.g o.dst.toNat] = false ∧ u.hazardFree k [.flags] = false
    TymRuns k (.tymAdd k o) s (fun t => ScalarResult k o s t (a + b) (decide (2 ^ 64 ≤ a.toNat + b.toNat))
      (decide (a.toInt + b.toInt ≠ (a + b).toInt))) ∧
    TymRuns k (.tymSub k o) s (fun t => ScalarResult k o s t (a - b) (decide (b.toNat ≤ a.toNat))
      (decide (a.toInt - b.toInt ≠ (a - b).toInt))) ∧
    TymRuns k (.tymAnd k o) s (fun t => ScalarResult k o s t (a &&& b) false false) ∧
    TymRuns k (.tymOr k o) s (fun t => ScalarResult k o s t (a ||| b) false false) ∧
    TymRuns k (.tymXor k o) s (fun t => ScalarResult k o s t (a ^^^ b) false false) ∧
    TymRuns k (.tymMul k o) s (fun t => ScalarResult k o s t (a * b) false
      (decide (a.toInt * b.toInt ≠ (a * b).toInt)) ∧ late t) ∧
    TymRuns k (.tymMulh k o) s (fun t => (∃ r : Word, r.toInt = a.toInt * b.toInt / 2 ^ 64 ∧ ScalarResult k o s t r false false) ∧
      late t) ∧
    (o.dst = 0#4 → TymRuns k (.tymCmp k o) s (fun t =>
      t.flags k = { z := decide (a = b), n := (a - b).msb, c := decide (b.toNat ≤ a.toNat),
                    v := decide (a.toInt - b.toInt ≠ (a - b).toInt) } ∧
      TookOne k s t ∧ OnlyEngine k [] [F.Eng.ESTAT.PC, F.Eng.ESTAT.FLAGS] s t ∧ StacksKept k s t))

/-- SHL and SHR (R169): the count is the low 6 bits of b, the arithmetic bit of IMM fills with copies of bit 63, C is the
last bit shifted out, 0 for a count of 0; a bit of IMM that must be 0 is an ILLEGAL fault. -/
def Obligations.ShiftCompletes : Prop :=
  ∀ (s : State) (k : Fin 32) (o : TymOps),
    let a := s.g k o.srca.toNat
    let n := if o.form then o.imm.toNat % 64 else (s.g k o.srcb.toNat).toNat % 64
    let allowed := if o.form then o.imm.toNat < 128 else (o.imm = 0#40 ∨ o.imm = 64#40)
    (TymDue k o (arithReads o) s → PcRoom k s → s.condOk k o.cond = true → (o.form = true → o.srcb = 0#4) → allowed →
      TymRuns k (.tymShl k o) s (fun t =>
        ScalarResult k o s t (a <<< n) (decide (n ≠ 0) && a.getLsbD (64 - n)) false) ∧
      (o.imm.getLsbD 6 = false → TymRuns k (.tymShr k o) s (fun t =>
        ScalarResult k o s t (a >>> n) (decide (n ≠ 0) && a.getLsbD (n - 1)) false)) ∧
      (o.imm.getLsbD 6 = true → TymRuns k (.tymShr k o) s (fun t =>
        ScalarResult k o s t (a.sshiftRight n) (decide (n ≠ 0) && a.getLsbD (n - 1)) false))) ∧
    (IssuesNow k s → ¬ allowed → TymRuns k (.tymShl k o) s (Faulted k 1 s) ∧ TymRuns k (.tymShr k o) s (Faulted k 1 s))

/-- MOV and MOVI complete; MOVI HI replaces gd[63:40] alone; another SRCA of MOVI, and a bit of IMM that HI does not name,
are ILLEGAL faults (R167, R170). -/
def Obligations.MoveCompletes : Prop :=
  ∀ (s : State) (k : Fin 32) (o : TymOps), PcRoom k s → o.srcb = 0#4 →
    (s.condOk k o.cond = true →
      (TymDue k o [.g o.srca.toNat] s → o.imm = 0#40 →
        TymRuns k (.tymMov k o) s (fun t => ScalarResult k o s t (s.g k o.srca.toNat) false false)) ∧
      (TymDue k o [] s → o.srca = 0#4 →
        TymRuns k (.tymMovi k o) s (fun t => ScalarResult k o s t (o.imm.signExtend 64) false false)) ∧
      (TymDue k o [.g o.dst.toNat] s → o.srca = 1#4 → o.imm.toNat < 2 ^ 24 →
        TymRuns k (.tymMovi k o) s (fun t => ScalarResult k o s t
          (o.imm.extractLsb' 0 24 ++ (s.g k o.dst.toNat).extractLsb' 0 40) false false))) ∧
    (IssuesNow k s → (2 ≤ o.srca.toNat ∨ (o.srca = 1#4 ∧ 2 ^ 24 ≤ o.imm.toNat)) →
      TymRuns k (.tymMovi k o) s (Faulted k 1 s))

/-! ### TYM lane and predicate instructions (R160, R171-R173) -/

/-- LADD, LSUB and LSEL write the selected lanes of ld, LSEL every ACTIVE lane; no flag changes (R156, R171). -/
def Obligations.LaneArithmeticCompletes : Prop :=
  ∀ (s : State) (k : Fin 32) (o : TymOps), PcRoom k s → s.laneCondOk k o.cond = true →
    let b := fun i => if o.form then o.imm.signExtend 64 else s.lane k o.srcb.toNat i
    (TymDue k o (laneReads o) s → laneLegal o = true →
      TymRuns k (.tymLadd k o) s (fun t => LaneResult k o s t (s.sel k o.cond) (fun i => s.lane k o.srca.toNat i + b i)) ∧
      TymRuns k (.tymLsub k o) s (fun t => LaneResult k o s t (s.sel k o.cond) (fun i => s.lane k o.srca.toNat i - b i))) ∧
    (TymDue k o [.l o.srca.toNat, .l o.srcb.toNat] s → lselLegal o = true →
      TymRuns k (.tymLsel k o) s (fun t => LaneResult k o s t (s.active k) (fun i =>
        if (s.sel k o.cond).testBit i then s.lane k o.srca.toNat i else s.lane k o.srcb.toNat i)))

/-- The eight modes of LMOV (R172): six write lanes of ld; modes 2 and 6 write gd, gated as a whole, and no flag; modes 8
to 15, and a bit of IMM that the mode does not name, are ILLEGAL faults. -/
def Obligations.LaneMoveCompletes : Prop :=
  ∀ (s : State) (k : Fin 32) (o : TymOps),
    let mode := o.imm.toNat % 16
    let lane := o.imm.toNat / 16 % 16
    let m := s.sel k o.cond
    let named : BitVec 40 := if mode = 2 ∨ mode = 7 then 0xff#40 else if mode = 5 then 0xffffffff0f#40 else 0xf#40
    let toG := fun r => TymRuns k (.tymLmov k o) s (fun t => t.g k o.dst.toNat = r ∧ TookOne k s t ∧
      OnlyEngine k [gOff k o.dst.toNat] [F.Eng.ESTAT.PC] s t ∧ StacksKept k s t)
    let toL := fun m f => TymRuns k (.tymLmov k o) s (fun t => LaneResult k o s t m f)
    (PcRoom k s → TymDue k o (lmovReads o) s → lmovLegal o = true →
      (s.laneCondOk k o.cond = true →
        (mode = 0 → toL m (fun i => s.lane k o.srca.toNat i)) ∧
        (mode = 1 → toL m (fun _ => s.g k o.srca.toNat)) ∧
        (mode = 3 → toL m (fun i => BitVec.ofNat 64 i)) ∧
        (mode = 4 → toL m (fun i => BitVec.ofNat 64 (((s.eng k).site[i]?).getD 0 % 512))) ∧
        (mode = 5 → toL m (fun _ => (o.imm.extractLsb' 8 32).signExtend 64)) ∧
        (mode = 7 → toL (m &&& 2 ^ lane) (fun _ => s.g k o.srca.toNat))) ∧
      (s.condOk k o.cond = true →
        (mode = 2 → toG (s.lane k o.srca.toNat lane)) ∧ (mode = 6 → toG (BitVec.ofNat 64 (s.p k o.srca.toNat))))) ∧
    (IssuesNow k s → (8 ≤ mode ∨ o.imm &&& ~~~ named ≠ 0#40) → TymRuns k (.tymLmov k o) s (Faulted k 1 s))

/-- LCMP, PSET and PAND write pd in all 16 lanes, 0 outside the selection; p0 takes no write; modes 5 to 15 of PSET and a
DST of p8 or above are ILLEGAL faults (R141, R160, R171, R173). -/
def Obligations.PredicateCompletes : Prop :=
  ∀ (s : State) (k : Fin 32) (o : TymOps),
    let m := s.sel k o.cond
    let a := fun i => s.lane k o.srca.toNat i
    let b := fun i => if o.form then (o.imm.extractLsb' 0 37).signExtend 64 else s.lane k o.srcb.toNat i
    let kind := o.imm.toNat / 2 ^ 37
    let mode := o.imm.toNat % 16
    let site := fun i => ((s.eng k).site[i]?).getD 0
    let pa := s.p k o.srca.toNat
    let pb := s.p k o.srcb.toNat
    let cmp := fun f => TymRuns k (.tymLcmp k o) s (fun t => PredResult k o s t m f)
    let set := fun f => TymRuns k (.tymPset k o) s (fun t => PredResult k o s t m f)
    let and := fun f => TymRuns k (.tymPand k o) s (fun t => PredResult k o s t m f)
    (PcRoom k s → s.laneCondOk k o.cond = true →
      (TymDue k o (laneReads o) s → lcmpLegal o = true →
        (kind = 0 → cmp (fun i => a i == b i)) ∧ (kind = 1 → cmp (fun i => a i != b i)) ∧
        (kind = 2 → cmp (fun i => (a i).slt (b i))) ∧ (kind = 3 → cmp (fun i => (b i).sle (a i))) ∧
        (kind = 4 → cmp (fun i => (a i).ult (b i))) ∧ (kind = 5 → cmp (fun i => (b i).ule (a i))) ∧
        (kind = 6 → cmp (fun i => (b i).slt (a i))) ∧ (kind = 7 → cmp (fun i => (b i).ult (a i)))) ∧
      (psetLegal o = true →
        (TymDue k o [] s →
          (mode = 0 → set (fun i => o.imm.getLsbD (16 + i))) ∧
          (mode = 1 → set (fun i => decide (site i / 2 ^ 16 % 16 = o.imm.toNat / 2 ^ 16 % 16))) ∧
          (mode = 4 → set (fun i => (s.rd (bSk k) F.Sk.FAILLAT.LATCH).testBit i))) ∧
        (TymDue k o [.g o.srca.toNat] s →
          (mode = 2 → set (fun i => decide (site i % 512 = (s.g k o.srca.toNat).toNat % 512))) ∧
          (mode = 3 → set (fun i => (s.g k o.srca.toNat).getLsbD i)))) ∧
      (TymDue k o [.p o.srca.toNat, .p o.srcb.toNat] s → pandLegal o = true →
        (o.imm = 0#40 → and (fun i => pa.testBit i && pb.testBit i)) ∧
        (o.imm = 1#40 → and (fun i => pa.testBit i || pb.testBit i)) ∧
        (o.imm = 2#40 → and (fun i => pa.testBit i && !pb.testBit i)) ∧
        (o.imm = 3#40 → and (fun i => pa.testBit i ^^ pb.testBit i)))) ∧
    (IssuesNow k s → (5 ≤ mode ∨ 8 ≤ o.dst.toNat) → TymRuns k (.tymPset k o) s (Faulted k 1 s))

/-! ### TYM control instructions (R161-R166) -/

/-- NOP, JMP, JCC, CALL and RET (R161): a taken one costs 2 cycles, a JCC that is not taken 1; X = 1 pops the innermost
loop and nothing else does; CALL pushes PC + 1, RET pops it. -/
def Obligations.JumpsComplete : Prop :=
  ∀ (s : State) (k : Fin 32) (o : TymOps), (s.eng k).rpt = none →
    let target := if o.srcb.getLsbD 3 then (s.g k o.srca.toNat).toNat % 2 ^ 24 else o.imm.toNat % 2 ^ 24
    let e := s.eng k
    let x := o.imm.getLsbD 38
    let jumped := fun (dest : Nat) (t : State) => GoesOn k dest (s.cycle + 2) t ∧ t.flags k = s.flags k ∧
      (t.eng k).calls = e.calls ∧
      (if x then (t.eng k).loops = e.loops.tail ∧ t.rd (bEng k) F.Eng.ESTAT.LOOP_DEPTH = (e.loops.length - 1) % 16
       else (t.eng k).loops = e.loops) ∧
      OnlyEngine k [] [F.Eng.ESTAT.PC, F.Eng.ESTAT.LOOP_DEPTH] s t
    (TymDue k o [] s → PcRoom k s → bareLegal o = true → s.condOk k o.cond = true →
      TymRuns k (.tymNop k o) s (fun t => TookOne k s t ∧ StacksKept k s t ∧ OnlyEngine k [] [F.Eng.ESTAT.PC] s t)) ∧
    (TymDue k o (ctlReads o) s → jmpLegal o = true → s.condOk k o.cond = true → (x = true → e.loops ≠ []) →
      TymRuns k (.tymJmp k o) s (jumped target)) ∧
    (TymDue k o [] s → jccLegal o = true →
      let p := s.p k (o.cond.toNat - 8)
      let test := o.imm.toNat / 2 ^ 36 % 4
      let taken := if o.cond.toNat < 8 then flagCond (s.flags k) o.cond.toNat = true
        else (test = 0 ∧ p ≠ 0) ∨ (test = 1 ∧ p = 0) ∨ (test = 2 ∧ p = s.active k)
      (taken → (x = true → e.loops ≠ []) → TymRuns k (.tymJcc k o) s (jumped (o.imm.toNat % 2 ^ 24))) ∧
      (¬ taken → PcRoom k s → TymRuns k (.tymJcc k o) s (fun t => TookOne k s t ∧ StacksKept k s t ∧
        OnlyEngine k [] [F.Eng.ESTAT.PC] s t))) ∧
    (TymDue k o (ctlReads o) s → callLegal o = true → s.condOk k o.cond = true → e.calls.length < 16 →
      TymRuns k (.tymCall k o) s (fun t => GoesOn k target (s.cycle + 2) t ∧ (t.eng k).calls = (s.pc k + 1) :: e.calls ∧
        t.rd (bEng k) F.Eng.ESTAT.CALL_DEPTH = e.calls.length + 1 ∧ (t.eng k).loops = e.loops ∧
        OnlyEngine k [] [F.Eng.ESTAT.PC, F.Eng.ESTAT.CALL_DEPTH] s t)) ∧
    (∀ a cs, TymDue k o [] s → bareLegal o = true → s.condOk k o.cond = true → e.calls = a :: cs → a < 2 ^ 24 →
      TymRuns k (.tymRet k o) s (fun t => GoesOn k a (s.cycle + 2) t ∧ (t.eng k).calls = cs ∧
        (t.eng k).loops = e.loops ∧ OnlyEngine k [] [F.Eng.ESTAT.PC, F.Eng.ESTAT.CALL_DEPTH] s t))

/-- LOOP, ENDL and RPT (R162, R163): LOOP pushes its start, end and count, a count of 0 jumps to end + 1; ENDL returns to
the start while the count is not used up, else pops; RPT repeats the next instruction, a count of 0 skips it. -/
def Obligations.LoopsComplete : Prop :=
  ∀ (s : State) (k : Fin 32) (o : TymOps), (s.eng k).rpt = none → s.condOk k o.cond = true →
    let e := s.eng k
    let ga := (s.g k o.srca.toNat).toNat % 2 ^ 32
    let stop := o.imm.toNat % 2 ^ 24
    let lcnt := if o.srcb.getLsbD 3 then ga else o.imm.toNat / 2 ^ 24
    let rcnt := if o.srcb.getLsbD 3 then ga else o.imm.toNat % 2 ^ 32
    let frame := fun t => OnlyEngine k [] [F.Eng.ESTAT.PC, F.Eng.ESTAT.LOOP_DEPTH] s t
    (TymDue k o (ctlReads o) s → loopLegal o = true →
      (0 < lcnt → e.loops.length < 8 → PcRoom k s →
        TymRuns k (.tymLoop k o) s (fun t => GoesOn k (s.pc k + 1) (s.cycle + 1) t ∧
          (t.eng k).loops = { start := s.pc k + 1, stop := stop, cnt := lcnt } :: e.loops ∧
          t.rd (bEng k) F.Eng.ESTAT.LOOP_DEPTH = e.loops.length + 1 ∧ (t.eng k).calls = e.calls ∧ frame t)) ∧
      (lcnt = 0 → stop + 1 < 2 ^ 24 → TymRuns k (.tymLoop k o) s (fun t => GoesOn k (stop + 1) (s.cycle + 2) t ∧
        StacksKept k s t ∧ frame t))) ∧
    (∀ l ls, TymDue k o [] s → bareLegal o = true → e.loops = l :: ls → l.stop = s.pc k →
      (1 < l.cnt → l.start < 2 ^ 24 → TymRuns k (.tymEndl k o) s (fun t => GoesOn k l.start (s.cycle + 1) t ∧
        (t.eng k).loops = { l with cnt := l.cnt - 1 } :: ls ∧ (t.eng k).calls = e.calls ∧ frame t)) ∧
      (l.cnt ≤ 1 → PcRoom k s → TymRuns k (.tymEndl k o) s (fun t => GoesOn k (s.pc k + 1) (s.cycle + 1) t ∧
        (t.eng k).loops = ls ∧ (t.eng k).calls = e.calls ∧ frame t))) ∧
    (TymDue k o (ctlReads o) s → rptLegal o = true →
      (0 < rcnt → PcRoom k s → TymRuns k (.tymRpt k o) s (fun t => t.pc k = s.pc k + 1 ∧ (t.eng k).rpt = some rcnt ∧
        (t.eng k).nextAt = s.cycle + 1 ∧ StacksKept k s t ∧ frame t)) ∧
      (rcnt = 0 → s.pc k + 2 < 2 ^ 24 → TymRuns k (.tymRpt k o) s (fun t => GoesOn k (s.pc k + 2) (s.cycle + 1) t ∧
        StacksKept k s t ∧ frame t)))

/-- HALT, WAITT, WAITE and SYNCB (R147, R161, R164-R166): the engine enters WAIT with what it waits for; a WAITT whose
time has come takes one cycle. -/
def Obligations.WaitsComplete : Prop :=
  ∀ (s : State) (k : Fin 32) (o : TymOps), (s.eng k).rpt = none → PcRoom k s → s.condOk k o.cond = true →
    let ga := (s.g k o.srca.toNat).toNat % 2 ^ 52
    let n := max (o.imm.toNat % 2 ^ 39) 1
    let frame := fun t => StacksKept k s t ∧ t.flags k = s.flags k ∧
      OnlyEngine k [] [F.Eng.ESTAT.PC, F.Eng.ESTAT.STATE] s t
    let waits := fun (w : Wait) (t : State) => t.engState k = 3 ∧ (t.eng k).wait = w ∧ (t.eng k).arrived = s.cycle ∧ frame t
    (TymDue k o [] s → bareLegal o = true → TymRuns k (.tymHalt k o) s (fun t => waits .halt t ∧ t.pc k = s.pc k)) ∧
    (TymDue k o (ctlReads o) s → waittLegal o = true → o.srcb.getLsbD 3 = false →
      (n = 1 → TymRuns k (.tymWaitt k o) s (fun t => GoesOn k (s.pc k + 1) (s.cycle + 1) t ∧ frame t)) ∧
      (1 < n → TymRuns k (.tymWaitt k o) s (fun t => waits (.waitt (s.cycle + n)) t ∧ t.pc k = s.pc k + 1))) ∧
    (TymDue k o (ctlReads o) s → waittLegal o = true → o.srcb.getLsbD 3 = true →
      ((s.coarse + 2 ^ 52 - ga) % 2 ^ 52 < 2 ^ 51 →
        TymRuns k (.tymWaitt k o) s (fun t => GoesOn k (s.pc k + 1) (s.cycle + 1) t ∧ frame t)) ∧
      (2 ^ 51 ≤ (s.coarse + 2 ^ 52 - ga) % 2 ^ 52 →
        TymRuns k (.tymWaitt k o) s (fun t => waits (.waittAt ga) t ∧ t.pc k = s.pc k + 1))) ∧
    (TymDue k o [] s → waiteLegal o = true →
      let us := o.imm.toNat / 2 ^ 16
      TymRuns k (.tymWaite k o) s (fun t => waits (.waite o.dst.toNat (o.imm.toNat % 64) s.cycle
        (if us = 0 then none else some (s.cycle + 1000 * us))) t ∧ t.pc k = s.pc k + 1)) ∧
    (TymDue k o [.g o.srca.toNat] s → syncbLegal o = true →
      TymRuns k (.tymSyncb k o) s (fun t => waits (.syncb o.dst.toNat (s.g k o.srca.toNat) (o.imm.toNat % 2 ^ 16)
        (o.imm.getLsbD 16)) t ∧ t.pc k = s.pc k + 1))

/-! ### TYM vector, measurement, stream and trigger instructions (R184, R191-R209) -/

/-- VEC, VECI, VSUB, TSET, LEVEL, FAILM, GATE, and MARK and FIRE with V, put their entry at the end of the vector queue
while it has room; a VEC of count 0 queues nothing (R184, R191-R195, R199, R202, R206). -/
def Obligations.QueueInstructionsComplete : Prop :=
  ∀ (s : State) (k : Fin 32) (o : TymOps), PcRoom k s → (s.vu k).vq.length < 16 →
    let ga := s.g k o.srca.toNat
    let gb := s.g k o.srcb.toNat
    let imm := o.imm.toNat
    let m := s.sel k o.cond
    let pa := s.p k o.srca.toNat
    let vecReads := Dst.g o.srca.toNat :: (if o.form || o.imm.getLsbD 39 then [Dst.g o.srcb.toNat] else [])
    let count := if o.form then gb.toNat % 2 ^ 32 else imm % 2 ^ 32
    let q := fun (c : Instr) (reads : List Dst) (legal gate : Bool) (e : VQE) =>
      TymDue k o reads s → legal = true → gate = true → TymRuns k c s (Queued k e s)
    (0 < count → q (.tymVec k o) vecReads (vecLegal o) (s.condOk k o.cond) (.seg (ga.toNat % 2 ^ 40) count
      (if !o.form && o.imm.getLsbD 39 then some (gb.toNat % 2 ^ 52) else none))) ∧
    (count = 0 → TymDue k o vecReads s → vecLegal o = true → s.condOk k o.cond = true →
      TymRuns k (.tymVec k o) s (fun t => TookOne k s t ∧ StacksKept k s t ∧ OnlyEngine k [] [F.Eng.ESTAT.PC] s t)) ∧
    q (.tymVeci k o) [.g o.srca.toNat] (veciLegal o) (s.condOk k o.cond) (.veci
      (Vec.mk (o.imm.getLsbD 15) (o.imm.getLsbD 14) (o.imm.getLsbD 13) (imm % 64) ga)) ∧
    ((s.vu k).items.length < 512 →
      q (.tymVsub k o) [.l o.srca.toNat] (vsubLegal o) (s.laneCondOk k o.cond)
        (.item (.vsub m ((List.range 16).map (fun i => s.lane k o.srca.toNat i)))) ∧
      q (.tymTset k o) (if o.form then [.g o.srca.toNat] else []) (tsetLegal o) (s.condOk k o.cond)
        (.item (.tset (if o.form then ga.toNat % 16 else imm % 16))) ∧
      q (.tymLevel k o) (if o.imm.getLsbD 3 then [.l o.srca.toNat] else []) (levelLegal o) (s.laneCondOk k o.cond)
        (.item (.level m ((List.range 16).map (fun i =>
          if o.imm.getLsbD 3 then (s.lane k o.srca.toNat i).toNat % 8 else imm % 8)))) ∧
      q (.tymFailm k o) [.p o.srca.toNat] (failmLegal o) (s.laneCondOk k o.cond) (.item (.failm (pa &&& m) m pa (imm % 4))) ∧
      q (.tymGate k o) [.g o.srca.toNat] (gateLegal o) (s.condOk k o.cond) (.item (.gate ga (imm % 4))) ∧
      (o.imm.getLsbD 39 = true →
        q (.tymMark k o) [.g o.srca.toNat] (markLegal o) (s.condOk k o.cond)
          (.item (.mark (imm / 2 ^ 16 % 64) (imm % 2 ^ 16) ga)) ∧
        q (.tymFire k o) [] (fireLegal o) (s.condOk k o.cond) (.item .fire)))

/-- An instruction whose entry finds the vector queue full changes nothing: it stalls, whatever its condition selects; so
does one that queues an item while 512 items are attached (R184, R210). -/
def Obligations.FullQueueStalls : Prop :=
  ∀ (s : State) (k : Fin 32) (o : TymOps), s.engState k = 2 → s.phase = .running → s.lineHere k (s.pc k) = true →
    let one := s.condOk k o.cond = true
    let lanes := s.laneCondOk k o.cond = true
    let count := if o.form then (s.g k o.srcb.toNat).toNat % 2 ^ 32 else o.imm.toNat % 2 ^ 32
    let stalls := fun c : Instr => exec c s = .next s
    (16 ≤ (s.vu k).vq.length → one → (vecLegal o = true → 0 < count → stalls (.tymVec k o)) ∧
      (veciLegal o = true → stalls (.tymVeci k o))) ∧
    (16 ≤ (s.vu k).vq.length ∨ 512 ≤ (s.vu k).items.length →
      (one → (tsetLegal o = true → stalls (.tymTset k o)) ∧ (gateLegal o = true → stalls (.tymGate k o)) ∧
        (o.imm.getLsbD 39 = true → (markLegal o = true → stalls (.tymMark k o)) ∧ (fireLegal o = true → stalls (.tymFire k o)))) ∧
      (lanes → (vsubLegal o = true → stalls (.tymVsub k o)) ∧ (levelLegal o = true → stalls (.tymLevel k o)) ∧
        (failmLegal o = true → stalls (.tymFailm k o))))

/-- MSET, MGET in both forms, and MCLR complete; MGET reads the newest publication before its cycle, and keeps the RDY of
one of its own cycle; MCLR and MAUCLR clear exactly the slots of their mask (R107, R200, R201, R204, R205). -/
def Obligations.MeasureInstructionsComplete : Prop :=
  ∀ (s : State) (k : Fin 32) (o : TymOps), PcRoom k s →
    let imm := o.imm.toNat
    let now := fun j => match (s.slot k j).prev with | some p => p.at_ == s.cycle | none => false
    let last := fun j => match (s.slot k j).prev with
      | some p => if p.at_ = s.cycle then (p.res, p.aux, p.cnt)
                  else (s.reg (bSlot k j + 0x28), s.reg (bSlot k j + 0x30), s.reg (bSlot k j + 0x38))
      | none => (s.reg (bSlot k j + 0x28), s.reg (bSlot k j + 0x30), s.reg (bSlot k j + 0x38))
    let cleared := fun (mask : Word) (t : State) => ∀ j, j < 64 →
      (mask.getLsbD j = true → (t.slot k j).rdy = false ∧ (t.slot k j).fins = [] ∧ (t.slot k j).jobs = [] ∧
        (t.slot k j).evA = [] ∧ (t.slot k j).evB = [] ∧ (t.slot k j).olds = [] ∧
        (t.slot k j).cfgErr = (s.slot k j).cfgErr) ∧
      (mask.getLsbD j = false → t.slot k j = s.slot k j)
    (let j := if o.form then (s.g k o.srcb.toNat).toNat % 64 else imm % 64
     let r := imm / 2 ^ 37
     let x := bSlot k j + 8 * r
     TymDue k o (.g o.srca.toNat :: (if o.form then [.g o.srcb.toNat] else [])) s → msetLegal o = true →
      s.condOk k o.cond = true →
      TymRuns k (.tymMset k o) s (fun t => TookOne k s t ∧ MemKept s t ∧
        (∀ y, y ≠ x → t.stg y = s.stg y) ∧ (r = 3 ∨ r = 4 → t.stg x = s.g k o.srca.toNat) ∧
        (fget (t.stg x) 15 0 = fget (s.g k o.srca.toNat) 15 0) ∧
        ((s.slot k j).opn = none → (r = 3 ∨ r = 4 → t.reg x = s.g k o.srca.toNat) ∧
          fget (t.reg x) 15 0 = fget (s.g k o.srca.toNat) 15 0) ∧
        ((s.slot k j).opn ≠ none → t.reg x = s.reg x))) ∧
    (let j := imm % 64
     let d := o.dst.toNat
     TymDue k o [] s → mgetLegal o = true → s.condOk k o.cond = true →
      TymRuns k (.tymMget k o) s (fun t => t.g k d = (last j).1 ∧ t.g k (d + 1) = (last j).2.1 ∧ t.g k (d + 2) = (last j).2.2 ∧
        (t.slot k j).rdy = ((s.slot k j).rdy && now j) ∧
        (∀ i, i < 64 → i ≠ j → t.slot k i = s.slot k i) ∧ TookOne k s t ∧ StacksKept k s t ∧
        EngineFrame k [gOff k d, gOff k (d + 1), gOff k (d + 2)] [F.Eng.ESTAT.PC] s t)) ∧
    (let base := imm % 64
     let m := s.sel k o.cond
     TymDue k o [] s → mgetLaneLegal o = true → s.laneCondOk k o.cond = true →
      TymRuns k (.tymMgetLane k o) s (fun t => ∀ i, i < 16 →
        (m.testBit i = true → t.lane k o.dst.toNat i = (last ((base + i) % 64)).1 ∧
          (t.slot k ((base + i) % 64)).rdy = ((s.slot k ((base + i) % 64)).rdy && now ((base + i) % 64))) ∧
        (m.testBit i = false → t.lane k o.dst.toNat i = s.lane k o.dst.toNat i) ∧
        (o.srcb ≠ 0#4 → (t.p k o.srcb.toNat).testBit i = (m.testBit i &&
          (let flags := fget (last ((base + i) % 64)).2.1 F.Slot.AUX.FLAGS.hi F.Slot.AUX.FLAGS.lo
           if o.imm.getLsbD 16 then flags.testBit 0 else !flags.testBit 1))) ∧ TookOne k s t ∧ MemKept s t)) ∧
    (TymDue k o [.g o.srca.toNat] s → mclrLegal o = true → s.condOk k o.cond = true →
      TymRuns k (.tymMclr k o) s (fun t => cleared (s.g k o.srca.toNat) t ∧ TookOne k s t ∧ MemKept s t)) ∧
    (∀ mask : Word, s.phase = .running → s.reachable (bSk k + F.Sk.MAUCLR.off) = true →
      Runs (.mauclr k mask) s (fun t => cleared mask t ∧ MemKept s t))

/-- MARK without V, EMIT, ARM, FIRE without V and SIGNAL complete; ARM leaves its request for the end of the cycle
(R206, R207, R209, R215-R217, R251). -/
def Obligations.StreamInstructionsComplete : Prop :=
  ∀ (s : State) (k : Fin 32) (o : TymOps), PcRoom k s →
    let ga := s.g k o.srca.toNat
    let imm := o.imm.toNat
    let now := BitVec.ofNat 64 (s.coarse * 512 % 2 ^ 61 * 8)
    (let i := imm / 2 ^ 16 % 64
     TymDue k o [.g o.srca.toNat] s → markLegal o = true → o.imm.getLsbD 39 = false → s.condOk k o.cond = true →
      s.strOn i = true →
      TymRuns k (.tymMark k o) s (fun t => TookOne k s t ∧
        (t.strm i).queue = (s.strm i).queue ++
          [markRec 0x0100 (imm % 2 ^ 16) ga (BitVec.ofNat 64 k) 0#64 now s.holdover] ∧
        (t.strm i).pend = (s.strm i).pend + 1 ∧
        t.rd (bStr i) F.Trs.GENERATED = (s.rd (bStr i) F.Trs.GENERATED + 1) % 2 ^ 48 ∧
        (∀ j, j ≠ i → t.strm j = s.strm j) ∧
        EngineFrame k [bStr i + F.Trs.GENERATED.off] [F.Eng.ESTAT.PC] s t)) ∧
    (let i := imm % 64
     let m := s.sel k o.cond
     TymDue k o [.l o.srca.toNat, .p o.srcb.toNat] s → emitLegal o = true → s.laneCondOk k o.cond = true →
      (m ≠ 0 → (s.eng k).recQ.length < 8 → s.strOn i = true →
        TymRuns k (.tymEmit k o) s (fun t => TookOne k s t ∧ PartsKept s t ∧ MemKept s t ∧ RegsKept [estatOff k] s t ∧
          (t.eng k).recQ = (s.eng k).recQ ++ [(i, siteRec s k m o.srca.toNat o.srcb.toNat)])) ∧
      (m = 0 ∨ ((s.eng k).recQ.length < 8 ∧ s.strOn i = false) → TymRuns k (.tymEmit k o) s (fun t => TookOne k s t ∧ OnlyEngine k [] [F.Eng.ESTAT.PC] s t))) ∧
    (let d := imm % 4
     TymDue k o [.g o.srca.toNat] s → armLegal o = true → s.condOk k o.cond = true →
      TymRuns k (.tymArm k o) s (fun t => TookOne k s t ∧ StacksKept k s t ∧ EngineFrame k [] [F.Eng.ESTAT.PC] s t ∧
        t.dom d = { s.dom d with reqs := (s.dom d).reqs ++ [ga.toNat % 2 ^ 52] } ∧ (∀ j, j ≠ d → t.dom j = s.dom j))) ∧
    (TymDue k o [] s → fireLegal o = true → o.imm.getLsbD 39 = false → s.condOk k o.cond = true → s.domOn 87 = true →
      TymRuns k (.tymFire k o) s (fun t => TookOne k s t ∧ MemKept s t ∧ ∀ i, i < 16 →
        let hit := s.rd (bCond i) F.Trs.TCOND.KIND = 4 ∧ (s.rd (bCond i) F.Trs.TCOND.SEL).testBit k = true
        t.rd (bCond i) F.Trs.TCHIT = if hit then (s.rd (bCond i) F.Trs.TCHIT + 1) % 2 ^ 48
          else s.rd (bCond i) F.Trs.TCHIT)) ∧
    (let pos := imm % 128
     TymDue k o [.g o.srca.toNat] s → signalLegal o = true → s.condOk k o.cond = true →
      (pos = 64 ∨ pos = 127 ∨ pos = s.pos → TymRuns k (.tymSignal k o) s (fun t => TookOne k s t ∧ MemKept s t ∧
        ∀ j, j < 32 → (t.eng j).signalEv = (ga.getLsbD j || (s.eng j).signalEv))) ∧
      (pos < 64 → pos ≠ s.pos → TymRuns k (.tymSignal k o) s (fun t => TookOne k s t ∧ MemKept s t ∧
        ∀ j, (t.eng j).signalEv = (s.eng j).signalEv)))

/-- MATCH, MWAIT and TWAIT enter WAIT (R198, R203, R208). -/
def Obligations.ResultWaitsComplete : Prop :=
  ∀ (s : State) (k : Fin 32) (o : TymOps), PcRoom k s → (s.eng k).rpt = none →
    let waits := fun (w : Wait) (t : State) => t.engState k = 3 ∧ (t.eng k).wait = w ∧ (t.eng k).arrived = s.cycle ∧
      t.pc k = s.pc k + 1 ∧ StacksKept k s t ∧ OnlyEngine k [] [F.Eng.ESTAT.PC, F.Eng.ESTAT.STATE] s t
    let imm := o.imm.toNat
    (TymDue k o [] s → matchLegal o = true → s.laneCondOk k o.cond = true →
      TymRuns k (.tymMatch k o) s (waits (.match_ o.dst.toNat (s.sel k o.cond) ((s.vu k).placed + (s.vu k).queued)))) ∧
    (TymDue k o [.g o.srca.toNat] s → mwaitLegal o = true → s.condOk k o.cond = true →
      TymRuns k (.tymMwait k o) s (waits (.mwait o.dst.toNat (s.g k o.srca.toNat) (o.imm.getLsbD 16)
        (if imm / 2 ^ 17 = 0 then none else some (s.cycle + 1000 * (imm / 2 ^ 17)))))) ∧
    (TymDue k o [] s → twaitLegal o = true → s.condOk k o.cond = true →
      TymRuns k (.tymTwait k o) s (waits (.twait o.dst.toNat (imm % 4)
        (if imm / 2 ^ 16 = 0 then none else some (s.cycle + 1000 * (imm / 2 ^ 16))) none)))

/-! ### The end of a wait (R147, R164-R166, R198, R203, R208) -/

/-- A WAITT resumes in its cycle or when the coarse count has come; a WAITE, MWAIT or TWAIT 3 cycles after its event
or its timeout, with gd and Z as the rules say, a WAITE clearing the signal bits it reports, those of before the
cycle, but for one that software sets again in the cycle; a MATCH 2 cycles after the last judgement, with the passing
lanes in pd (what it waits for: log 159; STATE until the next issue: log 150). The WAITE clauses report the events
present when the event is found and clear those alone (log 137, DEDUCED); TICK, VIDLE and VLOW are those of log 75
(DEDUCED). -/
def Obligations.WaitsEnd : Prop :=
  ∀ (s : State) (k : Fin 32), s.phase = .running → s.engState k = 3 →
    let e := s.eng k
    let gz := fun (d : Nat) (v : Word) (z : Bool) (t : State) => Resumed k (s.cycle + 3) t ∧ t.g k d = v ∧
      t.flags k = { s.flags k with z := z } ∧ MemKept s t ∧ PartsKept s t ∧
      (∀ x, x / 0x1000 * 0x1000 ≠ bEng k → t.reg x = s.reg x)
    (∀ u, e.wait = .waitt u → u ≤ s.cycle → Runs (.waittExpiry k) s (fun t => Resumed k s.cycle t ∧ MemKept s t ∧
      PartsKept s t ∧ RegsKept [estatOff k] s t)) ∧
    (∀ a, e.wait = .waittAt a → s.reached a = true → Runs (.waittExpiry k) s (fun t => Resumed k s.cycle t ∧
      MemKept s t ∧ PartsKept s t ∧ RegsKept [estatOff k] s t)) ∧
    (∀ d m issued dl, e.wait = .waite d m issued dl →
      let ev := s.events k (some issued) &&& m
      let all := s.rd (bEng k) F.Eng.EHOSTSIG.SIG
      let old := all &&& fget (tget regReset s.regs0 (bEng k + F.Eng.EHOSTSIG.SIG.off)) F.Eng.EHOSTSIG.SIG.hi
        F.Eng.EHOSTSIG.SIG.lo
      let sig := if ev.testBit 3 then (if old = 0 then all else old) else 0
      let again := match e.sigSet with
        | some (c, x) => if c = s.cycle ∧ old ≠ 0 then x else 0
        | none => 0
      (ev ≠ 0 → Runs (.waiteEvent k) s (fun t => gz d (BitVec.ofNat 64 (ev + 2 ^ 16 * sig)) false t ∧
        (∀ i, i < 16 → (t.rd (bEng k) F.Eng.EHOSTSIG.SIG).testBit i =
          (all.testBit i && !(sig.testBit i && !again.testBit i))) ∧
        (t.eng k).hitchEv = (e.hitchEv && !ev.testBit 2) ∧ (t.eng k).signalEv = (e.signalEv && !ev.testBit 4))) ∧
      (∀ u, dl = some u → u ≤ s.cycle → ev = 0 → Runs (.waiteTimeout k) s (gz d 0#64 true))) ∧
    (∀ d m any dl, e.wait = .mwait d m any dl →
      let r := fun (v : Word) => ∀ j, j < 64 → v.getLsbD j = (m.getLsbD j && (s.slot k j).rdy)
      let some_ := ∃ j, j < 64 ∧ m.getLsbD j = true ∧ (s.slot k j).rdy = true
      let all := ∀ j, j < 64 → m.getLsbD j = true → (s.slot k j).rdy = true
      (m = 0#64 ∨ (any = true ∧ some_) ∨ (any = false ∧ all) →
        Runs (.mwaitRelease k) s (fun t => ∃ v, r v ∧ gz d v (decide (m = 0#64)) t)) ∧
      (∀ u, dl = some u → u ≤ s.cycle → m ≠ 0#64 → (any = true → ¬ some_) → (any = false → ¬ all) →
        Runs (.mwaitTimeout k) s (fun t => ∃ v, r v ∧ gz d v true t))) ∧
    (∀ d n dl, (∀ w, e.wait = .twait d n dl (some w) → Runs (.twaitRelease k) s (gz d w false)) ∧
      (∀ u, e.wait = .twait d n (some u) none → u ≤ s.cycle → Runs (.twaitTimeout k) s (gz d 0#64 true))) ∧
    (∀ d m n f, e.wait = .match_ d m n → 0 < d → d < 8 → s.judgedAt k n = some f →
      Runs (.matchRelease k) s (fun t => Resumed k (max f e.arrived + 2) t ∧ MemKept s t ∧ PartsKept s t ∧
        ∀ i, i < 16 → (t.p k d).testBit i =
          (m.testBit i && (s.active k).testBit i && !(s.rd (bSk k) F.Sk.FAILLAT.LATCH).testBit i)))

/-- The barrier (R147, R166, R138): where every member of the braid has arrived at a SYNCB of one number, each resumes 4
cycles after the last arrival with the combined value in its gd; where all are at HALT, each goes to DRAIN; a mixture is a
BARRIER fault in every member. A drained engine is HALTED once its last vector has been judged. -/
def Obligations.BarriersRelease : Prop :=
  ∀ (s : State) (k : Fin 32), s.phase = .running →
    let ms := s.members k
    let e := fun j => s.eng j
    ((∀ j ∈ ms, s.engState j = 3) →
      (∀ id op, (∀ j ∈ ms, ∃ d a, (e j).wait = .syncb d a id op) → (∀ j ∈ ms, (e j).arrived + 4 ≤ s.cycle) → ms ≠ [] →
        Runs (.barrierRelease k) s (fun t => ∃ r : Word,
          (∀ i, i < 64 → r.getLsbD i = if op then ms.all (fun j => (e j).wait.syncVal.getLsbD i)
            else ms.any (fun j => (e j).wait.syncVal.getLsbD i)) ∧
          (∀ j ∈ ms, ∀ d a, (e j).wait = .syncb d a id op → t.g j d = r ∧ t.engState j = 2 ∧ (t.eng j).wait = .none ∧
            t.flags j = { s.flags j with z := decide (r = 0#64), n := r.msb } ∧
            (∀ i ∈ ms, (e i).arrived + 4 ≤ (t.eng j).nextAt) ∧ ∃ i ∈ ms, (t.eng j).nextAt = (e i).arrived + 4) ∧
          MemKept s t)) ∧
      ((∀ j ∈ ms, (e j).wait = .halt ∧ (e j).arrived + 4 ≤ s.cycle ∧ (s.vu j).vq = [] ∧ (s.vu j).items = []) → ms ≠ [] →
        Runs (.barrierRelease k) s (fun t => (∀ j ∈ ms, t.engState j = 4 ∧ (t.eng j).wait = .none ∧
          (t.eng j).draining = true) ∧ MemKept s t)) ∧
      (∀ j0 ∈ ms, ∀ j1 ∈ ms, (∀ j ∈ ms, (e j).wait.barrierId ≠ none) → (e j0).wait.barrierId ≠ (e j1).wait.barrierId →
        Runs (.barrierRelease k) s (fun t => (∀ j ∈ ms, Faulted j 5 s t ∧ SkeinSafe j t) ∧ MemKept s t))) ∧
    (s.engState k = 4 → s.vectorsGone k = true → s.rd (bSk k) F.Sk.VSTAT.RUN = 0 → (s.vu k).vq = [] → (s.vu k).items = [] →
      (∀ x, (s.vu k).lastE = some x → x + 24 * 512 ≤ s.cycle * 512 ∧ ∀ c, c < 16 → (s.chan (16 * (k : Nat) + c)).cmps = []) →
      Runs (.drainComplete k) s (fun t => t.engState k = 5 ∧ t.chans = s.chans ∧ MemKept s t ∧
        RegsKept [estatOff k, bSk k + 0x208] s t))

/-! ### What every TYM instruction shares (R156, R157, R161-R163, R174, R175) -/

/-- An instruction other than JCC whose flag condition fails takes one cycle and has no effect (R156). -/
def Obligations.FailedConditionSkips : Prop :=
  ∀ (s : State) (i : Instr) (k : Fin 32) (op : BitVec 8) (o : TymOps), tymParts i = some (k, op, o) → op ≠ 0x02#8 →
    s.mayIssue k [] = true → (s.eng k).busyDst = [] → (s.eng k).rpt = none → s.lineHere k (s.pc k) = true → PcRoom k s →
    tymLegal i = true → o.cond.toNat < 8 → flagCond (s.flags k) o.cond.toNat = false →
    TymRuns k i s (fun t => TookOne k s t ∧ StacksKept k s t ∧ OnlyEngine k [] [F.Eng.ESTAT.PC] s t)

/-- A TYM instruction with a bit that its row marks unused, a register index that is not allowed, or a control
instruction under RPT, is an ILLEGAL fault when it is due: it has no effect of its own, every other running member of the
braid stops with BRAID, and their channels are in safe state (R157, R163, R174, R175). -/
def Obligations.IllegalFieldsFault : Prop :=
  ∀ (s : State) (i : Instr) (k : Fin 32) (op : BitVec 8) (o : TymOps), tymParts i = some (k, op, o) →
    s.mayIssue k [] = true → (s.eng k).busyDst = [] → s.lineHere k (s.pc k) = true → (k : Nat) ∈ s.members k →
    (tymLegal i = false ∨ (op.toNat < 0x0c ∧ (s.eng k).rpt ≠ none)) →
    TymRuns k i s (BraidFaults k 1 s)

/-- A 17th CALL, a RET on an empty stack, a 9th LOOP, an ENDL without its loop and a jump that pops no loop are STACK
faults; a PC that would pass 2^24 - 1, by the next instruction, a skip or a return, is an ILLEGAL fault (R161, R162,
R175). -/
def Obligations.StackFaults : Prop :=
  ∀ (s : State) (k : Fin 32) (o : TymOps), (s.eng k).rpt = none → (k : Nat) ∈ s.members k → (s.eng k).busyDst = [] →
    s.mayIssue k [] = true → s.lineHere k (s.pc k) = true →
    let f := fun (c : Instr) => TymRuns k c s (BraidFaults k 2 s)
    let ill := fun (c : Instr) => TymRuns k c s (BraidFaults k 1 s)
    let cnt := if o.srcb.getLsbD 3 then (s.g k o.srca.toNat).toNat % 2 ^ 32 else o.imm.toNat / 2 ^ 24
    (s.condOk k o.cond = true →
      (∀ a cs, bareLegal o = true → (s.eng k).calls = a :: cs → 2 ^ 24 ≤ a → ill (.tymRet k o)) ∧
      (loopLegal o = true → cnt = 0 → o.imm.toNat % 2 ^ 24 + 1 = 2 ^ 24 → ill (.tymLoop k o)) ∧
      (s.pc k + 1 = 2 ^ 24 →
        (bareLegal o = true → ill (.tymNop k o)) ∧ (movLegal o = true → ill (.tymMov k o)) ∧
        (waiteLegal o = true → ill (.tymWaite k o)) ∧ (syncbLegal o = true → ill (.tymSyncb k o)) ∧
        (waittLegal o = true → ill (.tymWaitt k o)) ∧ (rptLegal o = true → ill (.tymRpt k o)) ∧
        (mwaitLegal o = true → ill (.tymMwait k o))) ∧
      (callLegal o = true → 16 ≤ (s.eng k).calls.length → f (.tymCall k o)) ∧
      (bareLegal o = true → (s.eng k).calls = [] → f (.tymRet k o)) ∧
      (loopLegal o = true → 8 ≤ (s.eng k).loops.length → 0 < cnt → f (.tymLoop k o)) ∧
      (bareLegal o = true → (∀ l ls, (s.eng k).loops = l :: ls → l.stop ≠ s.pc k) → f (.tymEndl k o)) ∧
      (jmpLegal o = true → o.imm.getLsbD 38 = true → (s.eng k).loops = [] → f (.tymJmp k o))) ∧
    (jccLegal o = true → o.imm.getLsbD 38 = true → (s.eng k).loops = [] → o.cond = 0#4 → f (.tymJcc k o))

/-! ### The engine's commands (R137, R146, R151, R152, R165, R174-R177, R189) -/

/-- A START of IDLE engines, one alone or the leader's of a braid, begins their run in cache mode and a load in PIN
mode: PC, flags, stacks, the vector count and the fail latch as R137, R146, R193 and R196 say, g unchanged. A timed
start begins at its count, a PIN load's end begins a run that waits for it, ENGRESET leads back to IDLE, and a line's
arrival ends the stall on it (R151, R152, R153, R176). That a START to an engine outside its own mask counts as none
of a leader, and that the loop's sums begin anew, are the model's (log 149, log 148). -/
def Obligations.EngineStartsAndFetches : Prop :=
  ∀ (s : State) (k : Fin 32), s.phase = .running →
    (let mask := s.rd (bEng k) F.Eng.EBRAID
     let ms := if mask = 0 then [(k : Nat)] else (List.range 32).filter (fun j => mask.testBit j)
     let started := fun (j : Nat) (t : State) => t.pc j = s.rd (bEng j) F.Eng.ECFG.START_PC ∧
        t.flags j = { z := false, n := false, c := false, v := false } ∧ (t.eng j).calls = [] ∧ (t.eng j).loops = [] ∧
        (t.eng j).hitchEv = false ∧ (t.eng j).signalEv = false ∧ (t.eng j).code = [] ∧ t.rd (bSk j) F.Sk.VCOUNT = 0 ∧
        t.rd (bSk j) F.Sk.FAILLAT.LATCH = 0 ∧ t.rd (bSk j) F.Sk.FAILLAT.MASK = 0xffff ∧
        t.rd (bEng j) F.Eng.ESTAT.LEADER = (if mask ≠ 0 ∧ mask ≠ 2 ^ (k : Nat) ∧ j = (k : Nat) then 1 else 0) ∧
        (∀ r, t.g j r = s.g j r) ∧ (∀ r i, t.lane j r i = s.lane j r i)
     s.frozen = false → ms.head? = some (k : Nat) → s.reachable (bEng k) = true →
      (∀ j ∈ ms, s.engState j = 0 ∧ s.rd (bEng j) F.Eng.EBRAID = mask ∧
        s.rd (bEng j) F.Eng.ECFG.HGRP = s.rd (bEng k) F.Eng.ECFG.HGRP) →
      ((∀ j ∈ ms, s.rd (bEng j) F.Eng.ECFG.PIN = 0) → Runs (.ectlStart k false) s (fun t => MemKept s t ∧
        ∀ j ∈ ms, started j t ∧ t.engState j = 2 ∧ (t.eng j).nextAt = s.cycle ∧ (t.eng j).loading = false)) ∧
      ((∃ j ∈ ms, s.rd (bEng j) F.Eng.ECFG.PIN = 1) → Runs (.ectlStart k false) s (fun t => MemKept s t ∧
        ∀ j ∈ ms, started j t ∧ t.engState j = 1 ∧ t.rd (bEng j) F.Eng.ESTAT.PINNED = 0 ∧
          (s.rd (bEng j) F.Eng.ECFG.PIN = 1 → (t.eng j).loading = true ∧
            (t.eng j).pinBase = s.rd (bEng j) F.Eng.ECFG.PIN_BASE / 16 * 16 ∧
            ∃ r ∈ (t.port (fetchPort j)).wait, r.why = .pinLoad j ∧ r.len = 65536 ∧ r.write = none ∧
              r.addr = (s.rd (bEng j) F.Eng.ECODE.BASE * 128 + 8 * (s.rd (bEng j) F.Eng.ECFG.PIN_BASE / 16 * 16)) % 2 ^ 34)))) ∧
    (s.engState k = 1 → (s.eng k).braid = 0 → (s.eng k).loading = false →
      ∀ l, (s.eng k).timed = some l → s.reached (s.rd (bEng l) F.Eng.ESTART_AT) = true →
      Runs (.timedStart k) s (fun t => t.engState k = 2 ∧ (t.eng k).timed = none ∧ (t.eng k).nextAt = s.cycle ∧
        MemKept s t ∧ RegsKept [estatOff k] s t)) ∧
    (s.engState k = 1 → (s.eng k).braid = 0 → (s.eng k).loading = true → (s.eng k).timed = none →
      s.portHas (fetchPort k) (.pinLoad k) = false →
      Runs (.pinLoadComplete k) s (fun t => t.engState k = 2 ∧ t.rd (bEng k) F.Eng.ESTAT.PINNED = 1 ∧
        (t.eng k).loading = false ∧ (t.eng k).code = (s.eng k).code ∧ MemKept s t ∧ RegsKept [estatOff k] s t)) ∧
    ((s.engState k = 5 ∨ s.engState k = 6) → s.frozen = false → s.reachable (bEng k) = true →
      Runs (.ectlEngreset k) s (fun t => t.engState k = 0 ∧ t.rd (bEng k) F.Eng.ESTAT.FAULT = 0 ∧
        (t.eng k).calls = [] ∧ (t.eng k).loops = [] ∧ t.rd (bEng k) F.Eng.ESTAT.CALL_DEPTH = 0 ∧
        t.rd (bEng k) F.Eng.ESTAT.LOOP_DEPTH = 0 ∧ MemKept s t ∧ RegsKept [estatOff k] s t)) ∧
    (∀ pc ls, (s.eng k).wait = .line pc → (s.eng k).wanted = pc / 16 :: ls →
      s.portHas (fetchPort k) (.fetchLine k (pc / 16)) = false →
      Runs (.cacheLineFill k) s (fun t => t.lineHere k pc = true ∧ (t.eng k).wait = .none ∧
        (t.eng k).nextAt = s.cycle + 1 ∧
        (∀ i, i < 16 → tget (fun _ => 0#64) (t.eng k).code (pc / 16 * 16 + i) =
          tget (fun _ => 0#64) (s.eng k).code (pc / 16 * 16 + i)) ∧ MemKept s t ∧ RegsKept [] s t))

/-- ABORT, a PC outside the pinned program, an unassigned opcode and an empty vector FIFO at a boundary stop the engine
with ABORT, PINMISS, ILLEGAL and UNDERRUN; the braid stops with it and its channels are in safe state (R151, R157, R174,
R175, R176, R189). -/
def Obligations.EngineFaultEvents : Prop :=
  ∀ (s : State) (k : Fin 32), s.phase = .running → (k : Nat) ∈ s.members k →
    let f := fun (code : Nat) (c : Instr) => Runs c s (BraidFaults k code s)
    (s.engRunning k = true → s.reachable (bEng k) = true → f 8 (.ectlAbort k)) ∧
    (s.engState k = 2 → (s.eng k).wait = .none → (s.eng k).nextAt ≤ s.cycle → s.pinMiss k = true → f 3 (.pinmiss k)) ∧
    (∀ w, s.mayIssue k [] = true → s.lineHere k (s.pc k) = true → s.codeWord k = w → tymDecode k w = none → f 1 (.illegalOpcode k w)) ∧
    (∀ x, s.engRunning k = true → s.vectorDue k = some x → (s.vu k).fifo = [] → f 4 (.underrun k))

/-- The host writes g, l and p of an engine that does not run; while it runs the write is dropped and WDROP sets. EHOSTSIG
is written bit by bit (R141, R165, R177, R366). -/
def Obligations.HostEngineWritesComplete : Prop :=
  ∀ (s : State) (k : Fin 32), s.phase = .running →
    (∀ (off : BitVec 12) (w : Word), s.reachable (bEng k + off.toNat / 8 * 8) = true →
      (s.engRunning k = false →
        (∀ r, r < 16 → off.toNat / 8 * 8 = 0x100 + 8 * r → Runs (.engineRegWrite k off w) s (fun t => t.g k r = w ∧
          RegsKept [gOff k r] s t ∧ MemKept s t)) ∧
        (∀ r i, r < 8 → i < 16 → off.toNat / 8 * 8 = 0x400 + 0x80 * r + 8 * i → Runs (.engineRegWrite k off w) s
          (fun t => t.lane k r i = w ∧ RegsKept [bEng k + 0x400 + 0x80 * r + 8 * i] s t ∧ MemKept s t)) ∧
        (∀ j, 0 < j → j < 8 → off.toNat / 8 * 8 = 0x180 + 8 * (j / 4) → Runs (.engineRegWrite k off w) s
          (fun t => (∀ i, i < 16 → (t.p k j).testBit i = (w.getLsbD (16 * (j % 4) + i) && (s.active k).testBit i)) ∧
            t.p k 0 = s.p k 0 ∧ RegsKept [pOff k j] s t ∧ MemKept s t))) ∧
      (s.engRunning k = true → engFile (off.toNat / 8 * 8) ≠ 0 → Runs (.engineRegWrite k off w) s (fun t =>
        t.rd (bEng k) F.Eng.ESTAT.WDROP = 1 ∧ RegsKept [estatOff k] s t ∧
        BitsKept (estatOff k) [F.Eng.ESTAT.WDROP] s t ∧ MemKept s t))) ∧
    (∀ (v : View) (m : BitVec 16), s.reachable (bEng k + F.Eng.EHOSTSIG.SIG.off) = true →
      Runs (.ehostsigWrite k v m) s (fun t => RegsKept [bEng k + F.Eng.EHOSTSIG.SIG.off] s t ∧ MemKept s t ∧
        ∀ i, i < 16 → (t.rd (bEng k) F.Eng.EHOSTSIG.SIG).testBit i =
          (let old := (s.rd (bEng k) F.Eng.EHOSTSIG.SIG).testBit i
           match v with
           | .normal => old || m.getLsbD i
           | .set => old || m.getLsbD i
           | .clear => old && !m.getLsbD i
           | .toggle => old ^^ m.getLsbD i)))

/-! ### The vector unit (R178-R189) -/

/-- A queue entry moves to the FIFO, a line of the segment at the head is requested and its vectors take their places, a
line that has arrived makes its vectors present, marked bad where it fails its check; an item takes effect with the vector
behind it, on free lanes alone: VSUB, TSET, FAILM and FIRE as it issues, LEVEL, GATE and MARK at its S, where LEVEL loads the
level set and MARK brings its record (R179, R181, R184, R185, R186, R193-R195, R199, R206). -/
def Obligations.VectorQueueMoves : Prop :=
  ∀ (s : State) (k : Fin 32), s.phase = .running →
    let v := s.vu k
    let kept := fun t : State => MemKept s t ∧ RegsKept [bSk k + 0x208] s t ∧ t.engs = s.engs ∧ t.chans = s.chans
    (∀ it q, v.vq = .item it :: q → v.items.length < 512 →
      Runs (.vqItemAttach k) s (fun t => t.vu k = { v with vq := q, items := v.items ++ [(v.placed, it)] } ∧ kept t)) ∧
    (∀ w q, v.vq = .veci w :: q → v.fifo.length < 4096 →
      Runs (.vqItemAttach k) s (fun t => (t.vu k).vq = q ∧ (t.vu k).placed = v.placed + 1 ∧
        (t.vu k).fifo.map (·.vec) = v.fifo.map (·.vec) ++ [some w] ∧ kept t)) ∧
    (∀ a n at_ q, v.vq = .seg a n at_ :: q → 0 < n → a < 2 ^ 40 → v.fifo.length + 12 ≤ 4096 →
      let m := min n (min (12 - a % 12) (2 ^ 40 - a))
      Runs (.vectorLineRequest k) s (fun t =>
        (t.vu k).vq = (if n ≤ m then q else .seg ((a + m) % 2 ^ 40) (n - m) at_ :: q) ∧
        (t.vu k).placed = v.placed + m ∧
        (t.vu k).fifo = v.fifo ++ (List.range m).map (fun i => FEnt.mk (some v.reqNo) (a % 12 + i) none false at_) ∧
        (∃ r, (t.port k).wait = (s.port k).wait ++ [r] ∧ r.len = 128 ∧ r.write = none ∧
          r.addr = (s.rd (bSk k) F.Sk.VCFG.VBASE + a / 12) * 128 % 2 ^ 34) ∧ kept t)) ∧
    (∀ req no bytes ls, v.lines = { req := req, lineNo := no, data := some bytes } :: ls →
      Runs (.vectorLineArrival k) s (fun t => (t.vu k).lines = ls.filter (fun l => l.req != req) ∧
        (t.vu k).fifo.length = v.fifo.length ∧
        (∀ (i : Nat) (e : FEnt), v.fifo[i]? = some e → ∃ e' : FEnt, (t.vu k).fifo[i]? = some e' ∧
          (if e.line = some req then e'.line = none ∧ e'.bad = !lineGood no bytes ∧ e'.vec = some (lineVec bytes e.pos)
           else e' = e)) ∧ kept t)) ∧
    (∀ x e w rest it, s.members k = [(k : Nat)] → s.stoppedNow k = false → s.vectorDue k = some x → v.fifo = e :: rest →
      e.vec = some w → e.bad = false → v.items = [(v.headNo, it)] →
      let free := fun i : Nat => !(s.parkMask k).testBit i
      let code := fun i : Nat => w.state.toNat / 2 ^ (4 * i) % 16
      let ch := fun i : Nat => 16 * (k : Nat) + i
      let issues := fun P : State → Prop => Runs (.vectorIssue k) s (fun t => (t.vu k).items = [] ∧ (t.vu k).fifo = rest ∧
        MemKept s t ∧ P t)
      let waits := fun a : SAct => issues (fun t => (x, a) ∈ (t.vu k).atS)
      (∀ m ls, it = .vsub m ls → issues (fun t => ∀ i, i < 16 → code i ≠ 9 →
        (t.chan (ch i)).sub = (if m.testBit i && free i then (ls[i]?).getD 0#64 else (s.chan (ch i)).sub) ∧
        (t.chan (ch i)).subPtr = (if m.testBit i && free i then 0 else (s.chan (ch i)).subPtr))) ∧
      (∀ i, it = .tset i → issues (fun t => (t.vu k).perIdx = i ∧ (t.vu k).lastE = some (x + s.period k i))) ∧
      (∀ clr sel pa mode, it = .failm clr sel pa mode → issues (fun t => ∀ i, i < 16 →
        let clears := (mode = 0 ∨ mode = 2) ∧ clr.testBit i = true ∧ free i = true
        let masks := (mode = 1 ∨ mode = 2) ∧ sel.testBit i = true ∧ free i = true
        (clears → (t.rd (bSk k) F.Sk.FAILLAT.LATCH).testBit i = false ∧ t.rd (bSk k + 8 * i) F.Sk.FIRSTFAIL.VALID = 0) ∧
        (¬ clears → (t.rd (bSk k) F.Sk.FAILLAT.LATCH).testBit i = (s.rd (bSk k) F.Sk.FAILLAT.LATCH).testBit i) ∧
        (t.rd (bSk k) F.Sk.FAILLAT.MASK).testBit i =
          (if masks then pa.testBit i else (s.rd (bSk k) F.Sk.FAILLAT.MASK).testBit i))) ∧
      (it = .fire → s.domOn 87 = true → issues (fun t => ∀ i, i < 16 →
        let hit := s.rd (bCond i) F.Trs.TCOND.KIND = 4 ∧ (s.rd (bCond i) F.Trs.TCOND.SEL).testBit k = true
        t.rd (bCond i) F.Trs.TCHIT = if hit then (s.rd (bCond i) F.Trs.TCHIT + 1) % 2 ^ 48
          else s.rd (bCond i) F.Trs.TCHIT)) ∧
      (∀ m sets, it = .level m sets → issues (fun t => ∃ m', (x, .level m' sets) ∈ (t.vu k).atS ∧
        ∀ i, i < 16 → m'.testBit i = (m.testBit i && free i))) ∧
      (∀ m op, it = .gate m op → waits (.gate m op)) ∧ (∀ i c p, it = .mark i c p → waits (.mark i c p))) ∧
    (∀ x m sets, v.atS = [(x, .level m sets)] → x / 512 ≤ s.cycle →
      ((dueTick k s).vu k).atS = [] ∧ MemKept s (dueTick k s) ∧ ∀ i n, i < 16 →
        let g := 16 * (k : Nat) + i
        (m.testBit i = false → (dueTick k s).chan g = s.chan g) ∧
        (m.testBit i = true → (s.chan g).safe = true → (dueTick k s).chan g = s.chan g) ∧
        (m.testBit i = true → (s.chan g).safe = false → sets[i]? = some n → n < 8 →
          ((dueTick k s).chan g).dac = s.levelSet g n ∧ (dueTick k s).rd (bCh g) F.Ch.PESTAT.LVL_ACTIVE = n ∧
          (s.unitSnap (uLevels g) = none →
            ((dueTick k s).chan g).settleEnd = x + s.rd (bCh g) F.Ch.PECFG.SETTLE * 8 * 512))) ∧
    (∀ x i c p, v.atS = [(x, .mark i c p)] → x / 512 = s.cycle → i < 64 → s.strOn i = true →
      ((dueTick k s).vu k).atS = [] ∧ ∃ hold, ((dueTick k s).strm i).queue = (s.strm i).queue ++
        [markRec 0x0100 c p (BitVec.ofNat 64 k) 0#64 (stampAt (s.toLocal x)) hold])

/-- A run opens 48 cycles ahead in every member of its braid; at each boundary every member issues a vector: VCOUNT
advances, the next S is one period of the leader on, the leader's EOR ends the run. On a free channel the vector
places the drive events of its state code and format, at E0 and E1 clamped to 4,096 ft behind the period, with the
skew correction of the level driven; state 9 takes the next lane bits; a compare code, or state 7 behind one, expects
the judgement of the enabled windows (R76-R79, R82, R84, R88, R92, R187, R188, R193). -/
def Obligations.RunsIssueVectors : Prop :=
  ∀ (s : State) (k : Fin 32), s.phase = .running → s.stoppedNow k = false →
    let ms := s.members k
    let lead := s.leader k
    ((∀ j ∈ ms, s.runReady j ((s.cycle + 48) * 512) = true) →
      Runs (.runOpen k) s (fun t => MemKept s t ∧ ∀ j ∈ ms, t.rd (bSk j) F.Sk.VSTAT.RUN = 1 ∧
        (t.vu j).nextS = some ((s.cycle + 48) * 512) ∧ t.rd (bSk j) F.Sk.VORIGIN = s.toLocal ((s.cycle + 48) * 512) ∧
        t.rd (bEng j) F.Eng.ACTIVE = s.activeNow j % 2 ^ 16)) ∧
    (∀ x (w : Nat → Vec) (rest : Nat → List FEnt), s.vectorDue k = some x → lead ∈ ms →
      (∀ j ∈ ms, j < 32 ∧ (∃ e, (s.vu j).fifo = e :: rest j ∧ e.vec = some (w j) ∧ e.bad = false) ∧ (s.vu j).items = []) →
      let p := s.period lead (s.vu lead).perIdx
      Runs (.vectorIssue k) s (fun t => MemKept s t ∧ ∀ j ∈ ms,
        Grew (bSk j) F.Sk.VCOUNT 1 s t ∧ (t.vu j).fifo = rest j ∧ (t.vu j).lastE = some (x + p) ∧
        ((w lead).eor = true → t.rd (bSk j) F.Sk.VSTAT.RUN = 0 ∧ (t.vu j).nextS = none) ∧
        ((w lead).eor = false → (∃ i ∈ ms, (s.eng i).draining = false) →
          Held (bSk j) F.Sk.VSTAT.RUN s t ∧ (t.vu j).nextS = some (x + p)) ∧
        (∀ c : Nat, c < 16 →
          let g := 16 * j + c
          let h := s.chan g
          let ts := s.timingSet g (w j).tsi
          let read := (w j).state.toNat / 2 ^ (4 * c) % 16
          let code := if 10 ≤ read then 2 else read
          let two := ts.fmt = 4
          let bit := fun i : Nat => decide (i < 64) && h.sub.getLsbD i
          let b0 := bit h.subPtr
          let b1 := bit (h.subPtr + 1)
          let lv := fun b : Bool => if b then Drive.vih else Drive.vil
          let ev0 : Option Drive := if code = 0 then some .vil else if code = 1 then some .vih
            else if code = 9 then some (lv b0) else if code = 8 then some .vterm else if code = 7 then none else some .hiZ
          let ev1 : Option Drive :=
            if ts.fmt = 1 ∧ (code = 1 ∨ code = 9) then some .vil
            else if ts.fmt = 2 ∧ (code = 0 ∨ code = 9) then some .vih
            else if ts.fmt = 3 ∧ code = 0 then some .vih else if ts.fmt = 3 ∧ code = 1 then some .vil
            else if ts.fmt = 3 ∧ code = 9 then some (lv !b0) else if two ∧ code = 9 then some (lv b1) else none
          let placed := fun (e : DriveEv) (one : Bool) (pos : Nat) (l : Drive) =>
            e.intended = x + min pos (p + 4096) ∧ e.s = x ∧ e.isE1 = one ∧ e.level = l ∧ e.pulse = false ∧
            e.at_ = (((x + min pos (p + 4096) : Nat) : Int) + (if l = .vih then s.rdInt (bCh g) F.Ch.DSKEW.DSK_R
              else if l = .vil then s.rdInt (bCh g) F.Ch.DSKEW.DSK_F else 0)).toNat
          let test := if code = 7 then h.lastState else code
          let win := fun (en : Bool) (o c : Nat) => if en then some (Win.mk (x + min o (p + 4096))
            (max (x + min o (p + 4096)) (x + min c (p + 4096))) none) else none
          (s.parkMask j).testBit c = false → h.safe = false → h.evs = [] →
            (∀ d, ev0 = some d → ∃ e ∈ (t.chan g).evs, placed e false ts.e0 d) ∧
            (∀ d, ev1 = some d → ∃ e ∈ (t.chan g).evs, placed e true ts.e1 d) ∧
            (t.chan g).evs.length = (if ev0.isSome then 1 else 0) + (if ev1.isSome then 1 else 0) ∧
            (t.chan g).subPtr = (if code = 9 then min 64 (h.subPtr + (if two then 2 else 1)) else h.subPtr) ∧
            (t.chan g).lastState = test ∧
            (3 ≤ test ∧ test ≤ 5 → ∃ m : Cmp, (t.chan g).cmps = h.cmps ++ [m] ∧
              m.vec = s.rd (bSk j) F.Sk.VCOUNT ∧ m.s = x ∧ m.final = x + p + 24 * 512 ∧ m.state = test ∧
              m.w0 = win ts.w0en ts.w0o ts.w0c ∧ m.w1 = win ts.w1en ts.w1o ts.w1c ∧ m.cleared = false ∧
              m.latchable = (!(w j).nolatch && (s.rd (bSk j) F.Sk.FAILLAT.MASK).testBit c)) ∧
            (test < 3 ∨ 5 < test → (t.chan g).cmps = h.cmps))))

/-- The earliest drive event whose cycle has come sets its level; a compare vector whose judgement is final passes or
fails by its windows, both where two are enabled: a fail under the settle mask counts as masked alone, another counts
once, latches where it may and records the first; an expected echo whose window has passed with nothing that could
match it counts a miss (R24, R85, R88, R91, R197; the echo's slope and a drive event before the release: log 157, log
158). -/
def Obligations.PlacementEventsComplete : Prop :=
  ∀ (s : State) (k : Fin 32) (c : Fin 16), s.phase = .running →
    let g := 16 * (k : Nat) + c
    let h := s.chan g
    (∀ e rest, h.evs = e :: rest → e.at_ < s.cycle * 512 + 512 → (∀ e', rest.head? = some e' → e'.at_ ≠ e.at_) →
      Runs (.driveEvent k c) s (fun t => (t.chan g).drive = e.level ∧ (t.chan g).evs = rest ∧
        (t.chan g).lastEv = some e.at_ ∧ (∀ j, j ≠ g → t.chan j = s.chan j) ∧ MemKept s t ∧
        RegsKept [bCh g + F.Ch.ECHO_MISS.off] s t)) ∧
    (∀ (m : Cmp) rest (o0 o1 : WinObs), h.cmps = m :: rest → m.final ≤ s.cycle * 512 →
      let bad := fun (w : Option Win) (o : WinObs) => w ≠ none ∧
        ((m.state = 3 ∧ (o.cl = true ∨ o.clChanged = true)) ∨ (m.state = 4 ∧ (o.ch = false ∨ o.chChanged = true)) ∨
          (m.state = 5 ∧ (o.cl = false ∨ o.ch = true ∨ o.clChanged = true ∨ o.chChanged = true)))
      ∀ mk0 mk1 : Bool, (∀ w, m.w0 = some w → s.winFate g w = (mk0, true)) → (∀ w, m.w1 = some w → s.winFate g w = (mk1, true)) →
      let fails := (bad m.w0 o0 ∧ mk0 = false) ∨ (bad m.w1 o1 ∧ mk1 = false)
      let hides := (if bad m.w0 o0 ∧ mk0 = true then 1 else 0) + (if bad m.w1 o1 ∧ mk1 = true then 1 else 0)
      let b := bSk k + 8 * (c : Nat)
      Runs (.compareJudgement k c o0 o1) s (fun t => (t.chan g).cmps = rest ∧ MemKept s t ∧
        Grew (bCh g) F.Ch.SETTLE_MASKED hides s t ∧
        (¬ fails → RegsKept [bCh g + F.Ch.SETTLE_MASKED.off] s t) ∧
        (fails → Grew b F.Sk.FAILCNT 1 s t ∧
          (m.latchable = true → m.cleared = false → (t.rd (bSk k) F.Sk.FAILLAT.LATCH).testBit c = true ∧
            t.rd b F.Sk.FIRSTFAIL.VALID = 1 ∧
            (s.rd b F.Sk.FIRSTFAIL.VALID = 0 → t.rd b F.Sk.FIRSTFAIL.VEC = m.vec % 2 ^ 40) ∧
            (s.rd b F.Sk.FIRSTFAIL.VALID = 1 → Held b F.Sk.FIRSTFAIL.VEC s t)) ∧
          (m.latchable = false ∨ m.cleared = true → Held (bSk k) F.Sk.FAILLAT.LATCH s t ∧
            Held b F.Sk.FIRSTFAIL.VEC s t)))) ∧
    (∀ e rest, h.echoes = e :: rest → e.got = false → e.code = none → e.cand = none → s.rd (bCh g) F.Ch.PECFG.CH_EN = 1 → 128 < delta e.x s.nowFt →
      s.outstandingCmp g e.ch (shiftFt e.x 129) = false →
      Runs (.echoMiss k c) s (fun t => Grew (bCh g) F.Ch.ECHO_MISS 1 s t ∧ (t.chan g).echoes = rest ∧ MemKept s t ∧
        RegsKept [bCh g + F.Ch.ECHO_MISS.off] s t))

/-! ### The pin front end (R24, R38-R44) -/

/-- The settle timer's end, the parametric unit's request, the queue of its converter and its result, and leaving and
reaching safe state (R24, R38, R39, R41-R44, R453-R455); a SAFE_RELEASE in a freeze is dropped (log 123, DESIGN CHOICE), the
averages are those of START (log 126, DESIGN CHOICE). -/
def Obligations.PinEventsComplete : Prop :=
  ∀ (s : State) (k : Fin 32) (c : Fin 16), s.phase = .running →
    let g := 16 * (k : Nat) + c
    let m := g / 64
    let stat := bCh g + 0x10
    (s.rd (bCh g) F.Ch.PESTAT.SETTLING = 1 → (s.chan g).settleEnd ≤ s.cycle * 512 →
      Runs (.settleTimerExpiry k c) s (fun t => t.rd (bCh g) F.Ch.PESTAT.SETTLING = 0 ∧ RegsKept [stat] s t ∧
        BitsKept stat [F.Ch.PESTAT.SETTLING] s t ∧ MemKept s t ∧ t.chans = s.chans)) ∧
    (s.reachable (bCh g) = true → s.rd (bCh g) F.Ch.PESTAT.PMU_BUSY = 0 →
      (s.domOn (88 + m) = true →
        let n := min 8 (s.rd (bCh g) F.Ch.PMUCTL.AVG_LOG2)
        let q := fun u : State => tget (fun _ => ([] : List (Nat × Nat × Nat))) u.adcQ m
        Runs (.pmuStart k c) s (fun t => t.rd (bCh g) F.Ch.PESTAT.PMU_BUSY = 1 ∧ RegsKept [stat] s t ∧
          BitsKept stat [F.Ch.PESTAT.PMU_BUSY] s t ∧ MemKept s t ∧
          (q s = [] → q t = [(g, n, s.cycle + 2000 * 2 ^ n)]) ∧
          (∀ a, (q s).getLast? = some a → q t = q s ++ [(g, n, max s.cycle a.2.2 + 2000 * 2 ^ n)]))) ∧
      (s.domOn (88 + m) = false →
        Runs (.pmuStart k c) s (fun t => t.rd (bCh g) F.Ch.PMURES.OFFDOMAIN = 1 ∧ Grew (bCh g) F.Ch.PMURES.SEQ 1 s t ∧
          Held (bCh g) F.Ch.PMURES.RESULT s t ∧ RegsKept [bCh g + 0x30] s t ∧ MemKept s t))) ∧
    (∀ (a : Fin 8) n e rest (codes : List Int) clamped ovr,
      (∀ x ∈ codes, if s.rd (bCh g) F.Ch.PMUCTL.MODE = 1 then -131072 ≤ x ∧ x ≤ 131071 else 0 ≤ x ∧ x ≤ 262143) →
      (ovr = true ↔ ∃ x ∈ codes, if s.rd (bCh g) F.Ch.PMUCTL.MODE = 1 then x = -131072 ∨ x = 131071
        else x = 0 ∨ x = 262143) →
      tget (fun _ => ([] : List (Nat × Nat × Nat))) s.adcQ a = (g, n, e) :: rest → e ≤ s.cycle →
      codes.length = 2 ^ n → -2 ^ 31 ≤ codes.foldl (· + ·) (0 : Int) → codes.foldl (· + ·) (0 : Int) < 2 ^ 31 →
      Runs (.pmuConversionComplete a codes clamped ovr) s (fun t =>
        t.rdInt (bCh g) F.Ch.PMURES.RESULT = codes.foldl (· + ·) 0 ∧ Grew (bCh g) F.Ch.PMURES.SEQ 1 s t ∧
        t.rd (bCh g) F.Ch.PMURES.CLAMPED = (if clamped then 1 else 0) ∧
        t.rd (bCh g) F.Ch.PMURES.OVERRANGE = (if ovr then 1 else 0) ∧ t.rd (bCh g) F.Ch.PESTAT.PMU_BUSY = 0 ∧
        tget (fun _ => ([] : List (Nat × Nat × Nat))) t.adcQ a = rest ∧ RegsKept [stat, bCh g + 0x30] s t ∧
        MemKept s t)) ∧
    (s.reachable (bCh g) = true → s.engRunning k = false → s.frozen = false → (s.chan g).safe = true →
      Runs (.safeRelease k c) s (fun t => (t.chan g).safe = false ∧
        t.rd (bCh g) F.Ch.PESTAT.SAFE = (if s.domOn k then 0 else 1) ∧ RegsKept [stat] s t ∧
        BitsKept stat [F.Ch.PESTAT.SAFE] s t ∧ MemKept s t)) ∧
    (s.reachable (bCh g) = true → (s.engRunning k = true ∨ s.frozen = true) →
      Runs (.safeRelease k c) s (fun t => t.chans = s.chans ∧ RegsKept [] s t)) ∧
    ((s.chan g).safeBy ≠ none →
      Runs (.safeConditionReached k c) s (fun t => t.rd (bCh g) F.Ch.PESTAT.SAFE = 1 ∧ (t.chan g).safeBy = none ∧
        RegsKept [stat] s t ∧ BitsKept stat [F.Ch.PESTAT.SAFE] s t ∧ MemKept s t))

/-! ### Time capture (R52-R69) -/

/-- An edge of a powered channel changes its comparator output; selected by slope on a channel enabled at its
instant, with no edge behind it in the pool's order of service, it is crowded inside 198 ps of the last stamped edge,
else granted the lowest-numbered free unit, one withdrawn in the same tap included, else shed, and crowded and shed
edges count at once, no edge anywhere else (R26, R28, R46, R59, R60, R63, R64, R66, R67; the order of the commands:
log 62). -/
def Obligations.EdgesAreAccounted : Prop :=
  ∀ (s : State) (k : Fin 32) (c : Fin 16) (comp : Comp) (rising : Bool) (fs : Nat), s.phase = .running →
    s.domOn k = true → s.domOn (32 + k) = true → fs < 1000000 →
    let g := 16 * (k : Nat) + c
    let ch := comp == .ch
    let now := s.cycle * 1000000 + fs
    let last := if ch then (s.chan g).lastCh else (s.chan g).lastCl
    let taken := s.enabledAt g (s.cycle * 512 + fs * 512 / 1000000) = true ∧ s.slopeSel g ch rising = true
    let tap := fs * 512 / 1000000 / 16
    let a := s.cycle * 32 + tap
    let inOrder := ∀ u ∈ (s.skein k).units, ∀ y, u.busy = some y → y.serveKey ≤ 64 * a + 2 * (c : Nat) + (if ch then 0 else 1)
    let noted := [bCal + F.Cal.CDEFER.off, bCal + 8 * g + F.Cal.CCHQ.DSKST.off]
    let pool := [bSk k + F.Sk.POOLSTAT.PEAK.off, bSk k + F.Sk.UNIT_CAL.off, bSk k + F.Sk.UNIT_FAIL.off,
      bSk k + F.Sk.TCSTAT.NOROT.off]
    let out := fun t : State => (if ch then (t.chan g).outCh = rising ∧ (t.chan g).outCl = (s.chan g).outCl
      else (t.chan g).outCl = rising ∧ (t.chan g).outCh = (s.chan g).outCh) ∧ MemKept s t
    let free := fun u : VUnit => (u.st = .inService ∧ u.busy = none ∧ u.freeAt ≤ a ∧ u.backAt ≤ a) ∨ u.outAt = some a
    let clear := ∀ l, last = some l → l + 202000 ≤ now
    (if ch then (s.chan g).outCh = !rising else (s.chan g).outCl = !rising) → (∀ l, last = some l → l ≤ now) →
    (¬ taken → Runs (.edge k c comp rising fs) s (fun t => out t ∧ RegsKept noted s t ∧ t.skeins = s.skeins)) ∧
    (taken → (∃ l, last = some l ∧ now < l + 198000) → Runs (.edge k c comp rising fs) s (fun t => out t ∧
      Grew (bCh g) (fEdges ch) 1 s t ∧ Grew (bCh g) (fCrowded ch) 1 s t ∧ Held (bCh g) (fFine ch) s t ∧
      Held (bCh g) (fShed ch) s t ∧ Held (bCh g) (fEdges !ch) s t)) ∧
    (taken → inOrder → clear → (∃ u ∈ (s.skein k).units, free u) → Runs (.edge k c comp rising fs) s (fun t => out t ∧
      RegsKept (noted ++ pool) s t ∧ (t.skein k).bus = (s.skein k).bus ∧
      ∃ (i : Nat) (u : VUnit) (x : Stamp), (s.skein k).units[i]? = some u ∧ free u ∧
        (∀ j v, j < i → (s.skein k).units[j]? = some v → ¬ free v) ∧
        (t.skein k).units[i]? = some { u with st := .inService, outAt := none, busy := some x, notices := [], tap := a } ∧
        x.g = g ∧ x.ch = ch ∧ x.rising = rising ∧ x.shed = false ∧ x.tap = a ∧ x.t = s.coarse * 512 + 16 * tap)) ∧
    (taken → inOrder → clear → (∀ u ∈ (s.skein k).units, ¬ free u) → Runs (.edge k c comp rising fs) s (fun t => out t ∧
      Grew (bCh g) (fEdges ch) 1 s t ∧ Grew (bCh g) (fShed ch) 1 s t ∧ Held (bCh g) (fFine ch) s t ∧
      Held (bCh g) (fCrowded ch) s t ∧
      ∃ x : Stamp, (t.skein k).bus = (s.skein k).bus ++ [.stamp x] ∧ x.g = g ∧ x.ch = ch ∧ x.rising = rising ∧
        x.shed = true ∧ x.t = s.coarse * 512 + 16 * tap + 8))

/-- A conversion that ends makes a fine stamp by the unit's table, which is assembled and counted where no earlier
edge of its comparator still converts; its unit is free 65 + 16q taps after its edge; a delivered stamp leaves the
bus and enters every live TIMED slot of its skein whose source A takes it; EDGES = FINE + SHED + CROWDED of every
comparator is kept by an edge, a conversion, a delivery, a snapshot and a clear (R8, R55-R57, R66-R69). -/
def Obligations.StampsAreDelivered : Prop :=
  ∀ (s : State) (k : Fin 32), s.phase = .running →
    (∀ (u : Fin 52) (q : Fin 16) (v : VUnit) (x : Stamp), (s.skein k).units[(u : Nat)]? = some v → v.busy = some x →
      v.notices = [] → (s.skein k).asm = [] →
      let y := x.t + (v.table[(q : Nat)]?).getD 0
      (∀ (i : Nat) (w : VUnit) (z : Stamp), i ≠ u → (s.skein k).units[i]? = some w → w.busy = some z →
        z.g = x.g → z.ch = x.ch → x.tap ≤ z.tap) →
      Runs (.vernierConversionComplete k u q) s (fun t => (t.skein k).bus = (s.skein k).bus ++ [.stamp { x with t := y }] ∧
        (∃ v', (t.skein k).units[(u : Nat)]? = some v' ∧ v'.busy = none ∧ v'.freeAt = v.tap + 65 + 16 * q) ∧
        Grew (bCh x.g) (fEdges x.ch) 1 s t ∧ Grew (bCh x.g) (fFine x.ch) 1 s t ∧ Held (bCh x.g) (fShed x.ch) s t ∧
        Held (bCh x.g) (fCrowded x.ch) s t ∧ MemKept s t)) ∧
    (∀ (u : Fin 52) (v : VUnit), (s.skein k).units[(u : Nat)]? = some v → v.busy = none → v.freeAt ≤ s.cycle * 32 →
      Runs (.vernierUnitRelease k u) s (fun t =>
        (t.skein k).units[(u : Nat)]? = some { v with freeAt := 0 } ∧ RegsKept [] s t ∧ MemKept s t)) ∧
    (∀ (x : Stamp) rest, (s.skein k).bus = .stamp x :: rest → x.g / 16 < 32 → x.ep = s.loads → s.domOn (32 + x.g / 16) = true →
      let e := Ev.mk x.t (if x.shed then .shed else .fine) x.rising false
      Runs (.stampDelivery k) s (fun t => (t.skein k).bus = rest ∧ MemKept s t ∧ ∀ j, j < 64 →
        s.slotLive (x.g / 16) j = true → (s.mcfg (x.g / 16) j).gmode = 0 →
        srcTakes (s.mcfg (x.g / 16) j).srcA x.g x.ch x.rising = true → srcSlope (s.mcfg (x.g / 16) j).srcA ≠ 0 →
        (t.slot (x.g / 16) j).evA = insEvt e (s.slot (x.g / 16) j).evA)) ∧
    (let adds := fun (g : Nat) (ch : Bool) (u : State) =>
      u.rd (bCh g) (fEdges ch) = (u.rd (bCh g) (fFine ch) + u.rd (bCh g) (fShed ch) + u.rd (bCh g) (fCrowded ch)) % 2 ^ 48
     ∀ c : Instr, ((∃ i comp rising fs, c = .edge k i comp rising fs) ∨ (∃ u q, c = .vernierConversionComplete k u q) ∨
        (c = .stampDelivery k ∧ ∀ x ∈ (s.skein k).bus.head?, match x with | .stamp y => y.g < 512 | .notice y => y.g < 512) ∨
        (∃ b, c = .cntSnap k b) ∨ c = .cntClr k) →
      (∀ u ∈ (s.skein k).units, ∀ x, u.busy = some x → x.g < 512) → (∀ p ∈ (s.skein k).asm, p.1.g < 512) →
      Runs c s (fun t => ∀ g ch, g < 512 → adds g ch s → adds g ch t))

/-- CNT_SNAP copies every counter of the skein in one cycle, CNT_CLR clears them, and both in one write snap first (R68,
R69); the lock loop reports its phase error's mean, and locks and unlocks after 16 updates (R53). -/
def Obligations.CountersAndLockComplete : Prop :=
  ∀ (s : State) (k : Fin 32), s.phase = .running →
    let b := fun c : Nat => bCh (16 * (k : Nat) + c)
    let snap := fun f : Fld => Fld.mk (f.off + 0x40) f.hi f.lo
    (s.reachable (bSk k) = true →
      (∀ both : Bool, Runs (.cntSnap k both) s (fun t => (∀ c, c < 16 → ∀ f ∈ liveCounters,
        t.rd (b c) (snap f) = s.rd (b c) f ∧ t.rd (b c) f = if both then 0 else s.rd (b c) f) ∧
        Grew (bSk k) F.Sk.TCSTAT.SNAP_SEQ 1 s t ∧ MemKept s t)) ∧
      Runs (.cntClr k) s (fun t => (∀ c, c < 16 → ∀ f ∈ liveCounters,
        t.rd (b c) f = 0 ∧ t.rd (b c) (snap f) = s.rd (b c) (snap f)) ∧ t.rd (bSk k) F.Sk.UNLOCKED_EDGES = 0 ∧
        t.rd (bSk k) F.Sk.TCSTAT.ACCT_VOID = 0 ∧ Held (bSk k) F.Sk.TCSTAT.SNAP_SEQ s t ∧ MemKept s t)) ∧
    (∀ (err : Int) (ctrl : BitVec 16), s.domOn (32 + k) = true → (s.skein k).dllNext ≤ s.cycle →
      let errs := (err :: (s.skein k).dllErrs).take 1024
      Runs (.dllUpdate k err ctrl) s (fun t => t.rd (bSk k) F.Sk.DLLRES.CTRL = ctrl.toNat ∧ MemKept s t ∧
        t.rdInt (bSk k) F.Sk.DLLRES.RESID = max (-32768) (min 32767 (roundDiv (errs.foldl (· + ·) 0) errs.length)) ∧
        (s.dllLock k = false → err.natAbs ≤ 2000 → 15 ≤ (s.skein k).dllGood → t.dllLock k = true ∧
          Held (bSk k) F.Sk.TCSTAT.DLL_ERR s t) ∧
        (s.dllLock k = true → 4000 < err.natAbs → 15 ≤ (s.skein k).dllBad → t.dllLock k = false ∧
          t.rd (bSk k) F.Sk.TCSTAT.DLL_ERR = 1) ∧
        (s.dllLock k = true → err.natAbs ≤ 4000 → t.dllLock k = true) ∧
        (s.dllLock k = false → 2000 < err.natAbs → t.dllLock k = false)))

/-- Counter commands and the loop, measure and stream instructions complete on every operand they accept: an instruction
takes its one cycle, a loop instruction leaves the engine at the next instruction with its stack or repetition
(R53, R68, R69, R162, R163, R200-R209). -/
def Obligations.CountersLoopsAndStreamsComplete : Prop :=
  ∀ (s : State) (k : Fin 32) (o : TymOps), s.phase = .running →
    let e := s.eng k
    let go := fun (c : Instr) (legal : Bool) (reads : List Dst) (P : State → Prop) =>
      TymDue k o reads s → legal = true → s.condOk k o.cond = true → PcRoom k s → TymRuns k c s P
    let gb := if o.form then [Dst.g o.srcb.toNat] else []
    let one := TookOne k s
    go (.tymMset k o) (msetLegal o) (.g o.srca.toNat :: gb) one ∧
    go (.tymMget k o) (mgetLegal o) [] one ∧
    go (.tymMclr k o) (mclrLegal o) [.g o.srca.toNat] one ∧
    go (.tymArm k o) (armLegal o) [.g o.srca.toNat] one ∧
    go (.tymSignal k o) (signalLegal o) [.g o.srca.toNat] one ∧
    (o.imm.getLsbD 39 = false → go (.tymMark k o) (markLegal o) [.g o.srca.toNat] one ∧
      go (.tymFire k o) (fireLegal o) [] one) ∧
    (TymDue k o [] s → mgetLaneLegal o = true → s.laneCondOk k o.cond = true → PcRoom k s →
      TymRuns k (.tymMgetLane k o) s one) ∧
    (TymDue k o [.l o.srca.toNat, .p o.srcb.toNat] s → emitLegal o = true → s.laneCondOk k o.cond = true → PcRoom k s →
      e.recQ.length < 8 → TymRuns k (.tymEmit k o) s one) ∧
    (let ga := (s.g k o.srca.toNat).toNat % 2 ^ 32
     let lcnt := if o.srcb.getLsbD 3 then ga else o.imm.toNat / 2 ^ 24
     let rcnt := if o.srcb.getLsbD 3 then ga else o.imm.toNat % 2 ^ 32
     let on := fun (p : State → Prop) (t : State) => t.pc k = s.pc k + 1 ∧ p t
     e.rpt = none →
      (0 < lcnt → e.loops.length < 8 → go (.tymLoop k o) (loopLegal o) (ctlReads o) (on (fun t =>
        (t.eng k).loops.length = e.loops.length + 1))) ∧
      (∀ l ls, e.loops = l :: ls → l.stop = s.pc k → l.cnt ≤ 1 → go (.tymEndl k o) (bareLegal o) [] (on (fun t =>
        (t.eng k).loops = ls))) ∧
      (0 < rcnt → go (.tymRpt k o) (rptLegal o) (ctlReads o) (on (fun t => (t.eng k).rpt = some rcnt)))) ∧
    (s.reachable (bSk k) = true →
      (∀ both, Runs (.cntSnap k both) s (Grew (bSk k) F.Sk.TCSTAT.SNAP_SEQ 1 s)) ∧
      Runs (.cntClr k) s (fun t => t.rd (bSk k) F.Sk.TCSTAT.ACCT_VOID = 0)) ∧
    (∀ mask : Word, s.reachable (bSk k + F.Sk.MAUCLR.off) = true → Runs (.mauclr k mask) s (fun t =>
      ∀ j, j < 64 → mask.getLsbD j = true → (t.slot k j).rdy = false ∧ (t.slot k j).fins = [])) ∧
    (∀ (err : Int) (ctrl : BitVec 16), s.domOn (32 + k) = true → (s.skein k).dllNext ≤ s.cycle →
      Runs (.dllUpdate k err ctrl) s (fun t => t.rd (bSk k) F.Sk.DLLRES.CTRL = ctrl.toNat))

/-! ### Measurement (R102-R108, R124-R134) -/

/-- TIMED gates open at their boundary and close LEN us later, ARMED gates close LEN ns after they open, and a
deferred close falls at its instant: the closed gate joins the ones that are finishing. A PROGRAM gate opens, closes
or cycles at the S of the vector that its GATE item waits for, an item that finds nothing to do sets GATEIGN, and a
close within 1,000 ns of the one before is deferred; a COUNT slot that is cleared opens at once and closes 1 ft after
its LEN-th edge once that is final, the next gate opening there (R102-R107, R202; the edges a COUNT gate counts: log
65; the chain of deferred gates: log 60; that what is not due changes nothing: log 3). -/
def Obligations.GatesComplete : Prop :=
  ∀ (s : State) (k : Fin 32) (j : Fin 64), s.phase = .running →
    let x := s.slot k j
    let m := s.mcfg k j
    let spaced := fun c : Nat => ∀ l, x.lastC = some l → 512000 ≤ delta l c
    let ends := fun (o c : Nat) (t : State) =>
      (t.slot k j).fins.map (fun f => (f.o, f.c)) = x.fins.map (fun f => (f.o, f.c)) ++ [(o, c)] ∧
      (t.slot k j).lastC = some c ∧ MemKept s t
    (s.slotLive k j = true → m.gmode = 0 → x.opn = none → x.spent = false → s.coarse % (1000 * m.len) = 0 →
      Runs (.timedGateBoundary k j) s (fun t => (t.slot k j).opn = some (s.coarse * 512) ∧
        t.rd (bSlot k j) F.Slot.CNT.GSTATE = 2 ∧ RegsKept [bSlot k j + 0x38] s t ∧ MemKept s t)) ∧
    (∀ o, s.slotLive k j = true → m.gmode = 0 → x.opn = some o → x.deferC = none →
      let c := (o + m.len * 512000) % 2 ^ 61
      0 ≤ delta c s.nowFt → spaced c → Runs (.timedGateBoundary k j) s (fun t => ends o c t ∧
        (s.commits = [] → m.rearm = false → (t.slot k j).opn = none ∧ (t.slot k j).spent = true))) ∧
    (∀ o, s.slotLive k j = true → m.gmode = 2 → x.opn = some o →
      let c := (o + m.len * 512) % 2 ^ 61
      0 ≤ delta c s.nowFt → x.deferC = none → spaced c → Runs (.armedGateClose k j) s (fun t => ends o c t ∧
        (s.commits = [] → (m.rearm = false → (t.slot k j).opn = none) ∧
          (m.rearm = true → x.spent = false →
            (t.slot k j).opn = firstArm x.arms m s.loads c ∧ ((t.slot k j).opn = none → (t.slot k j).armReady = true))))) ∧
    (∀ o c, x.opn = some o → x.deferC = some c → 0 ≤ delta c s.nowFt →
      Runs (.deferredClose k j) s (fun t => ends o c t)) ∧
    (∀ e mask op, (s.vu k).atS = [(e, .gate mask op)] → e / 512 < s.cycle → mask.getLsbD j = true → s.slotLive k j = true →
      m.gmode = 1 → x.deferC = none → x.chain = 0 → x.reopen = false → s.commits = [] →
      let at_ := s.toLocal e
      let t := dueTick k s
      let ignored := t.slot k j = x ∧ t.rd (bSk k) F.Sk.VSTAT.GATEIGN = 1
      let opens := (t.slot k j).opn = some at_ ∧ (t.slot k j).rdy = false ∧ t.rd (bSlot k j) F.Slot.CNT.GSTATE = 2
      (x.opn = none → (op = 0 ∨ 2 ≤ op → opens) ∧ (op = 1 → ignored)) ∧
      (∀ o, x.opn = some o → (op = 0 → ignored) ∧
        (spaced at_ → (op = 1 → ends o at_ t ∧ (t.slot k j).opn = none) ∧ (2 ≤ op → ends o at_ t ∧ opens)) ∧
        (∀ l, x.lastC = some l → delta l at_ < 512000 → op = 1 → (t.slot k j).opn = some o ∧ (t.slot k j).str = true ∧
          (t.slot k j).deferC = some ((l + 512000) % 2 ^ 61)))) ∧
    (s.reachable (bSk k + F.Sk.MAUCLR.off) = true → s.slotLive k j = true → m.gmode = 3 →
      ∀ mask : Word, mask.getLsbD j = true → Runs (.mauclr k mask) s (fun t =>
        (t.slot k j).opn = some s.nowFt ∧ (t.slot k j).fins = [] ∧ t.rd (bSlot k j) F.Slot.CNT.GSTATE = 2)) ∧
    (∀ (i : Fin 32) y rest o l, (s.skein i).bus = .stamp y :: rest → y.g / 16 = i → (i : Nat) = k ∨ (i : Nat) + 1 = k ∨ (k : Nat) + 1 = i →
      y.ep = s.loads → s.domOn (32 + k) = true → s.slotLive k j = true → m.gmode = 3 → srcSlope m.srcA ≠ 0 →
      srcTakes m.srcA y.g y.ch y.rising = true → x.opn = some o → x.deferC = none → s.commits = [] →
      (s.slots.map (·.1)).Nodup → (∀ f ∈ x.fins, f.epj = false) →
      let e := Ev.mk y.t (if y.shed then .shed else .fine) y.rising false
      let owned := (insEvt e x.evA).filter (fun d => !d.late && decide (0 ≤ delta o d.t))
      let u := s.updSkein i (fun z => { z with bus := rest })
      let c := (l + 1) % 2 ^ 61
      s.armsSlot k j y.g y.ch s.loads e = false → (owned[m.len - 1]?).map (·.t) = some l → u.edgeFinal m.srcA s.loads l = true →
      spaced c → Runs (.stampDelivery i) s (fun t => ends o c t ∧
        (t.slot k j).opn = (if m.rearm ∧ x.spent = false then some c else none)))

/-- A finished gate hands its job to the divide unit once its wait window and every pairing are over, with the result
of its measurement type; the unit takes the lowest waiting slot every 14 ns and completes 168 ns later; publication
writes RES, AUX and CNT of the slot's oldest job, advances SEQ and sets RDY, but a slot in a configuration error
publishes none; a TOT gate publishes the number of its edges, a HIST gate adds its values to the bins and to the two
counts outside them (R99, R107-R131, R134; how long a start waits for its stop, and RES without data: log 155, log
156). -/
def Obligations.ResultsComplete : Prop :=
  ∀ (s : State) (k : Fin 32) (j : Fin 64), s.phase = .running →
    let x := s.slot k j
    let b := bSlot k j
    let idle := (s.skein k).divQ.contains (j : Nat) = false ∧ (x.lastJob = 0 ∨ x.lastJob + 1000 ≤ s.cycle)
    let used := fun l : List Ev => l.filter (fun e => !e.late)
    (∀ f rest, x.fins = f :: rest → f.cfg.type ≠ 8 → f.cfg.type ≠ 11 → f.readyAt ≤ s.cycle → idle →
      let e := x.evsOf f
      finComplete s (f.cfg.wait k) 0 f e.1 e.2 = true →
      ∀ c, (c = Instr.waitWindowEnd k j ∨ c = Instr.pairingTimeout k j) →
      Runs c s (fun t => (t.slot k j).fins = rest ∧
        (∃ w : Job, (t.slot k j).jobs = x.jobs ++ [w] ∧ w.fin = f ∧ ResultOf f (used e.1) (used e.2) w.res) ∧
        (t.skein k).divQ = (s.skein k).divQ ++ [(j : Nat)] ∧ RegsKept [b + 0x38] s t ∧ MemKept s t)) ∧
    (∀ q, (s.skein k).divQ = q → q ≠ [] → (∀ t, (s.skein k).divAt = some t → t + 14 ≤ s.cycle) →
      Runs (.divideJobStart k) s (fun t => ∃ i ∈ q, (∀ i' ∈ q, i ≤ i') ∧ (t.skein k).divQ = q.erase i ∧
        (t.skein k).divBusy = (s.skein k).divBusy ++ [(i, s.cycle + 168)] ∧ (t.skein k).divAt = some s.cycle ∧
        RegsKept [] s t ∧ MemKept s t)) ∧
    (∀ c rest w ws, (s.skein k).divBusy = ((j : Nat), c) :: rest → c ≤ s.cycle → x.jobs = w :: ws →
      let r := w.res
      let limen := fget r.scfg 15 15 = 1 ∧ fget r.scfg 3 0 ≠ 11
      (x.cfgErr = true → Runs (.divideJobComplete k) s (fun t => RegsKept [b + 0x38] s t ∧ (t.slot k j).rdy = x.rdy ∧
        (t.slot k j).jobs = ws ∧ (t.skein k).divBusy = rest ∧ MemKept s t)) ∧
      (x.cfgErr = false → Runs (.divideJobComplete k) s (fun t => t.reg (b + 0x28) = r.res ∧
        t.rd b F.Slot.AUX.SECOND = r.second % 2 ^ 32 ∧ Grew b F.Slot.AUX.SEQ 1 s t ∧
        t.rd b F.Slot.CNT.N = r.n % 2 ^ 48 ∧ (t.slot k j).rdy = true ∧ (t.slot k j).jobs = ws ∧
        (limen → r.flags.testBit 1 = false → limPass r = true →
          t.rd b F.Slot.AUX.FLAGS = (r.flags + 1) % 2 ^ 16) ∧
        ((¬ limen ∨ r.flags.testBit 1 = true ∨ limPass r = false) → t.rd b F.Slot.AUX.FLAGS = r.flags % 2 ^ 16) ∧
        (t.skein k).divBusy = rest ∧ MemKept s t))) ∧
    (∀ f rest, x.fins = f :: rest → f.readyAt + 8 ≤ s.cycle → idle → x.cfgErr = false →
      let e := x.evsOf f
      let own := ownedEvs f.o f.c (used e.1)
      finComplete s (f.cfg.wait k) 8 f e.1 e.2 = true →
      (f.cfg.type = 8 → Runs (.totHistPublish k j) s (fun t => (t.slot k j).fins = rest ∧ (t.slot k j).rdy = true ∧
        Grew b F.Slot.AUX.SEQ 1 s t ∧ (t.reg (b + 0x28)).toNat = own.length % 2 ^ 48 ∧
        t.rd b F.Slot.CNT.N = own.length % 2 ^ 48 ∧ MemKept s t)) ∧
      (f.cfg.type = 11 → j < 8 →
        let vals := histVals f.cfg f (used e.1) (used e.2)
        let bin := fun v : Int => (v - toSigned 48 (fget f.limMin 47 0)) / ((fget f.limMax 15 0 + 1 : Nat) : Int)
        let count := fun p : Int → Bool => (vals.filter (fun v => p (bin v))).length
        let at_ := fun i : Nat => tHist + 0x2000 * (k : Nat) + 0x400 * (j : Nat) + 4 * i
        let under := x.under + count (fun i => decide (i < 0))
        let above := x.ovr + count (fun i => decide (256 ≤ i))
        Runs (.totHistPublish k j) s (fun t => (t.slot k j).fins = rest ∧ (t.slot k j).rdy = true ∧
          Grew b F.Slot.AUX.SEQ 1 s t ∧ MemKept s t ∧
          (∀ i, i < 256 → (t.tw (at_ i)).toNat = min (2 ^ 32 - 1) ((s.tw (at_ i)).toNat + count (fun n => decide (n = (i : Int))))) ∧
          (t.slot k j).under = under ∧ (t.slot k j).ovr = above ∧
          (t.reg (b + 0x28)).toNat = min (2 ^ 32 - 1) above * 2 ^ 32 + min (2 ^ 32 - 1) under ∧
          t.rd b F.Slot.AUX.SECOND = 0 ∧ t.rd b F.Slot.CNT.N = (x.entered + vals.length) % 2 ^ 48)))

/-! ### Trigger domains (R213-R221, R252) -/

/-- What arms a domain: TSWFIRE hits its conditions and a due hit fires the line; DCFG takes a written value and
leaves the domain where EN goes; a master answers its own request and an ARMREQ with a scheduled action; due actions
arm and disarm (R209, R213-R219, R251, R312). Times are compared as plain 52-bit numbers (log 79, DEDUCED), and an
own action needs no READY (log 142, DEDUCED). -/
def Obligations.TriggerRequestsComplete : Prop :=
  ∀ (s : State) (d : Fin 4), s.phase = .running →
    let b := bDom d
    let lead := (s.coarse + 1000 * s.rd b F.Trs.DCFG.LEAD) % 2 ^ 52
    let at_ := fun a : Nat => max (a % 2 ^ 52) lead
    let pend := fun (act a : Nat) (t : State) => t.lnk.schedQ = s.lnk.schedQ ++ [Sched.mk act (at_ a) d] ∧ MemKept s t
    (∀ i mask, i < 16 → mask = BitVec.ofNat 16 (2 ^ i) → s.reachable bTrs = true →
      s.rd (bCond i) F.Trs.TCOND.KIND = 6 → s.rd (bCond i) F.Trs.TCOND.DOM = d → s.rd (bCond i) F.Trs.TCOND.COUNT ≤ 1 →
      s.domState d = 2 → s.rd b F.Trs.DCFG.EN = 1 →
      Runs (.tswfire mask) s (fun t => Grew (bCond i) F.Trs.TCHIT 1 s t ∧ Grew b F.Trs.DFIRES 1 s t ∧
        (t.dom d).pulse = some (max ((s.dom d).pulse.getD 0) (s.cycle + 10 * max 5 (s.rd b F.Trs.DCFG.PULSE))) ∧
        ((s.dom d).pulse = none → s.scanOn = false → t.outbox = Out.firePull d :: s.outbox) ∧
        RegsKept [bCond i + F.Trs.TCHIT.off, b + F.Trs.DFIRES.off] s t ∧ MemKept s t)) ∧
    (∀ v w, s.reachable (b + 0x100) = true →
      let new := viewVal v (s.reg (b + 0x100)) w
      Runs (.dcfgWrite d v w) s (fun t => MemKept s t ∧
        (∀ i, (i < 3 ∨ 8 ≤ i) → (t.reg (b + 0x100)).getLsbD i = new.getLsbD i) ∧
        (s.rd b F.Trs.DCFG.EN = 1 → new.getLsbD 0 = false → (∀ h ∈ s.lnk.held, 1 ≤ h.2.act ∧ h.2.act ≤ 3) → t.domState d = 0 ∧
          ∀ a ∈ t.lnk.schedQ, ¬ ((a.act = 2 ∨ a.act = 3) ∧ a.arg = d)) ∧
        (new.getLsbD 0 = true → Held b F.Trs.DSTAT.STATE s t ∧ t.lnk = s.lnk))) ∧
    (s.isMaster d = true → s.lnk.schedQ.length < 32 → (s.rd bLnk F.Lnk.LSTAT.READY = 0 ∨ s.pos = 0) →
      (∀ a, a = s.rd b F.Trs.DARM_AT → s.reached (at_ a) = false → s.reachable b = true →
        (s.domState d = 0 → Runs (.dctlArm d) s (fun t => pend 2 a t ∧ t.domState d = 1)) ∧
        Runs (.dctlDisarm d) s (fun t => pend 3 a t ∧ t.domState d = s.domState d)) ∧
      (∀ (h : PktHdr) a, s.portUp h.port = true → h.lseq.toNat = (s.lp h.port).rxSeq → h.bcast = false →
        (h.dst : Nat) = s.pos → s.reached (at_ a) = false → s.domState d = 0 →
        Runs (.armreq h d a false) s (fun t => pend 2 a t ∧ t.domState d = 1))) ∧
    (s.lnk.held = [] →
      (∀ a, s.schedDue 2 d = some a → s.schedDue 3 d = none → s.hitchDue = false →
        Runs (.schedArm d) s (fun t => t.domState d = 2 ∧
          (t.dom d).inForce = a.at_ ∧ t.lnk.schedQ = s.lnk.schedQ.erase a ∧ MemKept s t)) ∧
      (∀ a, s.schedDue 3 d = some a → s.hitchDue = false → Runs (.schedDisarm d) s (fun t => t.domState d = 0 ∧
        t.lnk.schedQ = s.lnk.schedQ.erase a ∧ MemKept s t)) ∧
      (s.hitchDue = true → Runs (.schedArm d) s (fun t => t = s) ∧ Runs (.schedDisarm d) s (fun t => t = s)))

/-- What a falling edge of the line does: an armed domain accepts the first at or after its arm and holds off, an edge
before the arm, in the hold-off or of a domain that is not armed is ignored, and in any state each edge is observed and
either accepted or ignored (R221); the hold-off's end arms or disarms by REARM; a pulse ends at its cycle (R214, R217,
R220). -/
def Obligations.TriggersAreAccepted : Prop :=
  ∀ (s : State) (d : Fin 4), s.phase = .running →
    let b := bDom d
    let ho := max 2000 (min 1000000000 (s.rd b F.Trs.DCFG.HOLDOFF))
    (∀ fine : Fin 512, s.domOn 87 = true → s.rd b F.Trs.DCFG.EN = 1 →
      let tt := shiftFt (s.coarse * 512 + fine) (s.ofs - s.rdInt b F.Trs.DLINE.LINEDLY)
      (s.domState d = 2 → 0 ≤ delta ((s.dom d).inForce * 512) tt →
        Runs (.fireLineEdge d fine) s (fun t => t.domState d = 3 ∧ Grew b F.Trs.DOBS 1 s t ∧ Grew b F.Trs.DACC 1 s t ∧
          Held b F.Trs.DIGN s t ∧ (t.reg (b + F.Trs.DLAST.off)).toNat = tt % 2 ^ 61 * 8 ∧
          (t.dom d).hoEnd = some ((tt + ho * 512) % 2 ^ 61) ∧ (t.dom d).hoAt = s.cycle * 512 + fine + ho * 512 ∧
          (∀ k dst dl, k < 32 → (s.eng k).wait = .twait dst d dl none →
            (t.eng k).wait = .twait dst d dl (some (BitVec.ofNat 64 (tt % 2 ^ 61 * 8)))) ∧ MemKept s t)) ∧
      ((s.domState d = 0 ∨ s.domState d = 1 ∨ (s.domState d = 2 ∧ delta ((s.dom d).inForce * 512) tt < 0)) →
        Runs (.fireLineEdge d fine) s (fun t => t.domState d = s.domState d ∧ Grew b F.Trs.DOBS 1 s t ∧
          Grew b F.Trs.DIGN 1 s t ∧ Held b F.Trs.DACC s t ∧ Held b F.Trs.DLAST s t ∧ MemKept s t)) ∧
      (∀ e, s.domState d = 3 → (s.dom d).hoEnd = some e → delta e tt < 0 → Runs (.fireLineEdge d fine) s (fun t =>
        t.domState d = 3 ∧ (t.dom d).hoEnd = some e ∧ Grew b F.Trs.DIGN 1 s t ∧ Held b F.Trs.DACC s t ∧ MemKept s t)) ∧
      Runs (.fireLineEdge d fine) s (fun t => Grew b F.Trs.DOBS 1 s t ∧
        (Grew b F.Trs.DACC 1 s t ∧ Held b F.Trs.DIGN s t ∨ Held b F.Trs.DACC s t ∧ Grew b F.Trs.DIGN 1 s t))) ∧
    (∀ e, (s.dom d).hoEnd = some e → s.domState d = 3 → (s.dom d).hoAt ≤ s.cycle * 512 →
      Runs (.holdoffEnd d) s (fun t => t.domState d = (if s.rd b F.Trs.DCFG.REARM = 1 then 2 else 0) ∧
        (t.dom d).hoEnd = none ∧ RegsKept [b + F.Trs.DSTAT.STATE.off] s t ∧ MemKept s t)) ∧
    (∀ c, (s.dom d).pulse = some c → c ≤ s.cycle →
      Runs (.firePulseEnd d) s (fun t => (t.dom d).pulse = none ∧
        t.outbox = (if s.scanOn then s.outbox else Out.fireRelease d :: s.outbox) ∧ RegsKept [] s t ∧ MemKept s t))

/-! ### Streams and host rings (R227, R234-R250, R314) -/

/-- EN, SNAP and CLR of SCTL, the deferred enable, the level's rise and fall with the close of the open records, and
the time limit of a RAW record, which closes once every stamp before its REF is final (R227, R232, R239, R243, R244,
R248, R249). The DECIMATION mark of a fall gives cause 0 (log 83, DEDUCED). -/
def Obligations.StreamCommandsComplete : Prop :=
  ∀ (s : State) (i : Fin 64), s.phase = .running →
    let b := bStr i
    let x := s.strm i
    let started := fun t : State => t.rd b F.Trs.SCTL.EN = 1 ∧ (t.strm i).enWait = false ∧ (t.strm i).opens = [] ∧
      (t.strm i).held = [] ∧ (∃ r q, (t.strm i).queue = x.queue ++ r :: q ∧ r.kind = 5 ∧ r.ref = stampAt s.nowFt) ∧ MemKept s t
    let l := s.rd b F.Trs.SSTAT.LEVEL
    let leveled := fun (new : Nat) (t : State) => t.rd b F.Trs.SSTAT.LEVEL = new ∧ (t.strm i).lastChg = s.cycle ∧
      (let marked := ∃ q d rest, (t.strm i).queue = q ++
         markRec 0x11 (l + 16 * new) d 0#64 0#64 (stampAt s.nowFt) s.holdover :: rest
       let final := x.cuts = [] ∧ ∀ c, c < 16 → s.rawWaits i c s.loads s.nowFt = false
       (final → marked ∧ ∀ o ∈ (t.strm i).opens, ∀ y ∈ o.stamps, y.before s.loads s.nowFt = false) ∧
       (¬ final → marked ∨ ∃ r ∈ (t.strm i).cuts, r.ref = s.nowFt ∧ r.ep = s.loads ∧
         r.dec = some (DecMark.mk (l + 16 * new) (stampAt s.nowFt) s.holdover))) ∧ MemKept s t
    let since := x.lastChg
    (s.reachable (b + 0x1000) = true →
      (s.rd b F.Trs.SCTL.EN = 1 → Runs (.streamEnable i) s (fun t => RegsKept [] s t ∧ t.strms = s.strms ∧ MemKept s t)) ∧
      (s.rd b F.Trs.SCTL.EN = 0 → s.rd b F.Trs.SSTAT.IDLE = 0 → Runs (.streamEnable i) s (fun t =>
        t.rd b F.Trs.SCTL.EN = 1 ∧ t.strm i = { x with enWait := true } ∧ RegsKept [b + 0x1000] s t ∧ MemKept s t)) ∧
      (s.rd b F.Trs.SCTL.EN = 0 → s.rd b F.Trs.SSTAT.IDLE = 1 → Runs (.streamEnable i) s started) ∧
      (s.rd b F.Trs.SCTL.EN = 1 → x.enWait = false → Runs (.streamDisable i) s (fun t => t.rd b F.Trs.SCTL.EN = 0 ∧
        t.strOn i = false ∧ (t.strm i).post = none ∧ (t.strm i).opens = [] ∧ (t.strm i).held = [] ∧ (t.strm i).buf = [] ∧
        (t.strm i).gapEnding = decide (s.rd b F.Trs.SSTAT.GAP = 1) ∧ MemKept s t)) ∧
      (s.rd b F.Trs.SCTL.EN = 1 → x.enWait = true → Runs (.streamDisable i) s (fun t => t.rd b F.Trs.SCTL.EN = 0 ∧
        t.strm i = { x with enWait := false } ∧ MemKept s t)) ∧
      (s.rd b F.Trs.SCTL.EN = 0 → Runs (.streamDisable i) s (fun t => RegsKept [] s t ∧ t.strms = s.strms ∧ MemKept s t)) ∧
      Runs (.sctlSnap i) s (fun t => (∀ p ∈ strmCounters, t.rd b p.2 = s.rd b p.1) ∧
        t.rd b F.Trs.PENDING = x.pend % 2 ^ 48 ∧ Grew b F.Trs.SSTAT.SNAP_SEQ 1 s t ∧ t.strms = s.strms ∧
        RegsKept [b + 0x1028, b + 0x1058, b + 0x1060, b + 0x1068, b + 0x1070, b + 0x1078] s t ∧ MemKept s t) ∧
      (s.rd b F.Trs.SCTL.EN = 0 → s.rd b F.Trs.SSTAT.IDLE = 1 → Runs (.sctlClr i) s (fun t =>
        (∀ p ∈ strmCounters, t.rd b p.1 = 0 ∧ t.rd b p.2 = 0) ∧ t.rd b F.Trs.PENDING = 0 ∧ Held b F.Trs.SSEQ s t ∧
        t.strms = s.strms ∧ MemKept s t)) ∧
      (s.rd b F.Trs.SCTL.EN = 1 ∨ s.rd b F.Trs.SSTAT.IDLE = 0 → Runs (.sctlClr i) s (fun t => RegsKept [] s t ∧
        t.strms = s.strms ∧ MemKept s t))) ∧
    (s.domOn 87 = true → s.rd b F.Trs.SCTL.EN = 1 → x.enWait = true → s.rd b F.Trs.SSTAT.IDLE = 1 →
      Runs (.streamDeferredEnable i) s started) ∧
    (s.strOn i = true → s.rd b F.Trs.SRATE.AUTO = 1 →
      (l < 7 → s.rd b F.Trs.SRATE.HW * s.ringSize i ≤ 128 * s.ringUsed i →
        since + 1000 * s.rd b F.Trs.SRATE.UPHOLD ≤ s.cycle → Runs (.rateLevelRise i) s (leveled (l + 1))) ∧
      (s.rd b F.Trs.SRATE.LVL < l → s.fillLow i = true → s.hostLow i = false →
        since + 1000 * s.rd b F.Trs.SRATE.DNHOLD ≤ s.cycle → Runs (.rateLevelFall i) s (leveled (l - 1)))) ∧
    (∀ (c : Fin 16) o y ys, x.opens = [o] → x.cuts = [] → x.buf = [] → o.c = c → o.cut = none → o.stamps = y :: ys →
      y.ep = s.loads → (s.rd b F.Trs.SSTAT.GAP = 1 ∨ (s.memReady = true ∧ 16 * s.ringUsed i < 15 * s.ringSize i)) →
      let us := if s.rd b F.Trs.S_SCFG.RTMO = 0 then 10 else s.rd b F.Trs.S_SCFG.RTMO
      let q := (y.t / 512 + 1000 * us) * 512 % 2 ^ 61
      let bef := fun z : Stamp => z.before s.loads q
      0 ≤ delta q s.nowFt → Runs (.rawRecordTimeout i c) s (fun t =>
        (s.rawWaits i c s.loads q = true → (t.strm i).opens = [{ o with cut := some q }]) ∧
        (s.rawWaits i c s.loads q = false → o.win = 0 → (t.strm i).queue = x.queue ++
          [rawRec { o with stamps := o.stamps.filter bef, decs := o.decs.filter bef } q false]) ∧ MemKept s t))

/-- A record enters the capture ring with the next SEQ when it fits and MEM is ready; else a RAW record waits and lets
another pass, which is staged, or gapped where 16 are staged; in a freeze it is gapped, no SITE record being in the queue,
since none is ever gapped; a gap ends with its mark and a KEYFRAME; a committed record goes to the head's ring, or, once
discovery is done, is read toward the head through port 64 + i mod 8 (the model's reading: log 85; that a command with
nothing due changes nothing: log 3). GENERATED = DELIVERED + DECIMATED + GAPPED + PENDING is kept by every command that
moves a stream's items, where PENDING covers the items it holds (R224, R234, R245-R248, R250, R316). -/
def Obligations.RecordsCommit : Prop :=
  ∀ (s : State) (i : Fin 64), s.phase = .running → s.domOn 87 = true →
    let b := bStr i
    let x := s.strm i
    (∀ r rest, x.queue = r :: rest →
      (s.frozen = false → x.staging = [] → s.ringFits i r = true → r.win = 0 → Runs (.recordCommit i) s (fun t =>
        Grew b F.Trs.SSEQ 1 s t ∧ (∃ q, (t.strm i).queue = rest ++ q) ∧
        (∃ y, (t.strm i).ring = x.ring ++ [y] ∧ y.rec_ = r ∧ y.seq = s.rd b F.Trs.SSEQ ∧ y.addr = x.wpos % s.ringSize i ∧
          0 < y.writes ∧ y.sent = false) ∧
        (t.strm i).wpos = x.wpos + 16 * r.units ∧ MemKept s t)) ∧
      (s.frozen = false → x.staging = [] → s.ringFits i r = false →
        ((∀ q ∈ x.queue, q.kind = 1) → s.siteHead i = none → Runs (.recordCommit i) s (fun t => t = s)) ∧
        (∀ q rest1, r.kind = 1 → rest = q :: rest1 → q.kind ≠ 1 → s.ringFits i q = false →
          Runs (.recordCommit i) s (fun t => RegsKept [] s t ∧
            t.strm i = { x with queue := r :: rest1, staging := [q] } ∧ MemKept s t)) ∧
        (r.kind ≠ 1 → Runs (.recordCommit i) s (fun t => RegsKept [] s t ∧
          t.strm i = { x with queue := rest, staging := [r] } ∧ MemKept s t))) ∧
      (∀ a l, s.frozen = false → x.staging = a :: l → x.staging.length = 16 → s.ringFits i a = false → r.kind ≠ 1 →
        (∀ q ∈ x.queue, q.kind ≠ 3) →
        Runs (.recordCommit i) s (fun t => Grew b F.Trs.GAPPED 1 s t ∧ t.rd b F.Trs.SSTAT.GAP = 1 ∧ Held b F.Trs.SSEQ s t ∧
          (t.strm i).staging = x.staging ∧ (t.strm i).ring = x.ring ∧ MemKept s t)) ∧
      (s.frozen = true → (∀ q ∈ x.queue, q.kind ≠ 3) → Runs (.recordCommit i) s (fun t => Grew b F.Trs.GAPPED r.items s t ∧
        t.rd b F.Trs.SSTAT.GAP = 1 ∧ Held b F.Trs.SSEQ s t ∧ (t.strm i).ring = x.ring ∧ MemKept s t))) ∧
    (s.rd b F.Trs.SSTAT.GAP = 1 → s.frozen = false →
      (x.gapEnding = false → s.strOn i = true → s.memReady = true → x.frz = none → s.fillLow i = true →
        Runs (.gapEnd i) s (fun t =>
        t.rd b F.Trs.SSTAT.GAP = 0 ∧
        (t.strm i).queue = gapMarkRec s i :: keyframeRec s (stampAt s.nowFt) :: x.queue ∧
        (t.strm i).pend = x.pend + 2 ∧ Grew b F.Trs.GENERATED 2 s t ∧ (t.strm i).gapStart = none ∧
        RegsKept [b + 0x1028, b + 0x1038] s t ∧ MemKept s t)) ∧
      (x.gapEnding = true → s.ringFits i (gapMarkRec s i) = true → Runs (.gapEnd i) s (fun t =>
        t.rd b F.Trs.SSTAT.GAP = 0 ∧ (t.strm i).queue = gapMarkRec s i :: x.queue ∧ (t.strm i).gapEnding = false ∧
        Grew b F.Trs.GENERATED 1 s t ∧ MemKept s t))) ∧
    (∀ r, x.ring.find? (fun r => !r.sent) = some r →
      (0 < r.writes → Runs (.recordTransport i) s (fun t => t = s)) ∧
      (r.writes = 0 → s.frozen = false →
        (∀ n, s.isHead = true → (∀ w ∈ (s.hring i).early ++ (s.hring i).waiting, w.seq ≠ r.seq) →
          n = (s.hring i).expect.getD r.seq → (n = r.seq % 2 ^ 32 ∨ 2 ^ 31 < (n + 2 ^ 32 - r.seq) % 2 ^ 32) → r.seq < 2 ^ 32 →
          Runs (.recordTransport i) s (fun t => (t.hring i).expect = some n ∧ (t.hring i).waiting = (s.hring i).waiting ++
            [{ seq := r.seq, items := r.rec_.items, bytes := r.rec_.bytes r.seq }] ∧
            (∀ y ∈ (t.strm i).ring, y.seq = r.seq → y.sent = true) ∧ RegsKept [] s t ∧ MemKept s t)) ∧
        (s.isHead = false → s.rd bLnk F.Lnk.LSTAT.READY = 0 → Runs (.recordTransport i) s (fun t => t = s)) ∧
        (s.isHead = false → s.rd bLnk F.Lnk.LSTAT.READY = 1 → Runs (.recordTransport i) s (fun t =>
          (∃ q, (t.port (64 + (i : Nat) % 8)).wait = (s.port (64 + (i : Nat) % 8)).wait ++ [q] ∧ q.len = 16 * r.rec_.units ∧
            q.addr = (s.rd b F.Trs.SRING.BASE * 128 + r.addr) % 2 ^ 34 ∧ q.write = none) ∧
          (∀ y ∈ (t.strm i).ring, y.seq = r.seq → y.sent = true) ∧ RegsKept [] s t ∧ MemKept s t)))) ∧
    (let adds := fun (n : Nat) (u : State) => u.rd (bStr n) F.Trs.GENERATED = (u.rd (bStr n) F.Trs.DELIVERED +
       u.rd (bStr n) F.Trs.DECIMATED + u.rd (bStr n) F.Trs.GAPPED + (u.strm n).pend) % 2 ^ 48
     let covers := fun n : Nat => let y := s.strm n
       (if s.windowed n then 0 else y.buf.length) + (((y.queue ++ y.staging).filter (fun r => r.win = 0)).map Rec.items).sum +
         (y.ring.map (fun r => r.rec_.items)).sum ≤ y.pend ∧ (s.windowed n = true → ∀ r ∈ y.cuts, r.win ≠ 0)
     ∀ c : Instr, (c = .recordCommit i ∨ c = .gapEnd i ∨ c = .rateLevelRise i ∨ c = .rateLevelFall i ∨
         (∃ n, c = .rawRecordTimeout i n) ∨ c = .streamEnable i ∨ c = .streamDisable i ∨ c = .streamDeferredEnable i ∨
         (∃ h q, c = .strack h q) ∨ (∃ h, c = .hostRingWrite h) ∨ ∃ k, c = .stampDelivery k) → (∀ n, n < 64 → covers n) →
       Runs c s (fun t => ∀ n, n < 64 → adds n s → adds n t))

/-- On the head, a record next in order that fits is written at BASE + WR mod size, WR advances past it and it counts as
delivered; the ring's vector goes out after IRQ_HOLD; the entry's fields take the writes that R237 accepts; a STREAM
packet waits its turn or, delivered before, is dropped; STRACK frees every record up to its SEQ (R236-R238, R314; that a
write or a vector that is not due changes nothing: log 3). -/
def Obligations.HostRingsComplete : Prop :=
  ∀ (s : State) (h : Fin 4096), s.phase = .running →
    let e := tRing + 64 * (h : Nat)
    let x := s.hring h
    let ctrl := s.tq (e + 8)
    let wr := s.tq (e + 16)
    let errs := fun t : State => t.tables = s.tables ∧ ((h : Nat) / 64 = s.pos →
      t.rd (bStr ((h : Nat) % 64)) F.Trs.SSTAT.HRERR = 1) ∧ MemKept s t
    (∀ (r : HRec) rest, s.isHead = true → s.domOn 84 = true → ctrl.testBit 5 = true → r.bytes.length ≤ s.hostFree h →
      let i := (h : Nat) % 64
      let written := fun t : State => t.tq (e + 16) = (wr + r.bytes.length) % 2 ^ 64 ∧
        (t.hring h).irqFrom = some (x.irqFrom.getD s.cycle) ∧
        (r.bytes.length ≤ s.hostSize h - wr % s.hostSize h →
          Out.hostWrite (s.tq e + wr % s.hostSize h) r.bytes ∈ t.outbox) ∧
        ((h : Nat) / 64 = s.pos → (∀ y ∈ (t.strm i).ring, ¬ Covered r.seq y.seq) ∧
          (∀ y, (s.strm i).ring = [y] → Covered r.seq y.seq → Grew (bStr i) F.Trs.DELIVERED y.rec_.items s t ∧
            (t.strm i).pend = (s.strm i).pend - y.rec_.items)) ∧ MemKept s t
      (x.early = [] → x.waiting = r :: rest → x.expect = some r.seq → Runs (.hostRingWrite h) s (fun t => written t ∧
        (t.hring h).waiting = rest ∧ (t.hring h).expect = some ((r.seq + 1) % 2 ^ 32))) ∧
      (x.early = r :: rest → Runs (.hostRingWrite h) s (fun t => written t ∧ (t.hring h).early = rest ∧
        (t.hring h).waiting = x.waiting ∧ (t.hring h).expect = x.expect))) ∧
    (∀ n, x.expect = some n → x.early = [] → (∀ r ∈ x.waiting, r.seq ≠ n) → Runs (.hostRingWrite h) s (fun t => t = s)) ∧
    (ctrl.testBit 5 = false → Runs (.hostRingWrite h) s (fun t => t = s)) ∧
    (∀ c, x.irqFrom = some c → s.isHead = true → s.domOn 84 = true → ctrl.testBit 6 = true →
      c + 1000 * (ctrl / 2 ^ 16 % 2 ^ 20) ≤ s.cycle → s.rd (bHif + 16 * (ctrl / 2 ^ 7 % 64)) F.Hif.MSIX_DATA.MASK = 0 →
      Runs (.hostRingIrq h) s (fun t => t.outbox = Out.msix (ctrl / 2 ^ 7 % 64) :: s.outbox ∧
        (t.hring h).irqFrom = none ∧ RegsKept [] s t ∧ MemKept s t)) ∧
    (∀ w : Word, s.reachable e = true → s.isHead = true →
      let put := fun f => Runs (.hostRingEntryWrite h f w) s
      put .base (fun t => t.tq e = w.toNat ∧ RegsKept [] s t ∧ MemKept s t) ∧
      put .wbaddr (fun t => t.tq (e + 32) = w.toNat ∧ RegsKept [] s t ∧ MemKept s t) ∧
      put .ctrl (fun t => t.tq (e + 8) = w.toNat % 2 ^ 13 + w.toNat / 2 ^ 16 % 2 ^ 20 * 2 ^ 16 ∧
        (w.getLsbD 5 = false → (t.hring h).expect = none) ∧ (w.getLsbD 5 = true → t.hrings = s.hrings) ∧ MemKept s t) ∧
      (ctrl.testBit 5 = false → put .wr (fun t => t.tq (e + 16) = w.toNat ∧ RegsKept [] s t ∧ MemKept s t)) ∧
      (ctrl.testBit 5 = true → put .wr errs) ∧
      (w.toNat % 16 = 0 → s.tq (e + 24) ≤ w.toNat → w.toNat ≤ wr →
        put .rd (fun t => t.tq (e + 24) = w.toNat ∧ RegsKept [] s t ∧ MemKept s t)) ∧
      ((w.toNat % 16 ≠ 0 ∨ w.toNat < s.tq (e + 24) ∨ wr < w.toNat) → put .rd errs)) ∧
    (∀ (hdr : PktHdr) (seq : BitVec 32) items bs n, Arrives hdr s → s.isHead = true →
      (h : Nat) = 64 * hdr.src + hdr.tag.toNat % 64 → x.expect = some n →
      (n = seq.toNat → (∀ r ∈ x.early ++ x.waiting, r.seq ≠ n) → Runs (.streamPacket hdr seq items bs) s (fun t =>
        (t.hring h).waiting = x.waiting ++ [{ seq := n, items := items, bytes := bs,
                                              held := some ((hdr.port : Nat), hdr.lseq.toNat) }] ∧ MemKept s t)) ∧
      (0 < (n + 2 ^ 32 - seq.toNat) % 2 ^ 32 → (n + 2 ^ 32 - seq.toNat) % 2 ^ 32 ≤ 2 ^ 31 →
        Runs (.streamPacket hdr seq items bs) s (fun t => t.hrings = s.hrings ∧ MemKept s t))) ∧
    (∀ (hdr : PktHdr) (seq : BitVec 32), Arrives hdr s → let i := hdr.tag.toNat % 64
      Runs (.strack hdr seq) s (fun t => (∀ r ∈ (t.strm i).ring, ¬ Covered seq.toNat r.seq) ∧
        (∀ r ∈ (s.strm i).ring, ¬ Covered seq.toNat r.seq → r ∈ (t.strm i).ring) ∧ MemKept s t))

/-! ### The memory controller (R253-R289, R410, R411) -/

/-- A transfer's first 128 bytes enter its queue; a PC activates an eligible request that none goes before, at an
edge of the cycle and at the distances of the set in force from its last activates; a completed request brings its
data, and its corrected words are logged; refreshes of a row's neighbours, refreshes and the scrub run (that a
command with nothing due changes nothing is the model's: log 3); ISSUED = COMPLETED + FROZEN + OUTSTANDING is kept by
every command that moves requests (R259, R263, R267, R271, R272, R276, R283, R286; the distances and the order of the
commands of a PC: log 89; what the activates of a neighbour refresh count: log 152; a tREFI of 0: log 151). -/
def Obligations.MemoryRequestsComplete : Prop :=
  ∀ (s : State), s.phase = .running →
    (∀ (n : Fin 77) x rest, (s.port n).wait = x :: rest →
      let k := min x.len (128 - x.addr % 128)
      let q := s.queued (s.pcOf x.addr)
      (s.served = true → s.pcOn (s.pcOf x.addr) = true → (s.port n).outs.length < portMax n → x.fromHost = false →
        (x.write = none → nReads q < 48) → (x.write.isSome = true → nWrites q < 64) →
        Runs (.memRequestAccept n) s (fun t => (∃ r, (t.port n).outs = (s.port n).outs ++ [r] ∧ r.addr = x.addr ∧ r.len = k ∧
            r.write = x.write.map (fun bs => bs.take k) ∧ r.why = x.why ∧ r.at_ = s.cycle ∧ r.issued = false) ∧
          (x.len ≤ k → (t.port n).wait = rest) ∧
          (k < x.len → ∃ w, (t.port n).wait = w :: rest ∧ w.addr = (x.addr + k) % 2 ^ 34 ∧ w.len = x.len - k) ∧
          (t.port n).issued = ((s.port n).issued + 1) % 2 ^ 48 ∧ RegsKept [] s t ∧ MemKept s t)) ∧
      ((s.served = false ∨ portMax n ≤ (s.port n).outs.length) → Runs (.memRequestAccept n) s (fun t => t = s))) ∧
    (∀ p : Fin 32, s.owed p < 9 → (s.pchan p).nbr = [] → s.eligible p ≠ [] → Runs (.activateIssue p) s (fun t =>
      ∃ e ∈ s.eligible p, (∀ f ∈ s.eligible p, s.reqUrg f.1 f.2 ≤ s.reqUrg e.1 e.2 ∧
          (s.reqUrg f.1 f.2 = s.reqUrg e.1 e.2 → f.2.write.isSome = e.2.write.isSome → e.2.ord ≤ f.2.ord)) ∧
        (∃ a rest, (t.pchan p).acts = a :: rest ∧ a.bank = s.bankOf e.2.addr ∧
          s.hbmEdge s.cycle ≤ a.at_ ∧ a.at_ < s.hbmEdge (s.cycle + 1) ∧
          ∀ o ∈ (s.pchan p).acts, o.at_ + s.mclk (if o.bank = a.bank then F.Mem.MTIM0.tRC
            else if o.bank / 16 = a.bank / 16 ∧ o.bank % 4 = a.bank % 4 then F.Mem.MTIM0.tRRDL else F.Mem.MTIM0.tRRDS) ≤ a.at_) ∧
        (t.port e.1).outs = (s.port e.1).outs.map (fun o => if o.ord = e.2.ord then { o with issued := true } else o) ∧
        MemKept s t)) ∧
    (∀ (p : Fin 32) row th rest, (s.pchan p).nbr = (row, th) :: rest → s.owed p < 9 → s.pcOn p = true → s.frozen = false →
      s.rd bMem F.Mem.MSTAT.FHOLD = 0 → (s.pchan p).busyTo ≤ s.cycle → s.hasEdge (s.atTop p) = true →
      let r := row / 32
      let n := (if 2 ≤ r ∧ r < 16386 then 1 else 0) + (if 1 ≤ r ∧ r < 16385 then 1 else 0) +
        (if r + 1 < 16384 then 1 else 0) + (if r + 2 < 16384 then 1 else 0)
      Runs (.neighbourRefresh p) s (fun t => (t.pchan p).nbr = rest ∧
        Grew (bPc p) (if th then F.Mem.PCRD.TABLE else F.Mem.PCRD.FALLBACK) n s t ∧ RegsKept [bPc p + 0x2010] s t ∧
        MemKept s t)) ∧
    (∀ p : Fin 32, s.pcOn p = true → s.rd bMem F.Mem.MCTL.REFEN = 1 → s.rd bMem F.Mem.MSTAT.FHOLD = 0 →
      s.hotFrozen = false → (s.pchan p).busyTo ≤ s.cycle →
      let idle := ((s.pchan p).nbr = [] ∨ s.frozen = true) ∧ s.eligible p = [] ∧ s.hasEdge (s.atFree p) = true
      let paid := fun t : State => t.debt p = s.debt p - (s.tREFI : Int) ∧ (t.pchan p).refs = (s.pchan p).refs + 1 ∧
        (t.pchan p).busyTo = s.cycle + s.mtim F.Mem.MTIM1.tRFC ∧
        (((s.pchan p).refs + 1) % 8192 = 0 → (t.pchan p).table = []) ∧ MemKept s t
      (9 ≤ s.owed p → s.hasEdge (s.atTop p) = true →
        Runs (.refresh p) s (fun t => paid t ∧ Grew (bPc p) F.Mem.PCREF.URGENT 1 s t)) ∧
      (s.owed p < 9 → idle → (1 ≤ s.owed p ∨ (s.queued p = [] ∧ -7 ≤ s.owed p)) →
        Runs (.refresh p) s (fun t => paid t ∧ Held (bPc p) F.Mem.PCREF.URGENT s t)) ∧
      (s.owed p < 9 → s.eligible p ≠ [] → Runs (.refresh p) s (fun t => t = s))) ∧
    (∀ (n : Fin 77) r rest (ecc : EccObs), (s.port n).outs = r :: rest → r.issued = true → s.frozen = false →
      s.colsDone (s.pcOf r.addr) r.ord = true →
      let done := fun t : State => (t.port n).outs = rest ∧ (t.port n).completed = ((s.port n).completed + 1) % 2 ^ 48
      (∀ k req, ecc = .clean → r.write = none → r.why = .vectorLine k req → Runs (.memRequestComplete n ecc) s (fun t =>
        done t ∧ (∀ l ∈ (t.vu k).lines, l.req = req → l.data = some (s.memBytes r.addr r.len)) ∧ RegsKept [] s t ∧
        MemKept s t)) ∧
      (∀ i seq bs, r.write = some bs → r.rmw = false → r.why = .record i seq → bs.length ≤ 128 - r.addr % 128 →
        Runs (.memRequestComplete n ecc) s (fun t => done t ∧
          (∀ j, j < bs.length → t.memByte (r.addr + j) = bs[j]?.getD 0#8) ∧
          (∀ l, (∀ j, j < bs.length → l ≠ s.loc (r.addr + j)) → t.hbm.get l = s.hbm.get l) ∧ RegsKept [] s t)) ∧
      (∀ ws (word : Fin 16) (bit : Fin 72) (synd : BitVec 8), ecc = .corrected (ws ++ [(word, bit, synd)]) → r.write = none →
        Runs (.memRequestComplete n ecc) s (fun t => let b := bPc (s.pcOf r.addr)
          done t ∧ t.rd b F.Mem.PCECC.VALID = 1 ∧
          t.rd b F.Mem.PCECC.COUNT = min (s.rd b F.Mem.PCECC.COUNT + ws.length + 1) (2 ^ 15 - 1) ∧
          t.rd b F.Mem.PCECC.WORD = word ∧ t.rd b F.Mem.PCECC.BIT = bit ∧ t.rd b F.Mem.PCECC.SYND = synd.toNat ∧
          t.rd b F.Mem.PCECC.ADDR = r.addr / 128 % 2 ^ 27 ∧ MemKept s t))) ∧
    (s.rd bMem F.Mem.MCTL.SCRUB_EN = 1 → s.served = true → s.memc.scrubAt ≤ s.cycle → Runs .scrubRead s (fun t =>
      (∃ q, (t.port 76).wait = (s.port 76).wait ++ [q] ∧ q.addr = 128 * s.memc.scrubPtr % 2 ^ 34 ∧ q.len = 128 ∧
        q.write = none) ∧
      t.memc.scrubPtr = (s.memc.scrubPtr + 1) % 2 ^ 27 ∧ RegsKept [] s t ∧ MemKept s t)) ∧
    (let adds := fun (n : Nat) (u : State) =>
       (u.port n).issued = ((u.port n).completed + (u.port n).frozen + (u.port n).outs.length) % 2 ^ 48
     ∀ c : Instr, ((∃ n, c = .memRequestAccept n) ∨ (∃ p, c = .activateIssue p) ∨ (∃ n e, c = .memRequestComplete n e) ∨
         (∃ p, c = .refresh p) ∨ (∃ p, c = .neighbourRefresh p) ∨ (∃ p, c = .caparError p) ∨ c = .mctlForcefrz ∨
         c = .bandChange ∨ c = .mfrzRelease ∨ c = .stackReinitComplete ∨ c = .scrubRead) →
       Runs c s (fun t => ∀ n, n < 77 → adds n s → adds n t))

/-- An uncorrectable word, a parity error and FORCEFRZ freeze the controller, a parity error with the address of the
oldest command issued to its PC within the report latency (which commands those are: log 138; a second cause in one
cycle: log 153); RELEASE ends it, but not while the stack is hot after HOT; the port counters are copied and cleared
(R284-R288). -/
def Obligations.FreezesComplete : Prop :=
  ∀ (s : State), s.phase = .running →
    (s.frozen = false →
      (∀ (n : Fin 77) r rest (word : Fin 16) (synd : BitVec 8), (s.port n).outs = r :: rest → r.issued = true →
        r.write = none → r.addr < 2 ^ 34 → s.colsDone (s.pcOf r.addr) r.ord = true →
        Runs (.memRequestComplete n (.uncorrectable word synd)) s (fun t =>
          FrozenBy 1 (2 ^ 8 * s.pcOf r.addr + 2 ^ 16 * (n : Nat) + 2 ^ 24 * (word : Nat) + 2 ^ 32 * synd.toNat)
            (r.addr / 128 * 128) s t ∧ MemKept s t)) ∧
      (∀ p : Fin 32, let late := s.lateCmds p
        (late = [] →
          Runs (.caparError p) s (fun t => FrozenBy 2 (2 ^ 8 * (p : Nat) + 2 ^ 16 * 255 + 2 ^ 28) 0 s t ∧ MemKept s t)) ∧
        (∀ a ∈ late, (∀ o ∈ late, o ≠ a → a.at_ < o.at_) → a.port < 256 → a.addr < 2 ^ 34 → Runs (.caparError p) s (fun t =>
          FrozenBy 2 (2 ^ 8 * (p : Nat) + 2 ^ 16 * a.port + 2 ^ 28) a.addr s t ∧ MemKept s t))) ∧
      (s.armed 5 = true → s.sealed = false → Runs .mctlForcefrz s (fun t =>
        FrozenBy 4 (2 ^ 8 * 255 + 2 ^ 16 * 255) 0 s t ∧ t.armed 5 = false ∧ MemKept s t)) ∧
      (s.armed 5 = false → Runs .mctlForcefrz s (fun t => t.rd bCtl F.Ctl.ERR.LOCKVIOL = 1 ∧
        Held bMem F.Mem.MSTAT.FROZEN s t ∧ t.engs = s.engs ∧ MemKept s t))) ∧
    (s.frozen = true → s.memc.reinit = false → s.armed 5 = true →
      (s.rd bMem F.Mem.MSTAT.FCAUSE = 3 → s.stackHot = true → Runs .mfrzRelease s (fun t =>
        t.rd bMem F.Mem.MSTAT.RELREFUSED = 1 ∧ t.rd bMem F.Mem.MSTAT.FROZEN = 1 ∧ t.memc.reinit = false ∧ MemKept s t)) ∧
      ((s.rd bMem F.Mem.MSTAT.FCAUSE ≠ 3 ∨ s.stackHot = false) → Runs .mfrzRelease s (fun t => t.memc.reinit = true ∧
        (∀ n, n < 8 → s.rd (bDma n) F.Hif.DMASTAT.BUSY = 1 → t.rd (bDma n) F.Hif.DMASTAT.BUSY = 0 ∧
          t.rd (bDma n) F.Hif.DMASTAT.CODE = 1) ∧ Held bMem F.Mem.MSTAT.LOST s t ∧ MemKept s t))) ∧
    (s.frozen = true → s.memc.reinit = true → Runs .stackReinitComplete s (fun t => t.frozen = false ∧
      t.memc.reinit = false ∧ Held bMem F.Mem.MSTAT.LOST s t ∧ RegsKept [bMem + 8] s t ∧ MemKept s t)) ∧
    Runs .mctlSnap s (fun t => (∀ n, n < 77 → let x := s.port n
        t.rd (bPort n) F.Mem.ISSUED = x.issued % 2 ^ 48 ∧ t.rd (bPort n) F.Mem.COMPLETED = x.completed % 2 ^ 48 ∧
        t.rd (bPort n) F.Mem.FROZEN = x.frozen % 2 ^ 48 ∧ t.rd (bPort n) F.Mem.LATE = x.late % 2 ^ 48) ∧
      Grew bMem F.Mem.MSTAT.SNAP_SEQ 1 s t ∧ t.ports = s.ports ∧ MemKept s t) ∧
    Runs .mctlCntclr s (fun t => (∀ n, n < 77 → t.rd (bPort n) F.Mem.ISSUED = 0 ∧ (t.port n).issued = 0 ∧
        (t.port n).completed = 0 ∧ (t.port n).frozen = 0 ∧ (t.port n).late = 0 ∧ (t.port n).outs = (s.port n).outs) ∧
      (∀ p, p < 32 → t.reg (bPc p + 0x2000) = 0#64 ∧ t.rd (bPc p) F.Mem.PCREF.URGENT = 0 ∧
        t.rd (bPc p) F.Mem.PCRD.TABLE = 0 ∧ t.rd (bPc p) F.Mem.PCRD.FALLBACK = 0 ∧ t.rd (bPc p) F.Mem.PCRMW.RMW = 0) ∧
      MemKept s t)

/-- The band, the change of the data rate, EN and its fill, initialisation and training: the mode registers are written from
timing set 0 at the initialisation, the latency ones for the new rate at its change (what values the bits take is the
implementation's: log 147) (R255, R273, R274, R278-R282, R410, R411). -/
def Obligations.MemoryServiceComplete : Prop :=
  ∀ (s : State), s.phase = .running →
    let x := s.sens 39
    let hold := s.rd bMem F.Mem.MSTAT.FHOLD
    let st := bMem + 8
    (s.rd (bThm + 8 * 39) F.Thm.TEMP.FAIL = 0 → 16 ≤ x.run →
      (hold = 0 → x.band < 3 → Runs .bandChange s (fun t => t.rd bMem F.Mem.MSTAT.BAND = x.band ∧
        t.sensState 39 = x.band ∧ t.pcs = s.pcs ∧ t.memc.phyPend = List.range 32 ∧ MemKept s t)) ∧
      (hold = 0 → x.band = 3 → s.frozen = false → Runs .bandChange s (fun t => t.rd bMem F.Mem.MSTAT.FROZEN = 1 ∧
        t.rd bMem F.Mem.MSTAT.FCAUSE = 3 ∧ t.rd bMem F.Mem.MSTAT.LOST = 1 ∧ ∀ k, k < 32 → SkeinSafe k t)) ∧
      (hold = 1 → Runs .bandChange s (fun t => Held bMem F.Mem.MSTAT.BAND s t ∧ t.memc.bandNext = some x.band ∧
        MemKept s t))) ∧
    (s.rd bMem F.Mem.MSTAT.FPEND = 0 → Runs .mfreqReq s (fun t => t.rd bMem F.Mem.MSTAT.FPEND = 1 ∧
      t.memc.lastBusy = max s.cycle s.memc.lastBusy ∧ RegsKept [st] s t ∧ MemKept s t)) ∧
    (hold = 0 → Runs .mfreqCancel s (fun t => t.rd bMem F.Mem.MSTAT.FPEND = 0 ∧ RegsKept [st] s t ∧ MemKept s t)) ∧
    (hold = 1 → Runs .mfreqCancel s (fun t => RegsKept [] s t ∧ MemKept s t)) ∧
    (s.rd bMem F.Mem.MSTAT.FPEND = 1 → hold = 0 → s.frozen = false →
      (∀ n, n < 77 → (∀ r ∈ (s.port n).outs, r.issued = true) ∧ s.portUrg n < 2) → (∀ p, p < 32 → s.owed p < 9) →
      64000 ≤ (s.cycle - s.memc.lastBusy) * s.hbmMHz →
      Runs .selfRefreshEntry s (fun t => t.rd bMem F.Mem.MSTAT.FHOLD = 1 ∧ RegsKept [st] s t ∧ MemKept s t)) ∧
    (hold = 1 → s.memc.bandNext = none → (s.thms.askedFrom = none ∨ 2 ≤ s.rd bThm F.Thm.THMSTAT.STATE) →
      Runs .rateChangeComplete s (fun t =>
      (∀ p n, n < 256 → t.modeReg p n = if Config.latencyReg n then Config.modeReg (s.timing (t.rd bMem F.Mem.MSTAT.TSET)) n
        else s.modeReg p n) ∧
      t.rd bMem F.Mem.MSTAT.TSET = 1 - s.rd bMem F.Mem.MSTAT.TSET ∧ t.rd bMem F.Mem.MSTAT.FHOLD = 0 ∧
      t.rd bMem F.Mem.MSTAT.FPEND = 0 ∧ (∀ p, p < 32 → t.debt p = 0 ∧ (t.pchan p).table = []) ∧ RegsKept [st] s t ∧
      MemKept s t)) ∧
    (s.rd bMem F.Mem.MCTL.EN = 0 → s.memc.filling = false →
      (s.armed 5 = true → s.memc.filled = true → Runs .mctlEn s (fun t => t.rd bMem F.Mem.MCTL.EN = 1 ∧
        RegsKept [bMem] s t ∧ MemKept s t)) ∧
      (s.armed 5 = true → s.memc.filled = false → Runs .mctlEn s (fun t => t.rd bMem F.Mem.MCTL.EN = 0 ∧
        t.memc.filling = true ∧ RegsKept [] s t ∧ MemKept s t)) ∧
      (s.armed 5 = false → Runs .mctlEn s (fun t => t.rd bMem F.Mem.MCTL.EN = 0 ∧ t.rd bCtl F.Ctl.ERR.LOCKVIOL = 1 ∧
        t.memc = s.memc ∧ MemKept s t))) ∧
    (s.memc.initDone = false → (∀ p, p < 32 → s.pcOn p = true) →
      let good := crc32 (s.mramBytes 0x2f0000 0x1800) = s.mramW 0x2f1800
      (good → Runs .memInitComplete s (fun t => t.rd bMem F.Mem.MCTL.REFEN = 1 ∧ t.memc.initDone = true ∧
        (∀ i, i < 0x600 → t.tw (tPhy + 4 * i) = s.mramW (0x2f0000 + 4 * i)) ∧
        (∀ p n, t.modeReg p n = Config.modeReg (s.timing 0) n) ∧
        (s.rd bCtl F.Ctl.STRAP.ADDR_LOCK = 1 → t.memc.filling = true) ∧ MemKept s t)) ∧
      (¬ good → Runs .memInitComplete s (fun t => t.rd bMem F.Mem.MSTAT.PHYNOFAC = 1 ∧ Held bMem F.Mem.MCTL.REFEN s t ∧
        t.memc.initDone = true ∧ t.memc.filling = false ∧ (∀ p n, t.modeReg p n = Config.modeReg (s.timing 0) n) ∧
        t.tables = s.tables ∧ MemKept s t))) ∧
    (s.memc.filling = true → s.memc.initDone = true → s.frozen = false → Runs .memoryFillComplete s (fun t => t.rd bMem F.Mem.MCTL.EN = 1 ∧
      t.memc.filling = false ∧ t.memc.filled = true ∧ (∀ l, t.hbm.get l = 0#8) ∧ RegsKept [bMem] s t)) ∧
    (∀ c op, (c = Instr.writePattern ∧ op = 1) ∨ (c = Instr.readCompare ∧ op = 2) ∨ (c = Instr.mrw ∧ op = 3) →
      (s.rd bMem F.Mem.MCTL.EN = 0 → s.memc.initDone = true → s.memc.filling = false → s.memc.trainOp = 0 → Runs c s (fun t =>
        t.memc.trainOp = op ∧ t.rd bMem F.Mem.MTRAIN.BUSY = 1 ∧ t.rd bMem F.Mem.MTRES.DONE = 0 ∧ MemKept s t)) ∧
      (s.rd bMem F.Mem.MCTL.EN = 1 → Runs c s (fun t => t.memc = s.memc ∧ RegsKept [] s t ∧ MemKept s t))) ∧
    (let a := s.rd bMem F.Mem.MTRAIN.ADDR * 128
     let ended := fun t : State => t.memc.trainOp = 0 ∧ t.rd bMem F.Mem.MTRAIN.BUSY = 0 ∧ t.rd bMem F.Mem.MTRES.DONE = 1
     (s.memc.trainOp = 1 → Runs .mtrainDone s (fun t => ended t ∧
       (∀ i, i < 128 → t.memByte (a + i) = s.trainBuf[i]?.getD 0#8) ∧
       (s.loc a / 128, s.trainEcc) ∈ t.hbm.ecc ∧
       ∀ l, (∀ i, i < 128 → l ≠ s.loc (a + i)) → t.hbm.get l = s.hbm.get l)) ∧
     (s.memc.trainOp = 2 → Runs .mtrainDone s (fun t => ended t ∧ MemKept s t ∧
       ((∃ j, j < 32 ∧ (t.rd bMem F.Mem.MTRES.FAIL).testBit j = true) ↔ s.memBytes a 128 ≠ s.trainBuf))) ∧
     (s.memc.trainOp = 3 → Runs .mtrainDone s (fun t => ended t ∧ MemKept s t ∧
       (256 * s.rd bMem F.Mem.MTRAIN.PC + s.rd bMem F.Mem.MTRAIN.MRN, BitVec.ofNat 8 (s.rd bMem F.Mem.MTRAIN.MRVAL)) ∈
         t.memc.modeRegs)))

/-! ### The timebase (R290-R302, R319) -/

/-- A missing edge, a window out of range and a change of REFSEL are losses, which lead from LOCKED and SLEW to HOLDOVER;
two good windows declare REFIN good; reacquired, slewed and locked; ACQUIRE gives up after 100 ms (R290-R296; that an event
not due changes nothing: log 3). -/
def Obligations.HoldoverCommandsComplete : Prop :=
  ∀ (s : State), s.phase = .running →
    let b := bTb
    let st := s.tbState
    let lost := fun (cause : Nat) (t : State) => t.rd b F.Tb.TBSTAT.LOSS = 1 ∧ t.rd b F.Tb.TBSTAT.LOSCAUSE = cause ∧
      t.rd b F.Tb.TBSTAT.REFOK = 0 ∧ t.tbState = (if st = 1 ∨ st = 3 then 2 else st) ∧ MemKept s t ∧
      (st = 1 → t.holdLog = (s.nowFt, none) :: s.holdLog ∧ Grew b F.Tb.HOLDINFO.COUNT 1 s t ∧ t.tbs.holdFrom = s.cycle ∧
        t.tbs.stored = 0) ∧ (st = 3 → t.tbs.stored = s.tbs.phase) ∧
      (st ≠ 1 → t.holdLog = s.holdLog ∧ Held b F.Tb.HOLDINFO.COUNT s t)
    let marked := fun (t : State) (p : Rec → Prop) => ∀ i, i < 64 → s.strOn i = true → s.rd (bStr i) F.Trs.S_SCFG.DEVMARK = 1 →
      ∃ q m, (t.strm i).queue = q ++ [m] ∧ m.kind = 4 ∧ p m
    (∀ ago, (if s.rd b F.Tb.TBCFG.REFSEL = 1 then 250 else 2000) ≤ ago → Runs (.refinMissingEdge ago) s (fun t => lost 1 t ∧
      (st = 1 → marked t (fun m => m.ref = stampAt (shiftFt s.nowFt (-((ago * 512 : Nat) : Int))))))) ∧
    (∀ ago, ago < (if s.rd b F.Tb.TBCFG.REFSEL = 1 then 250 else 2000) → Runs (.refinMissingEdge ago) s (fun t => t = s)) ∧
    (∀ count ferr, s.cycle < s.tbs.winFrom + 2048000 → Runs (.refinWindowEnd count ferr) s (fun t => t = s)) ∧
    (∀ count ferr, s.tbs.winFrom + 2048000 ≤ s.cycle → s.countOk count = true → s.tbs.missed = false →
      Runs (.refinWindowEnd count ferr) s (fun t => t.rd b F.Tb.REFMEAS.COUNT = count ∧ t.tbState = st ∧
      t.tbs.winFrom = s.cycle ∧
      (1 ≤ s.tbs.goodWins → t.rd b F.Tb.TBSTAT.REFOK = 1) ∧ (s.tbs.goodWins = 0 → Held b F.Tb.TBSTAT.REFOK s t) ∧
      MemKept s t)) ∧
    (∀ count ferr, s.tbs.winFrom + 2048000 ≤ s.cycle → s.countOk count = false →
      Runs (.refinWindowEnd count ferr) s (lost 2)) ∧
    (∀ err, st = 2 → s.rd b F.Tb.TBSTAT.REFOK = 1 → Runs (.frequencyReacquired err) s (fun t => t.tbState = 3 ∧
      (let p : Int := if s.rd b F.Tb.TBCFG.REFSEL = 1 then 10 ^ 8 else 10 ^ 9
       0 ≤ 2 * t.tbs.phase + p ∧ 2 * t.tbs.phase < p ∧ (10 * err + s.tbs.stored - t.tbs.phase) % p = 0) ∧
      t.holdLog = s.holdLog ∧ RegsKept [b + 0x10] s t ∧ MemKept s t)) ∧
    (st = 3 → s.tbs.phase = 0 → Runs .slewComplete s (fun t => t.tbState = 1 ∧ t.holdover = false ∧
      t.rd b F.Tb.HOLDINFO.LAST = (s.cycle - s.tbs.holdFrom) % 2 ^ 48 ∧ t.tbs.phase = 0 ∧
      (∀ a l, s.holdLog = (a, none) :: l → t.holdLog = (a, some s.nowFt) :: l) ∧
      marked t (fun m => m.ref = stampAt s.nowFt) ∧ MemKept s t)) ∧
    ((st = 0 ∨ st = 4) → s.rd b F.Tb.TBSTAT.REFOK = 1 → Runs .firstLock s (fun t => t.tbState = 1 ∧ MemKept s t)) ∧
    (st = 0 → s.rd b F.Tb.TBSTAT.REFOK = 0 → 100000000 ≤ s.cycle → Runs .freerunTimeout s (fun t => t.tbState = 4 ∧
      RegsKept [b + 0x10] s t ∧ MemKept s t)) ∧
    (∀ v, s.rd b F.Tb.TBCFG.REFSEL ≠ b2n v →
      (s.armed 1 = true → s.sealed = false → Runs (.refselWrite v) s (fun t => t.rd b F.Tb.TBCFG.REFSEL = b2n v ∧ lost 3 t ∧
        t.rd b F.Tb.TBSTAT.ALIGNPEND = 0 ∧ t.tbs.loadAt = none)) ∧
      (s.armed 1 = false → Runs (.refselWrite v) s (fun t => Held b F.Tb.TBCFG.REFSEL s t ∧
        t.rd bCtl F.Ctl.ERR.LOCKVIOL = 1 ∧ t.tbs = s.tbs ∧ MemKept s t)))

/-- ALIGN arms, ALIGNCAN disarms and SPLICE starts; a TSYNC edge is stamped into TSLAST, and captured by an
alignment, taken by a splice or tracked; the load sets the count to EPLOAD + 64 and closes gates; the epoch tick
applies OFS (R298-R302; the number of an edge in a splice, its result at the tick, and ALIGNCAN: log 95, log 96, log
97). -/
def Obligations.AlignmentCompletes : Prop :=
  ∀ (s : State), s.phase = .running →
    let b := bTb
    let tol : Int := s.rd b F.Tb.TSCFG.TOL
    let nearestInt := fun (n d : Int) => if 0 ≤ n then (2 * n + d) / (2 * d) else -((d - 2 * n) / (2 * d))
    Runs .tbctlAlign s (fun t => t.rd b F.Tb.TBSTAT.ALIGNPEND = 1 ∧ t.tbs = s.tbs ∧ RegsKept [b + 0x10] s t ∧ MemKept s t) ∧
    Runs .tbctlAligncan s (fun t => t.rd b F.Tb.TBSTAT.ALIGNPEND = 0 ∧ t.tbs.loadAt = none ∧ RegsKept [b + 0x10] s t ∧
      MemKept s t) ∧
    (s.tbs.splice = none → Runs .tbctlSplice s (fun t => t.tbs.splice = some (Splice.mk none [] false) ∧
      RegsKept [] s t ∧ MemKept s t)) ∧
    (∀ x, s.tbs.splice = some x → x.ds ≠ [] → Runs .tbctlSplice s (fun t => t.tbs = s.tbs ∧ RegsKept [b + 0x60] s t ∧
      MemKept s t)) ∧
    (∀ fine : Fin 512, let e := s.nowFt + fine
      let stamped := fun t : State => t.reg (b + 0x68) = (stampAt e ||| 1#64) ∧ MemKept s t
      let pend := s.rd b F.Tb.TBSTAT.ALIGNPEND
      (pend = 1 → s.tbs.loadAt = none → Runs (.tsyncEdge fine) s (fun t => stamped t ∧
        t.tbs.loadAt = some ((s.coarse + 64) % 2 ^ 52, (fine : Nat), s.holdover) ∧
        (s.tbs.base = none → RegsKept [b + 0x68] s t))) ∧
      (∀ x, pend = 0 → s.tbs.splice = some x →
        let base := x.base.getD (e / 512)
        let ds := delta (512 * (base + x.ds.length * s.tsPer)) e :: x.ds
        let d0 := ds.getLast?.getD 0
        (ds.length < s.splEdges → Runs (.tsyncEdge fine) s (fun t => stamped t ∧
          t.tbs.splice = some (Splice.mk (some base) ds (x.hold || s.holdover)) ∧
          (s.tbs.base = none → RegsKept [b + 0x68] s t))) ∧
        (s.splEdges ≤ ds.length → (∀ d ∈ ds, d - d0 ≤ tol ∧ d0 - d ≤ tol) → Runs (.tsyncEdge fine) s (fun t => stamped t ∧
          t.tbs.splice = none ∧ t.rd b F.Tb.SPLSTAT.SPLHOLD = b2n (x.hold || s.holdover) ∧
          t.tbs.newOfs = some (s.rdInt b F.Tb.TSCFG.TSDLY - nearestInt ds.sum ds.length, base))) ∧
        (s.splEdges ≤ ds.length → (∃ d ∈ ds, tol < d - d0 ∨ tol < d0 - d) → Runs (.tsyncEdge fine) s (fun t => stamped t ∧
          t.tbs.splice = none ∧ t.rd b F.Tb.SPLSTAT.RESULT = 2 ∧ t.tbs.newOfs = s.tbs.newOfs ∧ t.ofs = s.ofs))) ∧
      (∀ c, s.tbs.base = some c → Runs (.tsyncEdge fine) s (fun t => stamped t ∧
        ∃ dev : Int, t.rd b F.Tb.SPLSTAT.DEV = ofSigned 32 dev ∧
          (let off := delta (512 * c) e - (s.rdInt b F.Tb.TSCFG.TSDLY - s.ofs)
           dev = off - 512 * s.tsPer * nearestInt off (512 * s.tsPer)) ∧
          ((tol < dev ∨ dev < -tol) → t.rd b F.Tb.SPLSTAT.SLIP = 1 ∧ t.tbs.track = s.tbs.track) ∧
          (¬ (tol < dev ∨ dev < -tol) → Held b F.Tb.SPLSTAT.SLIP s t ∧ (s.rd b F.Tb.TSCFG.TRACK = 1 →
            t.tbs.track = if 0 < dev then -1 else if dev < 0 then 1 else 0)) ∧ t.ofs = s.ofs)) ∧
      (pend = 0 → s.tbs.splice = none → s.tbs.base = none → Runs (.tsyncEdge fine) s (fun t => stamped t ∧ t.tbs = s.tbs ∧
        RegsKept [b + 0x68] s t))) ∧
    (∀ fine hold, s.tbs.loadAt = some (s.coarse, fine, hold) → s.coarse < 2 ^ 52 → Runs .coarseLoad s (fun t =>
      t.coarse = (s.rd b F.Tb.EPLOAD + 64) % 2 ^ 52 ∧ t.reg (b + 0x48) = s.reg (b + 0x40) ∧
      t.rd b F.Tb.TBSTAT.ALIGNED = 1 ∧ t.rd b F.Tb.TBSTAT.ALIGNPEND = 0 ∧ t.tbs.loadAt = none ∧
      (s.commits = [] → ∀ k j o, k < 32 → j < 64 → (s.slot k j).opn = some o →
        ∃ f ∈ (t.slot k j).fins, f.o = o ∧ f.c = s.nowFt ∧ f.epj = true) ∧
      (∀ i, i < 64 → s.strOn i = true → ∃ r ∈ (t.strm i).queue, r.kind = 5 ∧ r.ref = stampAt (t.coarse * 512)) ∧
      t.cycle = s.cycle ∧ MemKept s t)) ∧
    (s.coarse % 1000 = 0 → s.commits = [] →
      (∀ v c, s.tbs.newOfs = some (v, c) → Runs .epochTick s (fun t => t.rd b F.Tb.SPLOFS = ofSigned 32 v ∧
        t.rd b F.Tb.SPLSTAT.RESULT = 1 ∧ Grew b F.Tb.SPLSTAT.SPLSEQ 1 s t ∧ t.tbs.base = some c ∧ t.tbs.newOfs = none ∧
        (∀ i, i < 64 → s.strOn i = true → ∃ r ∈ (t.strm i).queue, r.kind = 5 ∧ r.ref = stampAt s.nowFt) ∧ MemKept s t)) ∧
      (s.tbs.newOfs = none → s.tbs.track ≠ 0 → Runs .epochTick s (fun t =>
        t.rd b F.Tb.SPLOFS = ofSigned 32 (s.ofs + s.tbs.track) ∧ t.tbs.track = 0 ∧ MemKept s t)) ∧
      (s.tbs.newOfs = none → s.tbs.track = 0 → s.tbs.pllNext = none → Runs .epochTick s (fun t => t = s)))

/-! ### The LANYARD ring (R303-R318) -/

/-- A port comes up with the credits it is given and goes down with its buffers; LINKCTL acknowledges, returns credits and
asks for a replay; a bad packet is asked for again, and one of unknown kind is dropped (R304, R305, R307-R309, R443; that a
port which will not train, or is as the event would make it, stays as it is: log 3). -/
def Obligations.LinkCommandsComplete : Prop :=
  ∀ (s : State) (q : Fin 2), s.phase = .running →
    let b := bLp q
    let x := s.lp q
    (s.trains q = false → ∀ credits, Runs (.portUp q credits) s (fun t => t = s)) ∧
    (s.trains q = true → s.portUp q = false → s.scanOn = false → s.domOn (80 + 2 * (q : Nat)) = true →
      s.domOn (81 + 2 * (q : Nat)) = true →
      let given := [64, 64, 32, 1024]
      Runs (.portUp q given) s (fun t => t.portUp q = true ∧ t.rd b F.Lnk.PSTAT.TRAINING = 0 ∧
        t.rd b F.Lnk.PSTAT.LANELOCK = 255 ∧ t.rd b F.Lnk.PSTAT.BROKEN = 0 ∧
        (∀ v n, given[v]? = some n → t.rd (bCred q v) F.Lnk.PCRED.INIT = n ∧
          (v ≠ 2 → x.sendQ = [] → t.rd (bCred q v) F.Lnk.PCRED.AVAIL = n ∧ t.rd (bCred q v) F.Lnk.PCRED.OUT = 0)) ∧
        (t.lp q).rxSeq = 0 ∧ MemKept s t ∧
        (∀ count, s.conflict = false → s.rd bLnk F.Lnk.LSTAT.READY = 0 → s.lnk.token = some ((q : Nat), count) →
          Sent q 0x40 [count + 1, b2n ((q : Nat) == 1), 0] t)) ∧
      ∀ credits, credits ≠ given → Runs (.portUp q credits) s (fun t => t = s)) ∧
    (s.portUp q = true → (∃ l ∈ x.lost, l.2 + 10000 < s.cycle) → Runs (.portDown q) s (fun t => t.portUp q = false ∧
      t.rd b F.Lnk.PSTAT.TRAINING = 1 ∧ t.rd b F.Lnk.PSTAT.LANELOCK = 0 ∧ Grew b F.Lnk.PSTAT.DOWNS 1 s t ∧
      Grew b F.Lnk.PDROP (x.replay.length + x.rx.length) s t ∧ (∀ v, v < 4 → t.rd (bCred q v) F.Lnk.PCRED.RXUSED = 0) ∧
      (∃ w, t.lp q = { sendQ := w } ∧ (s.portUp (1 - (q : Nat)) = true → w = [])) ∧
      (∀ h ∈ t.lnk.held, ∀ l, h.1 ≠ some ((q : Nat), l)) ∧ (∀ i, i < 64 → ∀ y ∈ (t.strm i).ring, y.sent = false) ∧
      (s.isHead = true → s.conflict = false → s.rd bLnk F.Lnk.LSTAT.READY = 1 → t.rd bLnk F.Lnk.LSTAT.MODE = 2) ∧
      MemKept s t)) ∧
    ((∀ l ∈ x.lost, s.cycle ≤ l.2 + 10000) → Runs (.portDown q) s (fun t => t = s)) ∧
    (s.portUp q = true → x.sendQ = [] → ∀ (ack : BitVec 16) (vc : Fin 4) units, let c := bCred q vc
      let back := min units (s.rd c F.Lnk.PCRED.OUT)
      let kept := fun last : Nat => x.replay.filter (fun p => decide (2 ^ 15 ≤ (last + 2 ^ 16 - p.lseq) % 2 ^ 16))
      let prev := (ack.toNat + 2 ^ 16 - 1) % 2 ^ 16
      (x.fails ≤ 16 → Runs (.linkctl q ack false vc units) s (fun t => (t.lp q).replay = kept ack.toNat ∧
        t.rd c F.Lnk.PCRED.OUT = s.rd c F.Lnk.PCRED.OUT - back ∧ Grew c F.Lnk.PCRED.AVAIL back s t ∧ MemKept s t)) ∧
      (x.fails < 16 → Runs (.linkctl q ack true vc units) s (fun t => (t.lp q).replay = kept prev ∧
        Grew b F.Lnk.PRETRY 1 s t ∧ (∀ p ∈ kept prev, Out.packet p p.wire ∈ t.outbox) ∧ MemKept s t)) ∧
      (x.fails = 16 → kept prev = x.replay → Runs (.linkctl q ack true vc units) s (fun t => t.portUp q = false ∧
        Grew b F.Lnk.PSTAT.DOWNS 1 s t ∧ MemKept s t))) ∧
    (∀ lane : Fin 8, s.portUp q = true →
      ((∀ l ∈ x.lost, l.1 ≠ lane) → Runs (.blockLockLoss q lane) s (fun t => t.bit b F.Lnk.PSTAT.LANELOCK lane = false ∧
        t.lp q = { x with lost := ((lane : Nat), s.cycle) :: x.lost } ∧ t.portUp q = true ∧ RegsKept [b + 0x40] s t ∧
        MemKept s t)) ∧
      (∀ l c, x.lost.find? (fun l => l.1 == (lane : Nat)) = some (l, c) → s.cycle ≤ c + 10000 →
        Runs (.blockLockRegain q lane) s (fun t => t.bit b F.Lnk.PSTAT.LANELOCK lane = true ∧
          (∀ y ∈ (t.lp q).lost, y.1 ≠ lane) ∧ RegsKept [b + 0x40] s t ∧ MemKept s t))) ∧
    (s.portUp q = true → Runs (.packetCrcError q) s (fun t => (∃ p, t.outbox = Out.packet p p.wire :: s.outbox ∧ p.kind = 1 ∧
      p.dir = q ∧ p.tag = x.rxSeq + 2 ^ 16) ∧ t.lps = s.lps ∧ RegsKept [] s t ∧ MemKept s t)) ∧
    (∀ (h : PktHdr) (kind : BitVec 8), InOrder h s → h.port = q → kind.toNat ∉ knownKinds →
      Runs (.unknownPacket h kind) s (fun t => Grew b F.Lnk.PDROP 1 s t ∧ (t.lp q).rxSeq = (x.rxSeq + 1) % 2 ^ 16 ∧
        RegsKept [b + 0x58, bCred q h.vc + F.Lnk.PCRED.RXUSED.off] s t ∧ MemKept s t ∧
        ((∀ e ∈ x.rx, e.seq ≠ h.lseq.toNat) → (t.lp q).rx = x.rx ∧ ∃ p, Out.packet p p.wire ∈ t.outbox ∧ p.kind = 1 ∧
          p.dir = q ∧ p.vc = h.vc ∧ p.payload = [(h.len : Nat)])))

/-- Scheduled actions, signals, interrupts and register accesses between the positions (R209, R298, R311-R313, R400). -/
def Obligations.RingCommandsComplete : Prop :=
  ∀ (s : State), s.phase = .running →
    (∀ (h : PktHdr) (at_ : Nat) (action : Nat) (arg : BitVec 8) (sender : Nat), Arrives h s →
      let late := s.reached (at_ % 2 ^ 52)
      let d := toSigned 48 ((s.coarse48 + 2 ^ 48 - sender % 2 ^ 48) % 2 ^ 48)
      let run := Runs (.sched h at_ action arg sender) s
      run (fun t => ((d < -1000 ∨ 20000 < d) → t.rd bLnk F.Lnk.LSTAT.EPOCHDIFF = 1) ∧ MemKept s t) ∧
      (action = 1 → late = false → s.lnk.schedQ.length < 32 → run (fun t =>
        t.lnk.schedQ = s.lnk.schedQ ++ [Sched.mk 1 (at_ % 2 ^ 52) arg.toNat] ∧
        t.rd bLnk F.Lnk.SCHEDQ.DEPTH = s.lnk.schedQ.length + 1)) ∧
      (action = 1 → late = false → 32 ≤ s.lnk.schedQ.length → run (fun t => t.lnk.schedQ = s.lnk.schedQ ∧
        t.lnk.held = s.lnk.held ++ [(some ((h.port : Nat), h.lseq.toNat), Sched.mk 1 (at_ % 2 ^ 52) arg.toNat)])) ∧
      (action = 1 → late = true → run (fun t => t.rd bLnk F.Lnk.LSTAT.SCHEDLATE = 1 ∧ t.lnk.schedQ = s.lnk.schedQ)) ∧
      (action = 2 → late = true → s.takesPart (arg.toNat % 4) = true → run (fun t => t.domState (arg.toNat % 4) = 2 ∧
        t.rd (bDom (arg.toNat % 4)) F.Trs.DSTAT.ARMLATE = 1 ∧ t.rd bLnk F.Lnk.LSTAT.SCHEDLATE = 1)) ∧
      (action = 3 → late = true → s.takesPart (arg.toNat % 4) = true → run (fun t => t.domState (arg.toNat % 4) = 0)) ∧
      (action = 4 → run (fun t => t.rd bTb F.Tb.TBSTAT.ALIGNPEND = 1))) ∧
    (∀ a g, s.lnk.schedQ.find? (fun a => a.act == 1 && s.reached ((a.at_ + coarseMod - 64) % coarseMod)) = some a →
      s.lnk.held = [] → g < 8 → a.arg = 2 ^ g → s.unitsOf g ≠ [] → Runs .schedHitchCommit s (fun t => t.lnk.schedQ = s.lnk.schedQ.erase a ∧
        (∃ c ∈ t.commits, c.group = g ∧ c.at_ = some a.at_ ∧ c.snap = s.staged0) ∧ MemKept s t)) ∧
    (∀ (h : PktHdr) (mask : BitVec 32), Arrives h s → Runs (.signalPacket h mask) s (fun t => (∀ k, k < 32 →
      (t.eng k).signalEv = (mask.getLsbD k || (s.eng k).signalEv)) ∧ MemKept s t)) ∧
    (∀ h : PktHdr, Arrives h s → s.isHead = true → s.domOn 84 = true → Runs (.irqPacket h) s (fun t =>
      t.bit (bHif + 8 * (h.src : Nat)) F.Hif.IRQPEND (h.tag.toNat % 64) = true ∧ MemKept s t)) ∧
    (s.isHead = true → s.reached (s.rd bLnk F.Lnk.SHITCH.AT) = false → s.lnk.schedQ.length < 32 → Runs .lctlShitch s (fun t =>
      t.lnk.schedQ = s.lnk.schedQ ++ [Sched.mk 1 (s.rd bLnk F.Lnk.SHITCH.AT) (s.rd bLnk F.Lnk.SHITCH.MASK)] ∧
      (s.rd bLnk F.Lnk.LSTAT.READY = 1 → ∀ q, q < 2 → s.portUp q = true →
        Sent q 0x20 [s.rd bLnk F.Lnk.SHITCH.AT, 1, s.rd bLnk F.Lnk.SHITCH.MASK, s.coarse48] t) ∧
      (s.rd bLnk F.Lnk.LSTAT.READY = 0 → t.outbox = s.outbox ∧ t.lps = s.lps) ∧ MemKept s t)) ∧
    (s.isHead = true → Runs .lctlSalign s (fun t => t.rd bTb F.Tb.TBSTAT.ALIGNPEND = 1 ∧ MemKept s t)) ∧
    (s.isHead = false → ∀ c, (c = Instr.lctlShitch ∨ c = Instr.lctlSalign) →
      Runs c s (fun t => RegsKept [] s t ∧ t.lnk = s.lnk ∧ MemKept s t)) ∧
    (∀ (h : PktHdr) (off : BitVec 23) (wide : Bool) (w : Word), Arrives h s → h.bcast = false →
      let answered := fun (write : Bool) (w : Word) (t : State) => ∃ u : State,
        RegsKept [bCred h.port h.vc + F.Lnk.PCRED.RXUSED.off] s u ∧ u.staged = s.staged ∧
        u.tables = s.tables ∧ u.hbm = s.hbm ∧ u.cycle = s.cycle ∧ u.free = s.free ∧
        let r := localAccess off.toNat wide write w u
        t = releaseRx (some ((h.port : Nat), h.lseq.toNat)) (sendTo 0x12 h.tag.toNat h.src 2 [r.2.1.toNat, r.2.2] r.1)
      Runs (.rread h off wide) s (answered false 0#64) ∧ Runs (.rwrite h off wide w) s (answered true w)) ∧
    (∀ (h : PktHdr) (w : Word) (st : Fin 4) x, Arrives h s → s.lnk.tuns.find? (fun y => y.tag == h.tag.toNat) = some x →
      Runs (.rresp h w st) s (fun t => (∀ y ∈ t.lnk.tuns, y.tag ≠ h.tag.toNat) ∧ MemKept s t ∧
        (if st = 3 then Out.tunnelDone h.tag.toNat (lostData x.write) 3 else Out.tunnelDone h.tag.toNat w st) ∈ t.outbox)) ∧
    (∀ (p : Fin 64) (off : BitVec 23) wide write w, s.isHead = true → s.domOn 84 = true →
      let run := Runs (.tunnelAccess p off wide write w) s
      ((p : Nat) = s.pos → run (fun t => ∃ d st rest, t.outbox = Out.tunnelDone s.lnk.rtag d st :: rest)) ∧
      ((p : Nat) ≠ s.pos → (s.rd bLnk F.Lnk.LSTAT.READY = 0 ∨ s.rd bLnk F.Lnk.LSTAT.N ≤ p ∨ s.cutOff p = true) → run (fun t =>
        t.rd bLnk F.Lnk.LSTAT.NOPOS = 1 ∧ t.outbox = Out.tunnelDone s.lnk.rtag (lostData write) 3 :: s.outbox ∧ MemKept s t)) ∧
      ((p : Nat) ≠ s.pos → s.rd bLnk F.Lnk.LSTAT.READY = 1 → (p : Nat) < s.rd bLnk F.Lnk.LSTAT.N → s.cutOff p = false → run (fun t =>
        t.lnk.tuns = s.lnk.tuns ++ [Tun.mk s.lnk.rtag p write s.cycle] ∧ MemKept s t ∧
        (s.portUp 0 = true → s.portUp 1 = true → ∃ q, Sent q (if write then 0x11 else 0x10)
          ([off.toNat + 2 ^ 23 * b2n wide] ++ if write then [w.toNat] else []) t)))) ∧
    (∀ x rest, s.lnk.tuns = x :: rest → x.at_ + 45000 ≤ s.cycle → Runs .tunnelTimeout s (fun t => t.lnk.tuns = rest ∧
      t.rd bLnk F.Lnk.LSTAT.RLOST = 1 ∧ t.outbox = Out.tunnelDone x.tag (lostData x.write) 4 :: s.outbox ∧ MemKept s t))

/-- Discovery: a device takes the count as its position and passes the token on, or holds it and declares a break;
the head verifies, completes, starts again on an error, and alone is ready at once (R315-R318; reports of breaks and
a failed VERIFY: log 99). -/
def Obligations.DiscoveryComplete : Prop :=
  ∀ (s : State), s.phase = .running →
    let b := bLnk
    let unready := fun t : State => t.rd b F.Lnk.LSTAT.READY = 0 ∧ MemKept s t
    let started := fun t : State => t.rd b F.Lnk.LSTAT.READY = 0 ∧ t.rd b F.Lnk.LSTAT.POS = 0 ∧ t.lnk.cwCount = 0 ∧
      (s.portUp 0 = true → Sent 0 0x40 [1, 0, 0] t) ∧ (s.portUp 0 = false → t.lnk.token = some (0, 0)) ∧ MemKept s t
    let chief := s.isHead = true ∧ s.rd b F.Lnk.LSTAT.HEADCONFLICT = 0
    (∀ (h : PktHdr) (count : Nat), InOrder h s → let n := count % 128
      let passes := fun (q prov : Nat) (t : State) => (s.portUp q = true → Sent q 0x40 [n + 1, prov, 0] t) ∧
        (s.portUp q = false → s.breakDue = false → t.lnk.token = some (q, n)) ∧
        (s.portUp q = false → s.breakDue = true → t.rd (bLp q) F.Lnk.PSTAT.BROKEN = 1 ∧ t.lnk.token = none ∧
          (s.portUp (1 - q) = true → Sent (1 - q) 0x40 [n, prov, 1] t))
      (s.isHead = false →
        Runs (.disc h count false false false) s (fun t => t.rd b F.Lnk.LSTAT.POS = n % 64 ∧
          t.rd b F.Lnk.LSTAT.NOHEAD = 0 ∧ t.lnk.tokenSeen = true ∧ passes 0 0 t ∧ unready t) ∧
        Runs (.disc h count true false false) s (fun t => t.lnk.provIdx = some n ∧ passes 1 1 t ∧ unready t) ∧
        (∀ prov, s.portUp (1 - (h.port : Nat)) = true → Runs (.disc h count prov true false) s (fun t =>
          Sent (1 - (h.port : Nat)) 0x40 [n, b2n prov, 1] t ∧ MemKept s t))) ∧
      (chief →
        Runs (.disc h count false false true) s (fun t => t.rd b F.Lnk.LSTAT.HEADCONFLICT = 1 ∧
          RegsKept [b + 8, bCred h.port h.vc + F.Lnk.PCRED.RXUSED.off] s t ∧ MemKept s t) ∧
        Runs (.disc h count false false false) s (fun t => t.lnk.mode = 1 ∧ t.lnk.count = n ∧ t.lnk.verified = 1 ∧
          (s.portUp 1 = true → Sent 1 0x42 [n, 0] t) ∧ MemKept s t) ∧
        (s.rd b F.Lnk.LSTAT.READY = 0 → h.port = 0 → s.lnk.stage = 1 → n ≠ 0 → s.portUp 1 = true →
          Runs (.disc h count false true false) s (fun t => t.lnk.cwCount = n ∧ t.lnk.brks = [n] ∧
            Sent 1 0x40 [1, 1, 0] t ∧ MemKept s t)) ∧
        (s.rd b F.Lnk.LSTAT.READY = 0 → (h.port ≠ 0 ∨ s.lnk.stage ≠ 1 ∨ n = 0) →
          Runs (.disc h count false true false) s started) ∧
        (s.rd b F.Lnk.LSTAT.READY = 0 → s.portUp 1 = true → Runs (.disc h count true true false) s (fun t =>
          t.lnk.count = s.lnk.cwCount + 1 + n ∧ Sent 1 0x41 [s.lnk.cwCount + 1 + n] t ∧ MemKept s t)) ∧
        (s.rd b F.Lnk.LSTAT.READY = 1 → Runs (.disc h count false true false) s (fun t =>
          t.rd b F.Lnk.LSTAT.MODE = 2 ∧ Held b F.Lnk.LSTAT.N s t ∧ MemKept s t)) ∧
        (s.rd b F.Lnk.LSTAT.READY = 1 → Runs (.disc h count true true false) s (fun t =>
          t.lnk.mode = 1 ∧ t.lnk.count = s.rd b F.Lnk.LSTAT.N ∧
          (s.portUp 1 = true → Sent 1 0x42 [s.rd b F.Lnk.LSTAT.N, 0] t) ∧ MemKept s t)))) ∧
    (∀ (h : PktHdr) (n : Nat), InOrder h s →
      (∀ j, s.isHead = false → h.port = 0 → s.lnk.provIdx = some j → Runs (.fixup h n) s (fun t =>
        t.rd b F.Lnk.LSTAT.POS = (n % 128 - j) % 64 ∧ t.lnk.provIdx = none ∧
        Sent (if s.portUp 1 then 1 else 0) 0x41 [n % 128] t ∧ MemKept s t)) ∧
      (chief → Runs (.fixup h n) s (fun t => t.lnk.mode = 2 ∧ t.lnk.count = n % 128 ∧
        t.lnk.verified = b2n (s.portUp 0) + b2n (s.portUp 1) ∧ MemKept s t))) ∧
    (∀ (h : PktHdr) (n sender : Nat), InOrder h s → let ok := fits h.port (n % 128) (sender % 128) s.pos
      let round := s.lnk.mode = 1 ∧ h.port = 1
      (chief →
        (s.lnk.stage ≠ 5 → Runs (.verify h n sender) s (fun t => t.lnk.verified = s.lnk.verified ∧
          Held b F.Lnk.LSTAT.READY s t ∧ Held b F.Lnk.LSTAT.DISCERR s t ∧ MemKept s t)) ∧
        (s.lnk.stage = 5 → ok = false → Runs (.verify h n sender) s (fun t => t.rd b F.Lnk.LSTAT.DISCERR = 1 ∧ started t)) ∧
        (s.lnk.stage = 5 → ok = true → round → Runs (.verify h n sender) s (fun t => t.rd b F.Lnk.LSTAT.READY = 1 ∧
          t.rd b F.Lnk.LSTAT.MODE = 2 ∧ t.rd b F.Lnk.LSTAT.N = s.lnk.count % 2 ^ 7 ∧ MemKept s t)) ∧
        (s.lnk.stage = 5 → ¬ round → ok = true → s.lnk.verified ≤ 1 → Runs (.verify h n sender) s (fun t => t.rd b F.Lnk.LSTAT.READY = 1 ∧
          t.rd b F.Lnk.LSTAT.MODE = s.lnk.mode % 4 ∧ t.rd b F.Lnk.LSTAT.N = s.lnk.count % 2 ^ 7 ∧
          (s.rd b F.Lnk.DISCFG.EXPECT ≠ 0 → s.rd b F.Lnk.DISCFG.EXPECT ≠ s.lnk.count → t.rd b F.Lnk.LSTAT.NMISMATCH = 1) ∧
          MemKept s t)) ∧
        (s.lnk.stage = 5 → ¬ round → ok = true → 1 < s.lnk.verified → Runs (.verify h n sender) s (fun t =>
          t.lnk.verified = s.lnk.verified - 1 ∧ MemKept s t))) ∧
      (s.isHead = false → Runs (.verify h n sender) s (fun t =>
        Sent (if s.portUp (1 - (h.port : Nat)) then 1 - (h.port : Nat) else h.port) 0x42
          [n % 128, if ok then s.pos else 127] t ∧ MemKept s t))) ∧
    (∀ (h : PktHdr) (n mode : Nat), Arrives h s → Runs (.done h n mode) s (fun t =>
      t.rd b F.Lnk.LSTAT.READY = 1 ∧ t.rd b F.Lnk.LSTAT.N = n % 128 ∧ t.rd b F.Lnk.LSTAT.MODE = mode % 4 ∧
      Grew b F.Lnk.LSTAT.DISCSEQ (1 - s.rd b F.Lnk.LSTAT.READY) s t ∧ MemKept s t)) ∧
    (∀ (q : Fin 2) count, s.lnk.token = some ((q : Nat), count) → s.breakDue = true → s.portUp q = false →
      let declared := fun t : State => t.rd (bLp q) F.Lnk.PSTAT.BROKEN = 1 ∧ t.lnk.token = none ∧ MemKept s t
      (s.isHead = false → Runs (.breakDeclare q) s (fun t => declared t ∧
        (s.portUp (1 - (q : Nat)) = true → Sent (1 - (q : Nat)) 0x40 [count, b2n ((q : Nat) == 1), 1] t))) ∧
      (chief → q = 0 → s.portUp 1 = true → Runs (.breakDeclare q) s (fun t => declared t ∧ t.lnk.cwCount = 0 ∧
        Sent 1 0x40 [1, 1, 0] t)) ∧
      (chief → q = 0 → s.portUp 1 = false → Runs (.breakDeclare q) s (fun t => declared t ∧
        t.rd (bLp 1) F.Lnk.PSTAT.BROKEN = 1 ∧ t.rd b F.Lnk.LSTAT.READY = 1 ∧ t.rd b F.Lnk.LSTAT.MODE = 3 ∧
        t.rd b F.Lnk.LSTAT.N = 1)) ∧
      (chief → q = 1 → s.portUp 0 = true → Runs (.breakDeclare q) s (fun t => declared t ∧
        t.lnk.count = s.lnk.cwCount + 1 ∧ Sent 0 0x42 [s.lnk.cwCount + 1, 0] t))) ∧
    (∀ c, s.thms.pwrAt = some c → s.isHead = false → s.lnk.tokenSeen = false → c + 20000000 ≤ s.cycle →
      Runs .noheadTimeout s (fun t => t.rd b F.Lnk.LSTAT.NOHEAD = 1 ∧ RegsKept [b + 8] s t ∧ MemKept s t)) ∧
    (chief → Runs .lctlRedisc s started) ∧
    (s.isHead = false → Runs .lctlRedisc s (fun t => RegsKept [] s t ∧ t.lnk = s.lnk ∧ MemKept s t))

/-! ### Calibration (R29-R31, R60, R320-R343) -/

/-- What is measured of a vernier unit, a delay line, a comparator path, a level DAC and the PLL, and what an accepted and
a rejected measurement lead to; a calibrated path swaps in when both have agreed for 16 ns (R31, R322-R329, R333; that what
is not due changes nothing: log 3; the order of the comparators outside a run and the values of a swap: log 106, log 108). -/
def Obligations.UnitCalibrationCompletes : Prop :=
  ∀ (s : State) (k : Fin 32), s.phase = .running →
    let z := s.skein k
    let st := bCal + 8 * (k : Nat)
    let rejected := fun t : State => Grew bCal F.Cal.CREJECT 1 s t ∧ MemKept s t
    (s.calOn k = true →
      ((∃ u ∈ z.units, u.st = .inService) → s.unitCount k .failed + s.unitCount k .inCal < 4 →
        (∀ i u, oldestUnit z.units 0 = some (i, u) → u.freeFor s.tapNow = true) → Runs (.vernierWithdraw k) s (fun t =>
          ∃ i : Nat, ∃ u : VUnit, z.units[i]? = some u ∧ u.st = .inService ∧ (∀ v ∈ z.units, v.st = .inService → u.calAt ≤ v.calAt) ∧
            (t.skein k).units[i]? = some { u with st := .inCal, calStart := s.cycle, outAt := some s.tapNow } ∧
            (∀ j, j ≠ i → (t.skein k).units[j]? = z.units[j]?) ∧ MemKept s t)) ∧
      (∀ (u : Fin 52) v h, z.units[(u : Nat)]? = some v → v.st = .inCal → v.calStart + 1350000 ≤ s.cycle →
        (s.unitCount k .failed + s.unitCount k .inCal < 4 → Runs (.vernierCalComplete k u h) s (fun t => t = s)) ∧
        (4 ≤ s.unitCount k .failed + s.unitCount k .inCal →
        (vernPlausible h = true → Runs (.vernierCalComplete k u h) s (fun t => t.rd st F.Cal.CSKSTAT.VT = 1 ∧ MemKept s t ∧
          ∃ w, (t.skein k).units[(u : Nat)]? = some w ∧ w.st = .inService ∧ w.rejects = 0 ∧ w.calAt = s.cycle ∧
            ∀ i, i < 16 → (w.table[i]?).getD 0 = oneToward ((v.table[i]?).getD 0) (vernEntry h i))) ∧
        (vernPlausible h = false → v.rejects + 1 < 3 → Runs (.vernierCalComplete k u h) s (fun t =>
          t.rd st F.Cal.CSKSTAT.VT = 2 ∧ rejected t ∧ ∃ w, (t.skein k).units[(u : Nat)]? = some w ∧ w.st = .inService ∧
            w.rejects = v.rejects + 1 ∧ w.table = v.table)) ∧
        (vernPlausible h = false → 3 ≤ v.rejects + 1 → Runs (.vernierCalComplete k u h) s (fun t =>
          t.rd st F.Cal.CSKSTAT.VT = 6 ∧ rejected t ∧ ∃ w, (t.skein k).units[(u : Nat)]? = some w ∧ w.st = .failed)))) ∧
      (∀ h : List Nat, z.run = none → s.rd bCal F.Cal.CCFG.DL_EN = 1 → z.passAt + 10000000 ≤ s.cycle → h.length = 32 →
        0 < h.sum →
        let locked := s.dllLock k = true ∧ z.lockSince + 1310720 ≤ s.cycle
        let far := h.any (fun x => decide (512 * x < 8 * h.sum ∨ 24 * h.sum < 512 * x))
        (locked → far = false → Runs (.dlcellPass k h) s (fun t => t.rd st F.Cal.CSKSTAT.DL = 1 ∧
          (t.skein k).passAt = s.cycle ∧ (t.skein k).cells = z.cells ∧
          (∀ i, i < 32 → 2 * tapErr h.sum ((h[i]?).getD 0) ≤ h.sum →
            ((t.skein k).cellTarget[i]?).getD 0 = (z.cells[i]?).getD 0) ∧
          (∀ i, i < 32 → h.sum < 2 * tapErr h.sum ((h[i]?).getD 0) →
            let c := (z.cells[i]?).getD 0
            let d := ((t.skein k).cellTarget[i]?).getD 0
            (0 < c % 16 → c % 16 < 15 → d = c + 1 ∨ d + 1 = c) ∧
            (d / 16 ≠ c / 16 → h.sum < tapErr h.sum ((h[i]?).getD 0)) ∧ (d / 16 = c / 16 → d = c ∨ d = c + 1 ∨ d + 1 = c)) ∧
          MemKept s t)) ∧
        (locked → far = true → Runs (.dlcellPass k h) s (fun t => t.rd st F.Cal.CSKSTAT.DL = 2 ∧
          (t.skein k).cellTarget = z.cellTarget ∧ rejected t)) ∧
        (¬ locked → Runs (.dlcellPass k h) s (fun t => t.rd st F.Cal.CSKSTAT.DL = 5 ∧
          (t.skein k).cellTarget = z.cellTarget ∧ MemKept s t))) ∧
      (∀ i, i < 32 → z.cells.length = 32 → z.cells[i]? ≠ z.cellTarget[i]? → z.cellTarget.length = 32 →
        (∀ j, j < i → z.cells[j]? = z.cellTarget[j]?) → s.engRunning k = false → z.trimAt + 1000 ≤ s.cycle →
        Runs (.dlcellTrimStep k) s (fun t => (t.skein k).cells[i]? = z.cellTarget[i]? ∧
          (∀ j, j ≠ i → (t.skein k).cells[j]? = z.cells[j]?) ∧ (t.skein k).trimAt = s.cycle ∧ MemKept s t))) ∧
    (s.calOn k = false → (∀ h, Runs (.dlcellPass k h) s (fun t => t.rd st F.Cal.CSKSTAT.DL = 7 ∧ MemKept s t)) ∧
      Runs (.vernierWithdraw k) s (fun t => t.rd st F.Cal.CSKSTAT.VT = 7 ∧ MemKept s t)) ∧
    (∀ c : Fin 16, s.calOn k = true → s.domOn k = true →
      let g := 16 * (k : Nat) + c
      let x := s.chan g
      let a := s.rd (bCh g) F.Ch.PESTAT.ACTIVE_PATH
      let p := 1 - a
      (z.cmpNext ≠ c → x.calReady = false → z.run = none → ∀ ch cl, Runs (.cmppathCalComplete k c ch cl) s (fun t => t = s)) ∧
      (∀ ch cl : CmpCal, z.run = none → s.rd bCal F.Cal.CCFG.CMP_EN = 1 → z.cmpNext = c → z.cmpAt + 400000 ≤ s.cycle →
        s.pathFailed g p = false →
        let ok := cmpPlausible (s.rd bCal F.Cal.CLIMIT.OFS_MAX) (s.calHalf (rPath g p 1 + 3)) ch &&
          cmpPlausible (s.rd bCal F.Cal.CLIMIT.OFS_MAX) (s.calHalf (rPath g p 0 + 3)) cl && (thrPlausible ch && thrPlausible cl)
        (ok = true → Runs (.cmppathCalComplete k c ch cl) s (fun t => t.rd st F.Cal.CSKSTAT.CMP = 1 ∧
          t.rd st F.Cal.CSKSTAT.THR = 1 ∧ (t.chan g).calReady = true ∧
          ((x.calAt[p]?).isSome = true → (t.chan g).calAt[p]? = some s.cycle) ∧ (t.skein k).cmpNext = (c + 1) % 16 ∧
          t.calHalf (rPath g p 1 + 3) = ch.delayTrim ∧ t.calHalf (rPath g p 0 + 3) = cl.delayTrim ∧
          t.rd (bCh g) F.Ch.PESTAT.ACTIVE_PATH = a ∧ MemKept s t)) ∧
        (ok = false → (x.rejects[p]?).getD 0 < 2 → Runs (.cmppathCalComplete k c ch cl) s (fun t =>
          t.rd st F.Cal.CSKSTAT.CMP = 2 ∧ (t.chan g).calReady = false ∧ MemKept s t)) ∧
        (ok = false → 2 ≤ (x.rejects[p]?).getD 0 → Runs (.cmppathCalComplete k c ch cl) s (fun t =>
          t.rd st F.Cal.CSKSTAT.CMP = 6 ∧ t.pathFailed g p = true ∧ (t.chan g).calReady = false ∧ MemKept s t))) ∧
      (∀ agreed, agreed < 16 → Runs (.pathSwap k c agreed) s (fun t => t = s)) ∧
      (∀ agreed, x.calReady = true → 16 ≤ agreed → s.rd (bCh g) F.Ch.PESTAT.TRK_LOWSWING_CH = 0 →
        s.rd (bCh g) F.Ch.PESTAT.TRK_LOWSWING_CL = 0 → s.rd (bCh g) F.Ch.PESTAT.SETTLING = 0 → s.pathFailed g p = false →
        let per := max 1 (s.rd bCal F.Cal.CCFG.CMPPER) * 1000000
        (x.swapNow = true ∨ x.swapAt + per ≤ s.cycle) → s.cycle ≤ (x.calAt[p]?).getD 0 + 10 * per → Runs (.pathSwap k c agreed) s (fun t =>
          t.rd (bCh g) F.Ch.PESTAT.ACTIVE_PATH = 1 - a ∧ t.rd (bCh g) F.Ch.CAPTRIM.TRIM_CH = ofSigned 16 (s.calHalf (rPath g p 1 + 3)) ∧
          t.rd (bCh g) F.Ch.CAPTRIM.TRIM_CL = ofSigned 16 (s.calHalf (rPath g p 0 + 3)) ∧ (t.chan g).calReady = false ∧
          (t.chan g).swapAt = s.cycle ∧ MemKept s t)) ∧
      (∀ (j : Fin 4) (err : Int) old, z.run = none → s.rd bCal F.Cal.CCFG.LVL_EN = 1 → x.lvlTrim[(j : Nat)]? = some old →
        (x.lvlAt[(j : Nat)]?).getD 0 + 10000 ≤ s.cycle →
        (err.natAbs ≤ 160 → Runs (.lvldacTrimStep k c j err) s (fun t => t.rd st F.Cal.CSKSTAT.LVL = 1 ∧
          (t.chan g).lvlTrim[(j : Nat)]? = some (clampInt (-32768) 32767 (old - clampInt (-4) 4 err)) ∧ MemKept s t)) ∧
        (160 < err.natAbs → Runs (.lvldacTrimStep k c j err) s (fun t => t.rd st F.Cal.CSKSTAT.LVL = 2 ∧
          t.chans = s.chans ∧ rejected t)))) ∧
    (∀ (gain : Int) (code : BitVec 16), s.tbState = 1 → s.cals.pllAt ≤ s.cycle →
      (gain.natAbs ≤ 50 → Runs (.tbpllCal gain code) s (fun t => t.rd bCal F.Cal.CSTAT.PLLST = 1 ∧
        t.tbs.pllNext = (if code = s.tbs.pllCode then s.tbs.pllNext else some code) ∧ t.tbs.pllCode = s.tbs.pllCode ∧
        MemKept s t)) ∧
      (50 < gain.natAbs → Runs (.tbpllCal gain code) s (fun t => t.rd bCal F.Cal.CSTAT.PLLST = 2 ∧ t.tbs = s.tbs ∧
        rejected t)))

/-- Host and triggered runs, the driver deskew with its listens and pulses, the store of a record block by block, and
the record taken at power-up (R330-R332, R334, R338-R342; that what is not due changes nothing: log 3; the driver in
a deskew: log 161, log 162; what a store holds and when it stops: log 105; the runs held: log 109). -/
def Obligations.CalibrationRunsComplete : Prop :=
  ∀ (s : State), s.phase = .running →
    let stat := bCal + 0x28
    let sk := s.rd bCal F.Cal.CDSK.SK
    let named := (List.range 16).filter (fun c => (s.rd bCal F.Cal.CDSK.CHMASK).testBit c)
    let dskst := fun (c code : Nat) (t : State) => t.rd (bCal + 8 * (16 * sk + c)) F.Cal.CCHQ.DSKST = code
    (∀ k : Fin 32, (s.rd bCal F.Cal.CRUN.SKMASK).testBit k = true →
      let items := s.rd bCal F.Cal.CRUN.ITEMS % 16
      items ≠ 0 →
      (s.calOn k = true → s.domOn k = true → (s.skein k).run = none → Runs .calcmdRun s (fun t =>
        (t.skein k).run = some (CalRun.mk false false items 0 0) ∧ t.rd bCal F.Cal.CSTAT.BUSY = 1 ∧ MemKept s t)) ∧
      (∀ r, s.calOn k = true → (s.skein k).run = some r → Runs .calcmdRun s (fun t => (t.skein k).run = some r ∧
        (t.skein k).heldHost = (s.skein k).heldHost ||| items ∧ MemKept s t)) ∧
      (s.calOn k = false → items.testBit 0 = true → Runs .calcmdRun s (fun t =>
        t.rd (bCal + 8 * (k : Nat)) F.Cal.CSKSTAT.DL = 7 ∧ (t.skein k).run = (s.skein k).run ∧ MemKept s t))) ∧
    Runs .calcmdAbort s (fun t => (∀ k, k < 32 → (t.skein k).run = none ∧ ∀ r, (s.skein k).run = some r →
      (r.items.testBit 0 = true → t.rd (bCal + 8 * k) F.Cal.CSKSTAT.DL = 5) ∧
      (r.first = true → t.rd (bCal + 8 * k) F.Cal.CSKSTAT.FIRSTPASS = 1)) ∧ MemKept s t) ∧
    (∀ k : Fin 32, let z := s.skein k
      let run := fun first : Bool => some (CalRun.mk true first (if s.domOn k then 15 else 1) 0 0)
      s.calOn k = true → z.run = none →
      (z.firstDue = true → Runs (.calTriggeredRun k) s (fun t => (t.skein k).run = run true ∧
        (t.skein k).firstDue = false ∧ t.rd bCal F.Cal.CSTAT.BUSY = 1 ∧ MemKept s t)) ∧
      (z.firstDue = false → s.rd (bThm + 8 * (k : Nat)) F.Thm.TEMP.FAIL = 1 → Runs (.calTriggeredRun k) s (fun t => t = s)) ∧
      (z.firstDue = false → z.heldTrig = true → s.trigFree k = true → s.rd (bThm + 8 * (k : Nat)) F.Thm.TEMP.FAIL = 0 → Runs (.calTriggeredRun k) s (fun t =>
        (t.skein k).run = run false ∧ (t.skein k).trigAt = some s.cycle ∧ (t.skein k).heldTrig = false ∧
        Grew (bCal + 8 * (k : Nat)) F.Cal.CSKSTAT.TRIGS 1 s t ∧ t.rd (bCal + 8 * (k : Nat)) F.Cal.CSKTEMP.TCAL =
          s.rd (bCal + 8 * (k : Nat)) F.Cal.CSKTEMP.TNOW ∧ t.calGet (rSk k + 0x240) 2 =
          s.rd (bCal + 8 * (k : Nat)) F.Cal.CSKTEMP.TNOW ∧ MemKept s t)) ∧
      (z.firstDue = false → s.trigFree k = false → Runs (.calTriggeredRun k) s (fun t => t = s))) ∧
    (s.cals.dsk = none → named ≠ [] →
      (s.calOn sk = true → s.domOn sk = true → s.engRunning sk = false → s.frozen = false →
        (∀ c ∈ named, s.rd (bCh (16 * sk + c)) F.Ch.PECFG.CH_EN = 1) → Runs .calcmdDeskew s (fun t =>
          (∃ d, t.cals.dsk = some d ∧ d.sk = sk ∧ d.wait = [] ∧ d.listen = named.map (fun c => (c, 0, s.cycle))) ∧
          (∀ c ∈ named, (t.chan (16 * sk + c)).drive = .hiZ) ∧ t.rd bCal F.Cal.CSTAT.BUSY = 1 ∧ MemKept s t)) ∧
      (s.calOn sk = true → s.domOn sk = true → s.engRunning sk = true → Runs .calcmdDeskew s (fun t =>
        t.cals.dsk = none ∧ (∀ c ∈ named, dskst c 4 t) ∧ t.rd (bCal + 8 * sk) F.Cal.CSKSTAT.DSK = 4 ∧
        Grew bCal F.Cal.CDEFER named.length s t ∧ MemKept s t)) ∧
      ((s.calOn sk = false ∨ s.domOn sk = false) → Runs .calcmdDeskew s (fun t => t.cals.dsk = none ∧
        (∀ c ∈ named, dskst c 7 t) ∧ t.rd (bCal + 8 * sk) F.Cal.CSKSTAT.DSK = 7 ∧ MemKept s t))) ∧
    (s.cals.dsk.isSome = true → Runs .calcmdDeskew s (fun t => t.cals = s.cals ∧ RegsKept [] s t ∧ MemKept s t)) ∧
    (∀ (k : Fin 32) (c : Fin 16) d, s.cals.dsk = some d → d.sk = k →
      let q := bCal + 8 * (16 * (k : Nat) + c)
      let g := 16 * (k : Nat) + c
      let x := s.chan g
      (∀ r start, d.listen = [((c : Nat), r, start)] → start + 10000 ≤ s.cycle →
        ((c : Nat) ∉ d.seen → Runs (.deskewListenEnd k c) s (fun t =>
          t.cals.dsk = some { d with listen := [], seen := d.seen.filter (fun x => x ≠ c), pulse := d.pulse ++ [((c : Nat), s.cycle)] } ∧
          (t.chan g).drive = .vil ∧ (t.chan g).loadOn = false ∧ (t.chan g).evs.length = 512 ∧
          (∀ m, m < 256 → (∃ e ∈ (t.chan g).evs, e.pulse = true ∧ e.level = .vih ∧ e.at_ = s.cycle * 512 + 20480 * m + m / 16) ∧
            ∃ e ∈ (t.chan g).evs, e.pulse = true ∧ e.level = .vil ∧ e.at_ = s.cycle * 512 + 20480 * m + m / 16 + 10240) ∧
          MemKept s t)) ∧
        ((c : Nat) ∈ d.seen → r < 8 → Runs (.deskewListenEnd k c) s (fun t =>
          (∃ e, t.cals.dsk = some e ∧ e.listen = [] ∧ e.wait = d.wait ++ [((c : Nat), r + 1)] ∧ e.pulse = d.pulse) ∧
          RegsKept [] s t ∧ MemKept s t)) ∧
        ((c : Nat) ∈ d.seen → 8 ≤ r → Runs (.deskewListenEnd k c) s (fun t => t.rd q F.Cal.CCHQ.DSKST = 3 ∧ MemKept s t))) ∧
      (∀ r start (m : Comp) rising (fs : Nat), ((c : Nat), r, start) ∈ d.listen → s.cycle < start + 10000 → (c : Nat) ∉ d.seen →
        s.calOn k = true → s.domOn k = true → fs < 1000000 → (if m = .ch then x.outCh else x.outCl) ≠ rising →
        x.lastCh = none → x.lastCl = none → Runs (.edge k c m rising fs) s (fun t => t.rd q F.Cal.CCHQ.DSKST = 3 ∧
          (∃ e, t.cals.dsk = some e ∧ (c : Nat) ∈ e.seen ∧ e.listen = d.listen) ∧
          ((c : Nat) ∉ d.counted → Grew bCal F.Cal.CDEFER 1 s t) ∧ ((c : Nat) ∈ d.counted → Held bCal F.Cal.CDEFER s t) ∧
          MemKept s t)) ∧
      (∀ p r, d.wait.find? (fun p => p.1 == (c : Nat)) = some (p, r) →
        (d.firstEnd + r * 1000000 ≤ s.cycle → Runs (.deskewRelisten k c) s (fun t => t.cals.dsk = some { d with
          wait := d.wait.filter (fun p => p.1 ≠ (c : Nat)), listen := d.listen ++ [((c : Nat), r, s.cycle)] } ∧
          RegsKept [] s t ∧ MemKept s t)) ∧
        (s.cycle < d.firstEnd + r * 1000000 → Runs (.deskewRelisten k c) s (fun t => t = s))) ∧
      (∀ start, d.listen = [] → d.wait = [] → d.pulse = [((c : Nat), start)] → d.final = [] → start + 10240 ≤ s.cycle →
        x.echoes.any (fun e => e.code.isSome && !e.got) = false →
        let o := d.obs c
        let newR := s.rdInt (bCh g) F.Ch.DSKEW.DSK_R - roundDiv (skewSum o.rising).1 (skewSum o.rising).2
        let newF := s.rdInt (bCh g) F.Ch.DSKEW.DSK_F - roundDiv (skewSum o.falling).1 (skewSum o.falling).2
        let ok := dskPlausible o (s.rd bCal F.Cal.CLIMIT.DSK_MAX) newR newF
        let ended := fun (code : Nat) (t : State) => t.rd q F.Cal.CCHQ.DSKST = code ∧ t.cals.dsk = none ∧
          t.rd (bCal + 8 * (k : Nat)) F.Cal.CSKSTAT.DSK = code ∧ MemKept s t
        (ok = true → Runs (.deskewPulseEnd k c) s (fun t => ended 1 t ∧
          t.rdInt (bCh g) F.Ch.DSKEW.DSK_R = newR ∧ t.rdInt (bCh g) F.Ch.DSKEW.DSK_F = newF)) ∧
        (ok = false → Runs (.deskewPulseEnd k c) s (fun t => ended 2 t ∧
          Held (bCh g) F.Ch.DSKEW.DSK_R s t ∧ Held (bCh g) F.Ch.DSKEW.DSK_F s t ∧ Grew bCal F.Cal.CREJECT 1 s t))) ∧
      (∀ start (y : Stamp), ((c : Nat), start) ∈ d.pulse → y.g = g → (∀ l, (s.skein k).bus = .stamp y :: l →
        y.ch = decide (s.rd (bCh g) F.Ch.EPCFG.ECHO_COMP = 1) → 0 ≤ delta (s.toLocal (start * 512)) y.t →
        delta (s.toLocal (start * 512)) y.t < 10240 * 512 → x.echoes = [] →
        Runs (.stampDelivery k) s (fun t => t.rd q F.Cal.CCHQ.DSKST = 3 ∧ MemKept s t)))) ∧
    (s.cals.store = none → s.rd bThm F.Thm.THMSTAT.STATE ≠ 3 → Runs .calcmdStore s (fun t =>
      (∃ x, t.cals.store = some x ∧ x.block = 1 ∧ x.slot = (if s.rd bCal F.Cal.CSTAT.REC = 1 then 1 else 0) ∧
        x.stamp = stampAt s.nowFt ∧ x.data = s.storeData) ∧
      t.rd bCal F.Cal.CSTAT.STORE = 1 ∧ t.rd bCal F.Cal.CSTORE.DONE = 0 ∧ RegsKept [stat, bCal + 0x30] s t ∧ MemKept s t)) ∧
    (∀ x, s.cals.store = some x → x.stamp ≠ stampAt s.nowFt → Runs .calcmdStore s (fun t =>
      t.rd bCal F.Cal.CSTAT.STOREDROP = 1 ∧ t.cals = s.cals ∧ RegsKept [stat] s t ∧ MemKept s t)) ∧
    (∀ x, s.cals.store = some x →
      let base := if x.slot = 0 then 0 else 0x100000
      let wrote := fun t : State => Grew bCal F.Cal.CSTORE.DONE 1 s t ∧ MemKept s t
      (x.block ≠ 0 → x.stop = false → Runs (.mramBlockWritten true) s (fun t => wrote t ∧
        (∃ y, t.cals.store = some y ∧ y.block = (if x.block = 144 then 0 else x.block + 1)) ∧
        ∀ i, i < 512 → 2048 * x.block + 4 * i < recLen →
          t.mramW (base + 2048 * x.block + 4 * i) = storeWord x 0#32 (2048 * x.block + 4 * i))) ∧
      (x.block = 0 → x.bad = false → x.stop = false → Runs (.mramBlockWritten true) s (fun t => wrote t ∧ t.cals.store = none ∧
        t.rd bCal F.Cal.CSTAT.STORE = 2 ∧ t.rd bCal F.Cal.CSTAT.REC = (x.slot + 1) % 4 ∧ t.cals.recSeq = x.seq ∧
        t.rd bCal F.Cal.CSTAT.RECSEQ = x.seq % 2 ^ 32)) ∧
      (x.block = 0 → x.stop = false → Runs (.mramBlockWritten false) s (fun t => wrote t ∧ t.cals.store = none ∧
        t.rd bCal F.Cal.CSTAT.STORE = 4 ∧ Held bCal F.Cal.CSTAT.REC s t)) ∧
      (∀ good, x.stop = true → Runs (.mramBlockWritten good) s (fun t => wrote t ∧ t.cals.store = none ∧
        t.rd bCal F.Cal.CSTAT.STORE = 3 ∧ Held bCal F.Cal.CSTAT.REC s t ∧ Held bCal F.Cal.CSTAT.RECSEQ s t))) ∧
    (s.rd bCal F.Cal.CSTAT.READY = 0 →
      let a := s.recValid 0
      let b := s.recValid 0x100000
      let f := s.recValid 0x200000
      let loaded := fun (rec_ : Nat) (t : State) => t.rd bCal F.Cal.CSTAT.REC = rec_ ∧ t.rd bCal F.Cal.CSTAT.READY = 1 ∧
        (∀ k, k < 32 → s.domOn (32 + k) = true → (t.skein k).calDone = true ∧ (t.skein k).firstDue = true) ∧ MemKept s t
      (a = true → (b = false ∨ s.recSeqAt 0x100000 ≤ s.recSeqAt 0) → Runs .calRecordLoad s (loaded 1)) ∧
      (b = true → (a = false ∨ s.recSeqAt 0 < s.recSeqAt 0x100000) → Runs .calRecordLoad s (loaded 2)) ∧
      (a = false → b = false → f = true → Runs .calRecordLoad s (loaded 3)) ∧
      (a = false → b = false → f = false → Runs .calRecordLoad s (fun t => loaded 0 t ∧ t.rd bCal F.Cal.CSTAT.NOREC = 1 ∧
        t.cals = s.cals))) ∧
    (∀ (off : BitVec 16) (w : BitVec 32), let page := s.rd bCal F.Cal.MRPAGE.PAGE
      let at_ := page * 65536 + off.toNat / 4 * 4
      (48 ≤ page → s.rd bCal F.Cal.MRPAGE.WEN = 1 → Runs (.mramWindowWrite off w) s (fun t => t.mramW at_ = w ∧
        (∀ x, x ≠ at_ → t.mramW x = s.mramW x) ∧ RegsKept [] s t ∧ MemKept s t)) ∧
      ((page < 48 ∨ s.rd bCal F.Cal.MRPAGE.WEN = 0) → Runs (.mramWindowWrite off w) s (fun t =>
        t.rd bCal F.Cal.CSTAT.MRWERR = 1 ∧ t.mram = s.mram ∧ RegsKept [stat] s t ∧ MemKept s t)))

/-! ### The control path (R361-R389) -/

/-- A hitch takes the group's staged copies, and an idle unit applies them (that it stays as it is otherwise: log 3); the
key arms an unlock for 1 ms, after which it is no longer armed; KEYOFF takes the first value written; the configuration
check compares CRCs; a vote keeps every bit in force and counts where a bit of the set was upset (R375, R376, R379, R383,
R387-R389). -/
def Obligations.ControlPathComplete : Prop :=
  ∀ (s : State), s.phase = .running →
    let err := bCtl + 0x128
    (∀ g, g < 8 → s.unitsOf g ≠ [] → Runs (.hitchFire (BitVec.ofNat 8 (2 ^ g))) s (fun t =>
      (∃ c ∈ t.commits, c.group = g ∧ c.at_ = none ∧ c.snap = s.commitCopies false) ∧ t.bit bCtl F.Ctl.HITCH_STAT.PEND g = true ∧
      (∀ k, k < 32 → s.hgroup k = g → s.domOn (32 + k) = true → (t.eng k).hitchEv = true) ∧ MemKept s t)) ∧
    (∀ u snap, s.unitSnap u = some snap → s.unitIdle u = true → Runs (.hitchApply u) s (fun t => t.unitSnap u = none ∧
      MemKept s t ∧ ∀ i, u = .cond i → ∀ f ∈ [F.Trs.TCOND.KIND, F.Trs.TCOND.DOM, F.Trs.TCOND.COUNT, F.Trs.TCOND.SEL],
        t.rd (bCond i) f = fget (tget regReset snap (bCond i + 0x300)) f.hi f.lo)) ∧
    (∀ u, s.unitIdle u = false → Runs (.hitchApply u) s (fun t => t = s)) ∧
    (∀ (b : Blk) v w, s.reachable (blkNo b * 0x10000 + 0xf8) = true →
      (v = .normal ∧ w = 0xb17e#32 → Runs (.unlockWrite b v w) s (fun t =>
        tget (fun _ => none) t.unlockAt (blkNo b) = some (s.cycle + 1000000) ∧ RegsKept [] s t ∧ MemKept s t)) ∧
      (¬ (v = .normal ∧ w = 0xb17e#32) → Runs (.unlockWrite b v w) s (fun t => t.armed (blkNo b) = false ∧
        RegsKept [] s t ∧ MemKept s t))) ∧
    (∀ b : Blk, Runs (.unlockExpiry b) s (fun t => t.armed (blkNo b) = s.armed (blkNo b) ∧ RegsKept [] s t ∧ MemKept s t ∧
      ∀ e, tget (fun _ => none) s.unlockAt (blkNo b) = some e → e ≤ s.cycle → t.armed (blkNo b) = false ∧
        tget (fun _ => none) t.unlockAt (blkNo b) = none)) ∧
    (∀ w : BitVec 32, let done := tget (fun _ => false) s.onceDone (bCtl + 0x100)
      (done = false → Runs (.sealWrite .normal w) s (fun t => t.sealed = w.getLsbD 0 ∧
        tget (fun _ => false) t.onceDone (bCtl + 0x100) = true ∧ RegsKept [bCtl + 0x100] s t ∧ MemKept s t)) ∧
      (done = true → w.getLsbD 0 ≠ s.sealed → Runs (.sealWrite .normal w) s (fun t => t.sealed = s.sealed ∧
        t.rd bCtl F.Ctl.ERR.LOCKVIOL = 1 ∧ (s.rd bCtl F.Ctl.ERR.LOCKVIOL = 0 → t.rd bCtl F.Ctl.LVADDR.ONCE = 1 ∧
          t.rd bCtl F.Ctl.LVADDR.OFFSET = 0x100) ∧ RegsKept [err, bCtl + 0x130] s t ∧ MemKept s t)) ∧
      (done = true → w.getLsbD 0 = s.sealed → Runs (.sealWrite .normal w) s (fun t => RegsKept [] s t ∧ MemKept s t))) ∧
    (∀ b, b < 40 → s.rd bCtl F.Ctl.CFG_EN = 2 ^ b → s.cfgOn b = true → s.cfgAt ≤ s.cycle →
      let c := (crc32c (s.cfgBytes b)).toNat
      Runs .cfgCheck s (fun t => t.rd (bCtl + 8 * b) F.Ctl.CFG.CRC = c ∧ t.cfgAt = s.cycle + 1000000 ∧ MemKept s t ∧
        (s.cfgBusy b = false → c ≠ s.rd (bCtl + 8 * b) F.Ctl.CFG.REF →
          t.bit bCtl F.Ctl.CFG_STAT b = true ∧ t.rd bCtl F.Ctl.ERR.CFGMIS = 1) ∧
        (s.cfgBusy b = true ∨ c = s.rd (bCtl + 8 * b) F.Ctl.CFG.REF → Held bCtl F.Ctl.CFG_STAT s t))) ∧
    (∀ set copy (upset : BitVec 128), let n := (s.voted set).length
      ((∃ i, i < n ∧ upset.getLsbD i = true) → Runs (.voteRepair set copy upset) s (fun t =>
        t.rd bCtl F.Ctl.ERR.VOTEERR = 1 ∧ Grew bCtl (voteFld set) 1 s t ∧ t.voted set = s.voted set ∧
        RegsKept [err, bCtl + 0x150] s t ∧ MemKept s t)) ∧
      ((∀ i, i < n → upset.getLsbD i = false) → Runs (.voteRepair set copy upset) s (fun t => t = s)))

/-- Register writes (R361, R366, R368, R369, R382, R385): a partial write and one to a domain that is off are dropped; in a
STAGED register of a measurement slot the low word waits for the high one and the staged copy alone changes; the set,
clear and toggle views act bitwise; a 1 clears a W1C bit that hardware has not set in the same cycle (R386); a hole takes
nothing. -/
def Obligations.RegisterWritesComplete : Prop :=
  ∀ (s : State), s.phase = .running →
    let err := bCtl + 0x128
    let put := fun (off : Nat) (w : BitVec 32) => Runs (.registerWrite (BitVec.ofNat 23 off) w 15#4) s
    let stgKept := fun t : State => ∀ x, t.stg x = s.stg x
    (∀ off w be, be ≠ 15#4 → Runs (.registerWrite off w be) s (fun t => t.rd bCtl F.Ctl.ERR.PARTIAL = 1 ∧
      RegsKept [err] s t ∧ stgKept t ∧ t.tables = s.tables ∧ MemKept s t)) ∧
    (∀ (k : Fin 32) (j : Fin 64) (w : BitVec 32), let b := bSlot k j
      (s.domOn (32 + (k : Nat)) = true →
        (∀ i, i < 5 → put (b + 8 * i) w (fun t => t.low (8 + (k : Nat)) = some (b + 8 * i, w) ∧ RegsKept [] s t ∧
          stgKept t ∧ MemKept s t)) ∧
        ((s.slot k j).mset = some (s.cycle, 3) → put (b + 0x1c) w (fun t => stgKept t ∧ RegsKept [] s t ∧ MemKept s t)) ∧
        (∀ l, (s.slot k j).mset ≠ some (s.cycle, 3) → s.low (8 + (k : Nat)) = some (b + 0x18, l) → put (b + 0x1c) w (fun t => t.stg (b + 0x18) = w ++ l ∧
          (∀ x, x ≠ b + 0x18 → t.stg x = s.stg x) ∧ t.low (8 + (k : Nat)) = none ∧ RegsKept [] s t ∧ MemKept s t)) ∧
        ((s.slot k j).mset ≠ some (s.cycle, 3) → s.low (8 + (k : Nat)) = none → put (b + 0x1c) w (fun t =>
          t.stg (b + 0x18) = w ++ (s.stg (b + 0x18)).setWidth 32 ∧ RegsKept [] s t ∧ MemKept s t))) ∧
      (s.domOn (32 + (k : Nat)) = false → ∀ i, i < 8 → put (b + 8 * i) w (fun t => t.rd bCtl F.Ctl.ERR.OFFDOMAIN = 1 ∧
        RegsKept [err] s t ∧ stgKept t ∧ MemKept s t))) ∧
    (∀ (v : View) w, v ≠ .normal → put (viewNo v * 0x4000 + 0x18) w (fun t =>
      t.reg (bCtl + 0x18) = viewVal v (s.reg (bCtl + 0x18)) (w.setWidth 64) ∧ RegsKept [bCtl + 0x18] s t ∧ MemKept s t)) ∧
    (∀ w : BitVec 32, let set := s.raisedAt err
      put err w (fun t =>
      t.rd bCtl F.Ctl.ERR.PARTIAL = (if w.getLsbD 2 && !set.getLsbD 2 then 0 else s.rd bCtl F.Ctl.ERR.PARTIAL) ∧
      t.rd bCtl F.Ctl.ERR.LOCKVIOL = (if w.getLsbD 1 && !set.getLsbD 1 then 0 else s.rd bCtl F.Ctl.ERR.LOCKVIOL) ∧
      (s.rd bCtl F.Ctl.ERR.LOCKVIOL = 1 → set.getLsbD 1 = false → w.getLsbD 1 = true → t.rd bCtl F.Ctl.LVADDR.COUNT = 0) ∧
      RegsKept [err, bCtl + 0x130] s t ∧ MemKept s t)) ∧
    (∀ off w, 0x80000 ≤ off → off < 0x100000 → put off w (fun t => RegsKept [] s t ∧ stgKept t ∧ t.tables = s.tables ∧
      MemKept s t))

/-! ### Interrupts, the host interface and transfers (R397-R401, R412, R429, R445) -/

/-- A source is reported once, and again every millisecond, and a report that finds no path is kept (R397, R429, R431); a
transfer starts, is aborted and ends with its code (R398, R399); a Hot Reset and a return from D3hot reset HIF alone, with
the transfers of the time ended as PCIE (R412, R445); the link comes up as R444 allows (when each of these changes nothing:
log 3; the path and D3hot: log 53, log 54; the records of a ring that is cleared: log 143). -/
def Obligations.HostInterfaceComplete : Prop :=
  ∀ (s : State), s.phase = .running →
    let pend := fun (t : State) (i : Nat) => t.bit (bHif + 8 * s.pos) F.Hif.IRQPEND i
    (∀ i : Fin 64,
      (s.irqSrc i = true → s.bit bCtl F.Ctl.IRQEN i = true → s.irqSent.testBit i = false →
        (s.isHead = true → s.domOn 84 = true → Runs (.irqSourceReport i) s (fun t => pend t i = true ∧
          t.irqSent.testBit i = true ∧ MemKept s t)) ∧
        (s.isHead = false → s.rd bLnk F.Lnk.LSTAT.READY = 1 → s.portUp 0 = true → s.portUp 1 = true →
          Runs (.irqSourceReport i) s (fun t => (∃ q, Sent q 0x23 [] t) ∧ t.irqSent.testBit i = true ∧ MemKept s t))) ∧
      (s.irqLatch.testBit i = true → s.isHead = true → s.domOn 84 = true → Runs (.irqSourceReport i) s (fun t =>
        pend t i = true ∧ t.irqSent.testBit i = true ∧ t.irqLatch.testBit i = false ∧ MemKept s t)) ∧
      (s.irqLatch.testBit i = true → s.irqPath = false → Runs (.irqSourceReport i) s (fun t =>
        t.irqLatch.testBit i = true ∧ t.irqSent = s.irqSent ∧ t.outbox = s.outbox ∧ RegsKept [] s t ∧ MemKept s t)) ∧
      (s.irqLatch.testBit i = false →
        (s.irqSrc i = false ∨ s.bit bCtl F.Ctl.IRQEN i = false ∨ s.irqSent.testBit i = true) →
        Runs (.irqSourceReport i) s (fun t => t = s))) ∧
    (s.irqAt ≤ s.cycle → Runs .irqRepeat s (fun t => t.irqAt = s.cycle + 1000000 ∧ MemKept s t ∧
      ∀ i, i < 45 → (s.irqSrc i = true ∧ s.bit bCtl F.Ctl.IRQEN i = true ∨ s.irqLatch.testBit i = true) →
        (s.isHead = true → s.domOn 84 = true → pend t i = true ∧ t.irqSent.testBit i = true ∧ t.irqLatch.testBit i = false) ∧
        (s.irqPath = false → t.irqLatch.testBit i = true))) ∧
    (∀ n : Fin 8, let b := bDma n
      let busy := s.rd b F.Hif.DMASTAT.BUSY
      let mem := s.rd b F.Hif.DMAMEM * 4
      let len := s.rd b F.Hif.DMALEN.LEN * 4
      let ended := fun (code : Nat) (t : State) => t.rd b F.Hif.DMASTAT.BUSY = 0 ∧ t.rd b F.Hif.DMASTAT.CODE = code ∧
        Grew b F.Hif.DMASTAT.SEQ 1 s t ∧ (code ≠ 0 → t.rd bHif F.Hif.HIFERR.DMAERR = 1) ∧ MemKept s t
      let waits := fun t : State => (t.port (64 + (n : Nat))).wait
      (s.domOn 84 = true → busy = 0 →
        ((len = 0 ∨ 2 ^ 34 < mem + len) → Runs (.dmaGo n) s (ended 4)) ∧
        (0 < len → mem + len ≤ 2 ^ 34 →
          (s.rd bHif F.Hif.HIFCTL.DMAEN = 0 → Runs (.dmaGo n) s (ended 5)) ∧
          (s.rd bHif F.Hif.HIFCTL.DMAEN = 1 → s.frozen = true → Runs (.dmaGo n) s (ended 1)) ∧
          (s.rd bHif F.Hif.HIFCTL.DMAEN = 1 → s.frozen = false → Runs (.dmaGo n) s (fun t =>
            t.rd b F.Hif.DMASTAT.BUSY = 1 ∧ (∃ q, waits t = waits s ++ [q] ∧ q.addr = mem ∧ q.len = len ∧
              q.fromHost = decide (s.rd b F.Hif.DMACTL.DIR = 0)) ∧ (t.dma n).host = s.rd b F.Hif.DMAHOST * 4 ∧
            RegsKept [b + 0x108] s t ∧ MemKept s t)))) ∧
      (s.domOn 84 = true → busy = 1 → Runs (.dmaGo n) s (fun t => t.rd bHif F.Hif.HIFERR.DMAERR = 1 ∧ t.dmas = s.dmas ∧
        RegsKept [bHif + 8] s t ∧ MemKept s t)) ∧
      (s.domOn 84 = true → busy = 1 → Runs (.dmaAbort n) s (fun t => (∀ r ∈ waits t, r.why ≠ .dma n) ∧
        (t.dma n).stop = (if (s.dma n).stop = 0 then 3 else (s.dma n).stop) ∧ RegsKept [] s t ∧ MemKept s t)) ∧
      (s.domOn 84 = true → busy = 0 → Runs (.dmaAbort n) s (fun t => t.dmas = s.dmas ∧ t.ports = s.ports ∧
        RegsKept [] s t ∧ MemKept s t)) ∧
      (∀ e, busy = 1 → s.frozen = false → s.domOn 84 = true → s.portHas (64 + (n : Nat)) (.dma n) = false →
        Runs (.dmaEnd n e) s (ended (let c := (s.dma n).stop
          if e = true ∧ c = 0 then 2 else c % 8))) ∧
      (busy = 1 → s.frozen = false → s.domOn 84 = true → s.portHas (64 + (n : Nat)) (.dma n) = true →
        Runs (.dmaEnd n false) s (fun t => t = s))) ∧
    (s.isHead = true → s.domOn 84 = true →
      let reset := fun t : State => (∀ x, x < 0x400000 → ¬ (bLnk ≤ x ∧ x < 0x80000) → t.reg x = s.reg x) ∧
        (∀ h, h < 4096 → t.tq (tRing + 64 * h + 8) = 0 ∧ (t.hring h).expect = none ∧
          (∀ n, (s.hring h).expect = some n → (t.hring h).waiting = [] ∧
            (t.hring h).early = (s.hring h).early ++ Machine.inOrder n (s.hring h).waiting (s.hring h).waiting) ∧
          ((s.hring h).expect = none → (t.hring h).waiting = (s.hring h).waiting ∧ (t.hring h).early = (s.hring h).early)) ∧
        t.rd bHif F.Hif.HIFCTL.DMAEN = fget (regReset (bHif + 0x10)) 0 0 ∧
        MemKept s t
      Runs .pcieHotReset s (fun t => reset t ∧ t.rd bHif F.Hif.HIFSTAT.LINKUP = 0 ∧ ∀ n, n < 8 →
        s.rd (bDma n) F.Hif.DMASTAT.BUSY = 1 → t.rd (bDma n) F.Hif.DMASTAT.BUSY = 0 ∧ t.rd (bDma n) F.Hif.DMASTAT.CODE = 2) ∧
      Runs .d3hotToD0 s (fun t => reset t ∧ Held bHif F.Hif.HIFSTAT.LINKUP s t ∧ ∀ n, n < 8 →
        t.rd (bDma n) F.Hif.DMASTAT.BUSY = 0 ∧
        (s.rd (bDma n) F.Hif.DMASTAT.BUSY = 1 → t.rd (bDma n) F.Hif.DMASTAT.CODE = 2)) ∧
      (s.scanOn = false → ∀ speed width mps mrrs bme,
        let ok := speed ∈ [1, 2, 3, 4, 5] ∧ width ∈ [1, 2, 4, 8, 16] ∧ mps ≤ 2 ∧ mrrs ≤ 5
        (ok → Runs (.pcieLinkUp speed width mps mrrs bme) s (fun t =>
          t.rd bHif F.Hif.HIFSTAT.LINKUP = 1 ∧ t.rd bHif F.Hif.HIFSTAT.SPEED = speed ∧
          t.rd bHif F.Hif.HIFSTAT.WIDTH = width ∧ RegsKept [bHif] s t ∧ MemKept s t ∧
          (1000000 ≤ s.cycle → t.rd bHif F.Hif.HIFSTAT.MPS = mps ∧ t.rd bHif F.Hif.HIFSTAT.MRRS = mrrs ∧
            t.rd bHif F.Hif.HIFSTAT.BME = b2n bme) ∧
          (s.cycle < 1000000 → Held bHif F.Hif.HIFSTAT.MPS s t ∧ Held bHif F.Hif.HIFSTAT.MRRS s t ∧
            Held bHif F.Hif.HIFSTAT.BME s t))) ∧
        (¬ ok → Runs (.pcieLinkUp speed width mps mrrs bme) s (fun t => t = s))))

/-! ### The test access port (R447, R448) -/

/-- IDCODE, BYPASS and SAMPLE/PRELOAD do not disturb the device, and their data registers hold what R447 says; the other
five take its links down, remove its loads and give the FIRE lines to the boundary register; leaving one of them leaves the
device undefined (R447, R448; the capture and the cells' places are the model's: log 115, log 117). -/
def Obligations.BoundaryScanCompletes : Prop :=
  ∀ (s : State),
    let quiet := fun (c : Instr) (ir : BitVec 8) => c = .idcode ∧ ir = 0x01#8 ∨ c = .bypass ∧ ir = 0xff#8 ∨
      (∃ x, c = .samplePreload x) ∧ ir = 0x02#8
    let takes := fun (c : Instr) (ir : BitVec 8) => c = .extest ∧ ir = 0x00#8 ∨ c = .clamp ∧ ir = 0x04#8 ∨
      c = .highz ∧ ir = 0x05#8 ∨ c = .extestPulse ∧ ir = 0x08#8 ∨ c = .extestTrain ∧ ir = 0x09#8
    (∀ c ir, quiet c ir → s.phase ≠ .off → s.scanOn = false → Runs c s (fun t => t.jtag.ir = ir ∧ t.phase = s.phase ∧
      RegsKept [] s t ∧ MemKept s t ∧ t.scanOn = false ∧ (ir = 0x01#8 → t.jtagData = (List.range 32).map (0x2051256b#32).getLsbD) ∧
      (ir = 0xff#8 → t.jtagData = [s.jtag.bypass]) ∧
      (∀ x, c = .samplePreload x → t.jtag.bsr = x ∧ t.jtagData = (List.range 1168).map x.getLsbD))) ∧
    (∀ c ir, takes c ir → s.phase = .running → s.scanOn = false → Runs c s (fun t => t.jtag.ir = ir ∧ t.phase = .running ∧
      t.scanOn = true ∧ t.portUp 0 = false ∧ t.portUp 1 = false ∧ t.rd bHif F.Hif.HIFSTAT.LINKUP = 0 ∧
      (∀ g, g < 512 → t.pinLoad g = false) ∧
      (∀ d, d < 4 → ((s.dom d).pulse.isSome = true → s.firePulled d = false → Out.fireRelease d ∈ t.outbox) ∧
        ((s.dom d).pulse.isSome = false → s.firePulled d = true → Out.firePull d ∈ t.outbox)) ∧ MemKept s t)) ∧
    (∀ c ir, (takes c ir ∨ quiet c ir) → s.phase = .running → s.scanOn = true → ir ≠ s.jtag.ir → Runs c s (fun t =>
      t.jtag.ir = ir ∧ t.phase = .undefined)) ∧
    (∀ c ir, (takes c ir ∨ quiet c ir) → s.phase = .off → Runs c s (fun t => t = s))

/-! ### Supplies, power domains and reset (R341, R353-R361, R403-R407, R417, R418, R448) -/

/-- The supplies and POR_N bring the device to reset and out of it; domains switch on in their order 4 us apart and
lose their contents when they go; PDEN takes what R353 and R360 allow, each word as its own access through the views
(R385); 1,000 ns after SHUTDOWN the domains go off (what a domain takes with it: log 28, log 30). -/
def Obligations.PowerCommandsComplete : Prop :=
  ∀ (s : State),
    let cleared := fun (ph : Phase) (t : State) => t.phase = ph ∧ (∀ x, t.reg x = regReset x) ∧ t.engs = [] ∧ t.chans = [] ∧
      t.skeins = [] ∧ t.strms = [] ∧ t.pending = s.pending ∧ (s.cals.store = none → t.mram = s.mram)
    (s.phase = .held → ∀ head refsel lock, Runs (.porRelease head refsel lock) s (fun t => t.phase = .running ∧
      t.coarse = 0 ∧ t.mram = s.mram ∧ t.pending = s.pending ∧ t.engs = [] ∧ t.rd bCtl F.Ctl.STRAP.HEAD = b2n head ∧
      t.rd bCtl F.Ctl.STRAP.REFSEL = b2n refsel ∧ t.rd bCtl F.Ctl.STRAP.ADDR_LOCK = b2n lock ∧
      t.rd bTb F.Tb.TBCFG.REFSEL = b2n refsel ∧ t.domEn 84 = head ∧
      t.lnk.token = (if head then some (0, 0) else none) ∧
      ∀ x, x ∉ [bCtl + 8, bTb + 8, bThm + 0x20] → t.reg x = regReset x)) ∧
    (s.phase = .running → Runs .porAssert s (cleared .held)) ∧
    (s.phase ≠ .off → Runs .supplyLoss s (fun t => cleared .off t ∧ t.jtag = {})) ∧
    (s.phase = .off → Runs .pwrgood s (fun t => t.phase = .held ∧ t.thms.pwrAt = some 0 ∧ t.mram = s.mram)) ∧
    (s.phase = .running → Runs .pwrgood s (fun t => t.thms.pwrAt = some (s.thms.pwrAt.getD s.cycle) ∧ RegsKept [] s t)) ∧
    (s.phase = .running → ∀ d : Fin 96,
      let waits := fun e : Nat => s.domEn e && !s.domOn e && !s.thms.rising.any (fun p => p.1 == e)
      let falls := fun e : Nat => !s.domEn e && (s.domOn e || s.thms.rising.any (fun p => p.1 == e))
      let reset := fun t : State => ∀ x, domainOf 0 x = some (d : Nat) → t.reg x = regReset x
      (waits d = true → (∀ e ∈ domOrder.takeWhile (· != (d : Nat)), waits e = false) → s.thms.onAt ≤ s.cycle →
        Runs (.powerDomainOn d) s (fun t => t.thms.rising = s.thms.rising ++ [((d : Nat), s.cycle)] ∧
          t.thms.onAt = s.cycle + 4000 ∧ RegsKept [] s t ∧ MemKept s t)) ∧
      (s.thms.rising.any (fun p => p.1 == (d : Nat)) = true → Runs (.powerGood d) s (fun t => t.domOn d = true ∧
        (∀ p ∈ t.thms.rising, p.1 ≠ d) ∧ ((s.rd bCal F.Cal.CSTAT.READY = 0 ∨ 64 ≤ (d : Nat)) → reset t))) ∧
      (falls d = true → (∀ e ∈ domOrder.reverse.takeWhile (· != (d : Nat)), falls e = false) → s.thms.offAt ≤ s.cycle →
        Runs (.powerDomainOff d) s (fun t => t.domOn d = false ∧ reset t ∧ t.thms.offAt = s.cycle + 1000 ∧
          ((d : Nat) < 32 → SkeinSafe d t)))) ∧
    (s.phase = .running → ∀ (one : Bool) (v : View) (w : Word),
      let x := bThm + (if one then 0x20 else 0x18)
      let m := if one then w &&& loMask else w
      let raw := viewVal v (s.reg x) m
      let kept := fun word : Word => if one then (s.reg x &&& hiMask) ||| (word &&& loMask) else word
      let en := fun (word : Word) (d : Nat) => if one then (if d < 64 then s.domEn d else (kept word).getLsbD (d - 64))
        else (if d < 64 then word.getLsbD d else s.domEn d)
      let free := fun word : Word => s.armed 2 = true ∧ (s.sealed = false ∨ s.reg x &&& ~~~ word = 0#64)
      -- one access, or the two of a 64-bit write through the normal view
      (one = true ∨ v = .normal ∨ w &&& loMask = 0#64 ∨ w &&& hiMask = 0#64 →
        (free raw → (∀ d, d < 96 → s.pdFault (en raw) d = false) → Runs (.pdenWrite one v w) s (fun t => t.reg x = kept raw ∧
          RegsKept [x] s t ∧ MemKept s t)) ∧
        (free raw → ∀ d, d < 96 → s.pdFault (en raw) d = true → (∀ e, e < d → s.pdFault (en raw) e = false) →
          Runs (.pdenWrite one v w) s (fun t => t.rd bThm F.Thm.THMSTAT.PDERR = 1 ∧
            t.rd bThm F.Thm.THMSTAT.PDERRDOM = d ∧ RegsKept [bThm + 8] s t ∧ MemKept s t)) ∧
        (kept raw ≠ s.reg x → ¬ free raw → Runs (.pdenWrite one v w) s (fun t =>
          t.rd bCtl F.Ctl.ERR.LOCKVIOL = 1 ∧ t.reg x = s.reg x ∧ MemKept s t))) ∧
      -- two accesses through another view: the unlock admits the first alone
      (one = false → v ≠ .normal → w &&& loMask ≠ 0#64 → w &&& hiMask ≠ 0#64 →
        let first := viewVal v (s.reg x) (w &&& loMask)
        free first → (∀ d, d < 96 → s.pdFault (en first) d = false) → raw ≠ first →
        Runs (.pdenWrite one v w) s (fun t => t.reg x = first ∧ t.rd bCtl F.Ctl.ERR.LOCKVIOL = 1 ∧ MemKept s t))) ∧
    (∀ c, s.phase = .running → s.thms.shutAt = some c → c + 1000 ≤ s.cycle → Runs .shutdownDomainsOff s (fun t =>
      (∀ d, d < 64 ∨ (88 ≤ d ∧ d < 96) → t.domOn d = false ∧ t.domEn d = false) ∧
      (∀ d, 64 ≤ d → d < 88 → t.domOn d = s.domOn d ∧ t.domEn d = s.domEn d) ∧ t.thms.shutAt = none ∧
      (∀ k, k < 32 → s.domOn k = true → SkeinSafe k t) ∧ MemKept s t))

/-- While POR_N is asserted or the supplies are gone nothing happens; in the state R448 calls undefined the machine stops
until POR_N is asserted (the model's own reading of a device that does not run: log entries 4 and 5). -/
def Obligations.DeviceStandsStill : Prop :=
  ∀ (s : State) (c : Instr), ¬ Outside c →
    ((s.phase = .held ∨ s.phase = .off) → exec c s = .next s) ∧
    (s.phase = .undefined → exec c s = .fault .undefinedState) ∧
    (s.phase = .undefined → Runs .porAssert s (fun t => t.phase = .held ∧ ∀ x, t.reg x = regReset x))

/-- A sample sets a sensor's temperature and state from its counts, a third missing reading fails the sensor, and the
device state is the highest of the sensors', with SHUTDOWN putting every channel in safe state; THRESH takes a guarded
write; the AVS loop steps the supply by its rule within its limits, and stops after three failures (R345-R352, R354-R356; a
sample before its time changes nothing: log 3; what a failed transaction loses: log 35). -/
def Obligations.ThermalCommandsComplete : Prop :=
  ∀ (s : State), s.phase = .running →
    let old := s.rd bThm F.Thm.THMSTAT.STATE
    (∀ rs : List (Option Int), s.thms.nextAt ≤ s.cycle → Runs (.thmSample rs) s (fun t =>
      t.thms.nextAt = s.cycle + (if t.rd bThm F.Thm.THMSTAT.FAST = 1 then 31250 else 1000000) ∧
      (∀ i, i < 39 → t.sensState i ≤ t.rd bThm F.Thm.THMSTAT.STATE) ∧
      (t.rd bThm F.Thm.THMSTAT.STATE = 0 ∨ ∃ i, i < 39 ∧ t.sensState i = t.rd bThm F.Thm.THMSTAT.STATE) ∧
      (old ≠ 3 → t.rd bThm F.Thm.THMSTAT.STATE = 3 → t.thms.shutAt = some s.cycle ∧
        Grew bThm F.Thm.THMCNT.SHUTDOWNS 1 s t ∧ ∀ k, k < 32 → SkeinSafe k t) ∧
      (∀ i v, i < 39 → rs[i]? = some (some v) → -640 ≤ v → v ≤ 2400 → s.rd (bThm + 8 * i) F.Thm.TEMP.FAIL = 0 →
        t.rdInt (bThm + 8 * i) F.Thm.TEMP.T = v ∧ t.sensState i = sensNext (s.sensState i)
          (sensCount (s.limit 1) (s.limit 2) (s.limit 3) (s.sensState i) v (s.sens i))) ∧
      (∀ i, i < 39 → rs[i]?.getD none = none → s.rd (bThm + 8 * i) F.Thm.TEMP.FAIL = 0 → 2 ≤ (s.sens i).bad →
        t.rd (bThm + 8 * i) F.Thm.TEMP.FAIL = 1 ∧ t.sensState i = 2 ∧ t.rd bThm F.Thm.THMSTAT.SENSFAIL = 1) ∧
      MemKept s t)) ∧
    (∀ rs, s.cycle < s.thms.nextAt → Runs (.thmSample rs) s (fun t => t = s)) ∧
    (∀ (v : View) (w : BitVec 32), let x := bThm + 0x10
      let m := viewVal v (s.reg x) (w.setWidth 64)
      (s.armed 2 = true → s.sealed = false → Runs (.threshWrite v w) s (fun t => t.rd bThm F.Thm.THRESH.WARN = fget m 7 0 ∧
        t.rd bThm F.Thm.THRESH.THROT = fget m 15 8 ∧ t.rd bThm F.Thm.THRESH.SHUT = fget m 23 16 ∧ RegsKept [x] s t ∧
        MemKept s t)) ∧
      ((s.armed 2 = false ∨ s.sealed = true) → fget m 23 0 ≠ fget (s.reg x) 23 0 → Runs (.threshWrite v w) s (fun t =>
        t.rd bCtl F.Ctl.ERR.LOCKVIOL = 1 ∧ t.reg x = s.reg x ∧ MemKept s t))) ∧
    (∀ (slacks : List Int) vout iout rtemp version, s.rd bThm F.Thm.AVSCFG.EN = 1 → s.thms.pwrAt.isSome = true →
      s.thms.avsStop = false → s.thms.avsAt ≤ s.cycle → slacks ≠ [] →
      (s.thms.avsRun = true → ∀ least ∈ slacks, (∀ a ∈ slacks, least ≤ a) →
        let v : Int := s.rd bThm F.Thm.AVSSTAT.VOUT
        let margin : Int := s.rd bThm F.Thm.AVSCFG.MARGIN
        let vmin : Int := max 650 (s.rd bThm F.Thm.AVSCFG.VMIN)
        let vmax : Int := min 850 (s.rd bThm F.Thm.AVSCFG.VMAX)
        let stepped := fun (d : Int) (t : State) => t.rd bThm F.Thm.AVSSTAT.VOUT = ofSigned 10 (min (max (v + d) vmin) vmax) ∧
          t.thms.avsAt = s.cycle + 100000 ∧ RegsKept [bThm + 0x40] s t ∧ MemKept s t
        let run := Runs (.avsStep slacks vout iout rtemp 0 version) s
        (least ≤ 0 → run (fun t => stepped 25 t ∧ t.rd bThm F.Thm.AVSSTAT.ALARM = 1)) ∧
        (0 < least → least < margin - 2 → run (stepped 5)) ∧
        (0 < least → margin - 2 ≤ least → margin + 2 < least → run (stepped (-5))) ∧
        (0 < least → margin - 2 ≤ least → least ≤ margin + 2 → run (stepped 0))) ∧
      (s.thms.avsRun = true → s.thms.avsFails = 0 → Runs (.avsStep slacks vout iout rtemp 2 version) s (fun t =>
        Held bThm F.Thm.AVSSTAT.VOUT s t ∧ t.thms.avsFails = 2 ∧ Out.avs 0xe none ∈ t.outbox ∧ MemKept s t)) ∧
      (s.thms.avsRun = false →
        (version = 13 → Runs (.avsStep slacks vout iout rtemp 0 version) s (fun t => t.thms.avsRun = true ∧
          Out.avs 0xf none ∈ t.outbox ∧ Out.avs 0x1 (some 1) ∈ t.outbox ∧ Out.avs 0x0 none ∈ t.outbox ∧ MemKept s t)) ∧
        (version ≠ 13 → Runs (.avsStep slacks vout iout rtemp 0 version) s (fun t => t.thms.avsRun = false ∧
          t.outbox = Out.avs 0xf none :: s.outbox ∧ RegsKept [] s t ∧ MemKept s t))) ∧
      (∀ fails, 0 < fails → 3 ≤ s.thms.avsFails + fails → Runs (.avsStep slacks vout iout rtemp fails version) s (fun t =>
        t.rd bThm F.Thm.AVSSTAT.BUSERR = 1 ∧ t.thms.avsStop = true ∧ t.outbox = Out.avs 0xe none :: s.outbox ∧ MemKept s t)))

/-! ### Reset, time and the whole machine -/

/-- After the release of POR_N with the straps open (R42, R136, R290, R349, R358, R379, R383, R405): every register holds
its reset value, every engine is IDLE, every channel is safe, no domain is on and every one but 84 is enabled, nothing is
locked, armed or waiting. -/
def Obligations.ResetState : Prop :=
  let s := State.reset
  s.phase = .running ∧ s.pending = [] ∧ s.commits = [] ∧ (∀ x, s.reg x = regReset x ∧ s.stg x = regReset x ∧ s.tw x = tableReset x) ∧
    (∀ k, k < 32 → s.engState k = 0 ∧ (s.eng k).calls = [] ∧ (s.eng k).loops = [] ∧ (∀ r, r < 16 → s.g k r = 0#64)) ∧
    (∀ g, g < 512 → (s.chan g).safe = true ∧ s.rd (bCh g) F.Ch.PESTAT.SAFE = 1) ∧
    (∀ d, d < 96 → s.domOn d = false ∧ s.domEn d = decide (d ≠ 84)) ∧
    s.rd bThm F.Thm.THRESH.WARN = 100 ∧ s.rd bThm F.Thm.THRESH.THROT = 110 ∧ s.rd bThm F.Thm.THRESH.SHUT = 120 ∧
    s.tbState = 0 ∧ s.isHead = false ∧ s.frozen = false ∧ s.sealed = false ∧ (∀ b, s.armed b = false) ∧
    (∀ d, d < 4 → s.domState d = 0)

/-- With no command waiting one TBCLK cycle passes: the coarse count of every skein advances by one, modulo its 52 bits
(R51), an engine in RUN or WAIT counts it (the model's own time step, log entry 2). -/
def Obligations.EmptyQueueTicks : Prop :=
  ∀ (s : State), s.pending = [] → s.phase = .running → s.viewOps = [] → ∃ t, step s = .next t ∧ t.cycle = s.cycle + 1 ∧
    t.coarse = (s.coarse + 1) % 2 ^ 52 ∧ t.pending = [] ∧ MemKept s t ∧
    (∀ k, k < 32 → (s.engState k = 2 ∨ s.engState k = 3) → Grew (bEng k) F.Eng.ECYCLES 1 s t) ∧
    (∀ k, k < 32 → s.engState k ≠ 2 → s.engState k ≠ 3 → Held (bEng k) F.Eng.ECYCLES s t) ∧
    (∀ k, k < 32 → t.engState k = s.engState k ∧ t.pc k = s.pc k)

/-- The word of every TYM instruction decodes to that instruction, with every operand at every value, and holds its fields at
the places of R155; every word that decodes is the word of its instruction; and the opcodes that no table assigns decode to none (R155, R157). -/
def Obligations.TymRoundTrip : Prop :=
  (∀ i k op o, tymParts i = some (k, op, o) → (tymOneForm i = true → o.form = false) →
    ∃ w, tymEncode i = some w ∧ tymDecode k w = some i) ∧
  (∀ i k op o w, tymParts i = some (k, op, o) → tymEncode i = some w →
    w.extractLsb' 56 8 = op ∧ w.extractLsb' 52 4 = o.cond ∧ w.extractLsb' 48 4 = o.dst ∧ w.extractLsb' 44 4 = o.srca ∧
    w.extractLsb' 40 4 = o.srcb ∧ w.extractLsb' 0 40 = o.imm) ∧
  (∀ k w i, tymDecode k w = some i → tymEncode i = some w ∧ (∃ op o, tymParts i = some (k, op, o))) ∧
  (∀ k (w : Word), let op := (w.extractLsb' 56 8).toNat
    (0x0c ≤ op ∧ op ≤ 0x1f ∨ 0x29 ≤ op ∧ op ≤ 0x3f ∨ 0x47 ≤ op ∧ op ≤ 0x5f ∨ 0x86 ≤ op) → tymDecode k w = none)

/-- Every step from a state whose stores are in canonical form leads to such a state, whatever command is taken. -/
def Obligations.InvariantKept : Prop := ∀ s t : State, Inv s → step s = .next t → Inv t

/-- The state after reset has the invariant. -/
def Obligations.InvariantAtReset : Prop := Inv State.reset
end

