-- ==== Sys2Proof/Laws/Sparse.lean ====
section
/-! SUPPORT. The laws of the sparse tables and of bit fields: read after write, and the canonical form. -/

namespace Sys2Proof.Machine

section Tables

variable {α : Type} (d : Nat → α)

theorem tget_tins_same (t : Table α) (k : Nat) (v : α) (h : ∀ e ∈ t, e.1 ≠ k) : tget d (tins k v t) k = v := by
  induction t with
  | nil => simp [tins, tget]
  | cons e t ih =>
    obtain ⟨a, w⟩ := e
    have ha : a ≠ k := h (a, w) (by simp)
    unfold tins
    split
    · simp [tget]
    · simp only [tget, if_neg (Ne.symm ha)]
      exact ih (fun e he => h e (by simp [he]))

theorem tget_tins_other (t : Table α) (k j : Nat) (v : α) (h : j ≠ k) : tget d (tins k v t) j = tget d t j := by
  induction t with
  | nil => simp [tins, tget, h]
  | cons e t ih =>
    obtain ⟨a, w⟩ := e
    unfold tins
    split
    · simp [tget, h]
    · simp only [tget, ih]

theorem tget_tdel_same (t : Table α) (k : Nat) : tget d (tdel k t) k = d k := by
  induction t with
  | nil => simp [tdel, tget]
  | cons e t ih =>
    obtain ⟨a, w⟩ := e
    unfold tdel
    split
    · exact ih
    · rename_i hne
      simp only [tget, if_neg (Ne.symm hne), ih]

theorem tget_tdel_other (t : Table α) (k j : Nat) (h : j ≠ k) : tget d (tdel k t) j = tget d t j := by
  induction t with
  | nil => simp [tdel]
  | cons e t ih =>
    obtain ⟨a, w⟩ := e
    unfold tdel
    split
    · rename_i hk
      subst hk; simp only [tget, if_neg h, ih]
    · simp only [tget, ih]

theorem not_mem_tdel (t : Table α) (k : Nat) : ∀ e ∈ tdel k t, e.1 ≠ k := by
  induction t with
  | nil => simp [tdel]
  | cons e t ih =>
    obtain ⟨a, w⟩ := e
    unfold tdel
    split
    · exact ih
    · intro x hx
      rcases List.mem_cons.mp hx with rfl | hx
      · assumption
      · exact ih x hx

variable [DecidableEq α]

/-- A read after a write of the same key gives the value written. -/
@[simp] theorem tget_tput_same (t : Table α) (k : Nat) (v : α) : tget d (tput d t k v) k = v := by
  unfold tput
  split
  · rename_i h; rw [tget_tdel_same, h]
  · exact tget_tins_same d _ k v (not_mem_tdel t k)

/-- A write leaves every other key alone. -/
theorem tget_tput_other (t : Table α) (k j : Nat) (v : α) (h : j ≠ k) : tget d (tput d t k v) j = tget d t j := by
  unfold tput
  split
  · exact tget_tdel_other d t k j h
  · rw [tget_tins_other d _ k j v h, tget_tdel_other d t k j h]

theorem tget_tput (t : Table α) (k j : Nat) (v : α) :
    tget d (tput d t k v) j = if j = k then v else tget d t j := by
  split
  · rename_i h; rw [h, tget_tput_same]
  · rename_i h; exact tget_tput_other d t k j v h

/-- Above a lower bound. -/
def above (lo : Option Nat) (k : Nat) : Prop := ∀ l, lo = some l → l < k

theorem twfFrom_cons (lo : Option Nat) (a : Nat) (v : α) (t : Table α) :
    twfFrom d lo ((a, v) :: t) = true ↔ above lo a ∧ v ≠ d a ∧ twfFrom d (some a) t = true := by
  cases lo <;> simp [twfFrom, above, and_assoc]

theorem twfFrom_weaken (t : Table α) (lo hi : Option Nat) (h : ∀ k, above hi k → above lo k)
    (hw : twfFrom d hi t = true) : twfFrom d lo t = true := by
  cases t with
  | nil => rfl
  | cons e t =>
    obtain ⟨a, v⟩ := e
    rw [twfFrom_cons] at hw ⊢
    exact ⟨h a hw.1, hw.2⟩

theorem twfFrom_tdel (t : Table α) (lo : Option Nat) (k : Nat) (hw : twfFrom d lo t = true) :
    twfFrom d lo (tdel k t) = true := by
  induction t generalizing lo with
  | nil => rfl
  | cons e t ih =>
    obtain ⟨a, v⟩ := e
    rw [twfFrom_cons] at hw
    unfold tdel
    split
    · exact ih lo (twfFrom_weaken d t lo (some a) (fun j hj l hl => Nat.lt_trans (hw.1 l hl) (hj a rfl)) hw.2.2)
    · rw [twfFrom_cons]
      exact ⟨hw.1, hw.2.1, ih (some a) hw.2.2⟩

theorem twfFrom_tins (t : Table α) (lo : Option Nat) (k : Nat) (v : α) (hlo : above lo k) (hv : v ≠ d k)
    (hn : ∀ e ∈ t, e.1 ≠ k) (hw : twfFrom d lo t = true) : twfFrom d lo (tins k v t) = true := by
  induction t generalizing lo with
  | nil => exact (twfFrom_cons d lo k v []).mpr ⟨hlo, hv, rfl⟩
  | cons e t ih =>
    obtain ⟨a, w⟩ := e
    rw [twfFrom_cons] at hw
    unfold tins
    split
    · rename_i hka
      rw [twfFrom_cons, twfFrom_cons]
      exact ⟨hlo, hv, fun l hl => by cases hl; exact hka, hw.2⟩
    · rename_i hka
      have hne : a ≠ k := hn (a, w) (by simp)
      rw [twfFrom_cons]
      exact ⟨hw.1, hw.2.1, ih (some a) (fun l hl => by cases hl; omega) (fun e he => hn e (by simp [he])) hw.2.2⟩

/-- A write keeps the canonical form. -/
theorem twf_tput (t : Table α) (k : Nat) (v : α) (hw : twf d t = true) : twf d (tput d t k v) = true := by
  unfold tput
  split
  · exact twfFrom_tdel d t none k hw
  · rename_i hv
    exact twfFrom_tins d _ none k v (fun l hl => by cases hl) hv (not_mem_tdel t k) (twfFrom_tdel d t none k hw)

/-- Dropping entries keeps the canonical form. -/
theorem twfFrom_filter (t : Table α) (lo : Option Nat) (p : Nat × α → Bool) (hw : twfFrom d lo t = true) :
    twfFrom d lo (t.filter p) = true := by
  induction t generalizing lo with
  | nil => rfl
  | cons e t ih =>
    obtain ⟨a, v⟩ := e
    rw [twfFrom_cons] at hw
    rw [List.filter_cons]
    split
    · rw [twfFrom_cons]; exact ⟨hw.1, hw.2.1, ih (some a) hw.2.2⟩
    · exact ih lo (twfFrom_weaken d t lo (some a) (fun j hj l hl => Nat.lt_trans (hw.1 l hl) (hj a rfl)) hw.2.2)

theorem twf_filter (t : Table α) (p : Nat × α → Bool) (hw : twf d t = true) : twf d (t.filter p) = true :=
  twfFrom_filter d t none p hw

omit [DecidableEq α] in
theorem tget_filter (t : Table α) (p : Nat → Bool) (j : Nat) :
    tget d (t.filter (fun e => p e.1)) j = if p j then tget d t j else d j := by
  induction t with
  | nil => simp [tget]
  | cons e t ih =>
    obtain ⟨a, v⟩ := e
    rw [List.filter_cons]
    split
    · rename_i hp
      simp only [tget, ih]
      by_cases hj : j = a
      · subst hj; simp_all
      · simp [hj]
    · rename_i hp
      simp only [tget, ih]
      by_cases hj : j = a
      · subst hj; simp_all
      · simp [hj]

end Tables

/-! ### Bit fields -/

theorem testBit_fget (w : Word) (hi lo i : Nat) :
    (fget w hi lo).testBit i = (decide (i < hi + 1 - lo) && w.getLsbD (lo + i)) := by
  unfold fget
  rw [Nat.testBit_mod_two_pow, Nat.testBit_div_two_pow, BitVec.getLsbD, Nat.add_comm i lo]

theorem getLsbD_fmask (hi lo j : Nat) :
    (fmask hi lo).getLsbD j = (decide (j < 64) && decide (lo ≤ j ∧ j ≤ hi)) := by
  unfold fmask
  rw [BitVec.getLsbD_ofNat, Nat.testBit_mul_two_pow, Nat.testBit_two_pow_sub_one]
  by_cases h : lo ≤ j
  · have : (j - lo < hi + 1 - lo) ↔ j ≤ hi := by omega
    simp [h, this]
  · simp [h]

theorem getLsbD_fset (w : Word) (hi lo v j : Nat) :
    (fset w hi lo v).getLsbD j = (decide (j < 64) && if lo ≤ j ∧ j ≤ hi then v.testBit (j - lo) else w.getLsbD j) := by
  unfold fset
  rw [BitVec.getLsbD_or, BitVec.getLsbD_and, BitVec.getLsbD_not, getLsbD_fmask, BitVec.getLsbD_ofNat,
    Nat.testBit_mul_two_pow, Nat.testBit_mod_two_pow]
  by_cases h64 : j < 64
  · by_cases hlo : lo ≤ j
    · by_cases hhi : j ≤ hi
      · have h2 : j - lo < hi + 1 - lo := by omega
        simp [h64, hlo, hhi, h2]
      · have h2 : ¬ j - lo < hi + 1 - lo := by omega
        simp [h64, hlo, hhi, h2]
    · simp [h64, hlo]
  · have : w.getLsbD j = false := BitVec.getLsbD_of_ge w j (by omega)
    simp [h64, this]

/-- A field read after it is written. -/
theorem fget_fset_same (w : Word) (hi lo v : Nat) (h : hi < 64) :
    fget (fset w hi lo v) hi lo = v % 2 ^ (hi + 1 - lo) := by
  apply Nat.eq_of_testBit_eq
  intro i
  rw [testBit_fget, getLsbD_fset, Nat.testBit_mod_two_pow]
  by_cases hi' : i < hi + 1 - lo
  · have h1 : lo + i < 64 := by omega
    have h2 : lo ≤ lo + i ∧ lo + i ≤ hi := by omega
    simp [hi', h1, h2]
  · simp [hi']

/-- A field is left alone by a write of another. -/
theorem fget_fset_other (w : Word) (hi lo v hb lo' : Nat) (h : hb < lo ∨ hi < lo') :
    fget (fset w hi lo v) hb lo' = fget w hb lo' := by
  apply Nat.eq_of_testBit_eq
  intro i
  rw [testBit_fget, testBit_fget, getLsbD_fset]
  by_cases hi' : i < hb + 1 - lo'
  · have h2 : ¬ (lo ≤ lo' + i ∧ lo' + i ≤ hi) := by omega
    by_cases h64 : lo' + i < 64
    · simp [hi', h2, h64]
    · have : w.getLsbD (lo' + i) = false := BitVec.getLsbD_of_ge w (lo' + i) (by omega)
      simp [hi', h64, this]
  · simp [hi']

theorem fget_lt (w : Word) (hi lo : Nat) : fget w hi lo < 2 ^ (hi + 1 - lo) := Nat.mod_lt _ (Nat.two_pow_pos _)

end Sys2Proof.Machine
end

