-- ==== Sys2Proof/Laws/State.lean ====
section
/-! SUPPORT. What each update of the state leaves alone: one lemma per field per update. -/

namespace Sys2Proof.Machine

variable (s : State)

@[simp] theorem setReg_phase (x : Nat) (w : Word) : (s.setReg x w).phase = s.phase := rfl
@[simp] theorem setReg_pending (x : Nat) (w : Word) : (s.setReg x w).pending = s.pending := rfl
@[simp] theorem setReg_cycle (x : Nat) (w : Word) : (s.setReg x w).cycle = s.cycle := rfl
@[simp] theorem setReg_coarse (x : Nat) (w : Word) : (s.setReg x w).coarse = s.coarse := rfl
@[simp] theorem setReg_regs0 (x : Nat) (w : Word) : (s.setReg x w).regs0 = s.regs0 := rfl
@[simp] theorem setReg_raised (x : Nat) (w : Word) : (s.setReg x w).raised = s.raised := rfl
@[simp] theorem setReg_viewOps (x : Nat) (w : Word) : (s.setReg x w).viewOps = s.viewOps := rfl
@[simp] theorem setReg_staged (x : Nat) (w : Word) : (s.setReg x w).staged = s.staged := rfl
@[simp] theorem setReg_staged0 (x : Nat) (w : Word) : (s.setReg x w).staged0 = s.staged0 := rfl
@[simp] theorem setReg_lowBuf (x : Nat) (w : Word) : (s.setReg x w).lowBuf = s.lowBuf := rfl
@[simp] theorem setReg_tables (x : Nat) (w : Word) : (s.setReg x w).tables = s.tables := rfl
@[simp] theorem setReg_unlockAt (x : Nat) (w : Word) : (s.setReg x w).unlockAt = s.unlockAt := rfl
@[simp] theorem setReg_onceDone (x : Nat) (w : Word) : (s.setReg x w).onceDone = s.onceDone := rfl
@[simp] theorem setReg_commits (x : Nat) (w : Word) : (s.setReg x w).commits = s.commits := rfl
@[simp] theorem setReg_chans (x : Nat) (w : Word) : (s.setReg x w).chans = s.chans := rfl
@[simp] theorem setReg_skeins (x : Nat) (w : Word) : (s.setReg x w).skeins = s.skeins := rfl
@[simp] theorem setReg_slots (x : Nat) (w : Word) : (s.setReg x w).slots = s.slots := rfl
@[simp] theorem setReg_engs (x : Nat) (w : Word) : (s.setReg x w).engs = s.engs := rfl
@[simp] theorem setReg_vus (x : Nat) (w : Word) : (s.setReg x w).vus = s.vus := rfl
@[simp] theorem setReg_doms (x : Nat) (w : Word) : (s.setReg x w).doms = s.doms := rfl
@[simp] theorem setReg_condCnt (x : Nat) (w : Word) : (s.setReg x w).condCnt = s.condCnt := rfl
@[simp] theorem setReg_strms (x : Nat) (w : Word) : (s.setReg x w).strms = s.strms := rfl
@[simp] theorem setReg_adcQ (x : Nat) (w : Word) : (s.setReg x w).adcQ = s.adcQ := rfl
@[simp] theorem setReg_ports (x : Nat) (w : Word) : (s.setReg x w).ports = s.ports := rfl
@[simp] theorem setReg_pcs (x : Nat) (w : Word) : (s.setReg x w).pcs = s.pcs := rfl
@[simp] theorem setReg_hrings (x : Nat) (w : Word) : (s.setReg x w).hrings = s.hrings := rfl
@[simp] theorem setReg_hbm (x : Nat) (w : Word) : (s.setReg x w).hbm = s.hbm := rfl
@[simp] theorem setReg_memc (x : Nat) (w : Word) : (s.setReg x w).memc = s.memc := rfl
@[simp] theorem setReg_dmas (x : Nat) (w : Word) : (s.setReg x w).dmas = s.dmas := rfl
@[simp] theorem setReg_mram (x : Nat) (w : Word) : (s.setReg x w).mram = s.mram := rfl
@[simp] theorem setReg_lps (x : Nat) (w : Word) : (s.setReg x w).lps = s.lps := rfl
@[simp] theorem setReg_lnk (x : Nat) (w : Word) : (s.setReg x w).lnk = s.lnk := rfl
@[simp] theorem setReg_tbs (x : Nat) (w : Word) : (s.setReg x w).tbs = s.tbs := rfl
@[simp] theorem setReg_thms (x : Nat) (w : Word) : (s.setReg x w).thms = s.thms := rfl
@[simp] theorem setReg_cals (x : Nat) (w : Word) : (s.setReg x w).cals = s.cals := rfl
@[simp] theorem setReg_irqSent (x : Nat) (w : Word) : (s.setReg x w).irqSent = s.irqSent := rfl
@[simp] theorem setReg_irqLatch (x : Nat) (w : Word) : (s.setReg x w).irqLatch = s.irqLatch := rfl
@[simp] theorem setReg_irqAt (x : Nat) (w : Word) : (s.setReg x w).irqAt = s.irqAt := rfl
@[simp] theorem setReg_cfgAt (x : Nat) (w : Word) : (s.setReg x w).cfgAt = s.cfgAt := rfl
@[simp] theorem setReg_holdLog (x : Nat) (w : Word) : (s.setReg x w).holdLog = s.holdLog := rfl
@[simp] theorem setReg_dllLog (x : Nat) (w : Word) : (s.setReg x w).dllLog = s.dllLog := rfl
@[simp] theorem setReg_jtag (x : Nat) (w : Word) : (s.setReg x w).jtag = s.jtag := rfl
@[simp] theorem setReg_free (x : Nat) (w : Word) : (s.setReg x w).free = s.free := rfl
@[simp] theorem setReg_outbox (x : Nat) (w : Word) : (s.setReg x w).outbox = s.outbox := rfl
@[simp] theorem setReg_stg (x : Nat) (w : Word) (y : Nat) : (s.setReg x w).stg y = s.stg y := rfl
@[simp] theorem setReg_tw (x : Nat) (w : Word) (y : Nat) : (s.setReg x w).tw y = s.tw y := rfl
@[simp] theorem setReg_chan (x : Nat) (w : Word) (n : Nat) : (s.setReg x w).chan n = s.chan n := rfl
@[simp] theorem setReg_skein (x : Nat) (w : Word) (n : Nat) : (s.setReg x w).skein n = s.skein n := rfl
@[simp] theorem setReg_slot (x : Nat) (w : Word) (m n : Nat) : (s.setReg x w).slot m n = s.slot m n := rfl
@[simp] theorem setReg_eng (x : Nat) (w : Word) (n : Nat) : (s.setReg x w).eng n = s.eng n := rfl
@[simp] theorem setReg_vu (x : Nat) (w : Word) (n : Nat) : (s.setReg x w).vu n = s.vu n := rfl
@[simp] theorem setReg_dom (x : Nat) (w : Word) (n : Nat) : (s.setReg x w).dom n = s.dom n := rfl
@[simp] theorem setReg_strm (x : Nat) (w : Word) (n : Nat) : (s.setReg x w).strm n = s.strm n := rfl
@[simp] theorem setReg_port (x : Nat) (w : Word) (n : Nat) : (s.setReg x w).port n = s.port n := rfl
@[simp] theorem setReg_pchan (x : Nat) (w : Word) (n : Nat) : (s.setReg x w).pchan n = s.pchan n := rfl
@[simp] theorem setReg_dma (x : Nat) (w : Word) (n : Nat) : (s.setReg x w).dma n = s.dma n := rfl
@[simp] theorem setReg_hring (x : Nat) (w : Word) (n : Nat) : (s.setReg x w).hring n = s.hring n := rfl
@[simp] theorem setReg_lp (x : Nat) (w : Word) (n : Nat) : (s.setReg x w).lp n = s.lp n := rfl

@[simp] theorem wr_phase (b : Nat) (f : Fld) (v : Nat) : (s.wr b f v).phase = s.phase := rfl
@[simp] theorem wr_pending (b : Nat) (f : Fld) (v : Nat) : (s.wr b f v).pending = s.pending := rfl
@[simp] theorem wr_cycle (b : Nat) (f : Fld) (v : Nat) : (s.wr b f v).cycle = s.cycle := rfl
@[simp] theorem wr_coarse (b : Nat) (f : Fld) (v : Nat) : (s.wr b f v).coarse = s.coarse := rfl
@[simp] theorem wr_regs0 (b : Nat) (f : Fld) (v : Nat) : (s.wr b f v).regs0 = s.regs0 := rfl
@[simp] theorem wr_raised (b : Nat) (f : Fld) (v : Nat) : (s.wr b f v).raised = s.raised := rfl
@[simp] theorem wr_viewOps (b : Nat) (f : Fld) (v : Nat) : (s.wr b f v).viewOps = s.viewOps := rfl
@[simp] theorem wr_staged (b : Nat) (f : Fld) (v : Nat) : (s.wr b f v).staged = s.staged := rfl
@[simp] theorem wr_staged0 (b : Nat) (f : Fld) (v : Nat) : (s.wr b f v).staged0 = s.staged0 := rfl
@[simp] theorem wr_lowBuf (b : Nat) (f : Fld) (v : Nat) : (s.wr b f v).lowBuf = s.lowBuf := rfl
@[simp] theorem wr_tables (b : Nat) (f : Fld) (v : Nat) : (s.wr b f v).tables = s.tables := rfl
@[simp] theorem wr_unlockAt (b : Nat) (f : Fld) (v : Nat) : (s.wr b f v).unlockAt = s.unlockAt := rfl
@[simp] theorem wr_onceDone (b : Nat) (f : Fld) (v : Nat) : (s.wr b f v).onceDone = s.onceDone := rfl
@[simp] theorem wr_commits (b : Nat) (f : Fld) (v : Nat) : (s.wr b f v).commits = s.commits := rfl
@[simp] theorem wr_chans (b : Nat) (f : Fld) (v : Nat) : (s.wr b f v).chans = s.chans := rfl
@[simp] theorem wr_skeins (b : Nat) (f : Fld) (v : Nat) : (s.wr b f v).skeins = s.skeins := rfl
@[simp] theorem wr_slots (b : Nat) (f : Fld) (v : Nat) : (s.wr b f v).slots = s.slots := rfl
@[simp] theorem wr_engs (b : Nat) (f : Fld) (v : Nat) : (s.wr b f v).engs = s.engs := rfl
@[simp] theorem wr_vus (b : Nat) (f : Fld) (v : Nat) : (s.wr b f v).vus = s.vus := rfl
@[simp] theorem wr_doms (b : Nat) (f : Fld) (v : Nat) : (s.wr b f v).doms = s.doms := rfl
@[simp] theorem wr_condCnt (b : Nat) (f : Fld) (v : Nat) : (s.wr b f v).condCnt = s.condCnt := rfl
@[simp] theorem wr_strms (b : Nat) (f : Fld) (v : Nat) : (s.wr b f v).strms = s.strms := rfl
@[simp] theorem wr_adcQ (b : Nat) (f : Fld) (v : Nat) : (s.wr b f v).adcQ = s.adcQ := rfl
@[simp] theorem wr_ports (b : Nat) (f : Fld) (v : Nat) : (s.wr b f v).ports = s.ports := rfl
@[simp] theorem wr_pcs (b : Nat) (f : Fld) (v : Nat) : (s.wr b f v).pcs = s.pcs := rfl
@[simp] theorem wr_hrings (b : Nat) (f : Fld) (v : Nat) : (s.wr b f v).hrings = s.hrings := rfl
@[simp] theorem wr_hbm (b : Nat) (f : Fld) (v : Nat) : (s.wr b f v).hbm = s.hbm := rfl
@[simp] theorem wr_memc (b : Nat) (f : Fld) (v : Nat) : (s.wr b f v).memc = s.memc := rfl
@[simp] theorem wr_dmas (b : Nat) (f : Fld) (v : Nat) : (s.wr b f v).dmas = s.dmas := rfl
@[simp] theorem wr_mram (b : Nat) (f : Fld) (v : Nat) : (s.wr b f v).mram = s.mram := rfl
@[simp] theorem wr_lps (b : Nat) (f : Fld) (v : Nat) : (s.wr b f v).lps = s.lps := rfl
@[simp] theorem wr_lnk (b : Nat) (f : Fld) (v : Nat) : (s.wr b f v).lnk = s.lnk := rfl
@[simp] theorem wr_tbs (b : Nat) (f : Fld) (v : Nat) : (s.wr b f v).tbs = s.tbs := rfl
@[simp] theorem wr_thms (b : Nat) (f : Fld) (v : Nat) : (s.wr b f v).thms = s.thms := rfl
@[simp] theorem wr_cals (b : Nat) (f : Fld) (v : Nat) : (s.wr b f v).cals = s.cals := rfl
@[simp] theorem wr_irqSent (b : Nat) (f : Fld) (v : Nat) : (s.wr b f v).irqSent = s.irqSent := rfl
@[simp] theorem wr_irqLatch (b : Nat) (f : Fld) (v : Nat) : (s.wr b f v).irqLatch = s.irqLatch := rfl
@[simp] theorem wr_irqAt (b : Nat) (f : Fld) (v : Nat) : (s.wr b f v).irqAt = s.irqAt := rfl
@[simp] theorem wr_cfgAt (b : Nat) (f : Fld) (v : Nat) : (s.wr b f v).cfgAt = s.cfgAt := rfl
@[simp] theorem wr_holdLog (b : Nat) (f : Fld) (v : Nat) : (s.wr b f v).holdLog = s.holdLog := rfl
@[simp] theorem wr_dllLog (b : Nat) (f : Fld) (v : Nat) : (s.wr b f v).dllLog = s.dllLog := rfl
@[simp] theorem wr_jtag (b : Nat) (f : Fld) (v : Nat) : (s.wr b f v).jtag = s.jtag := rfl
@[simp] theorem wr_free (b : Nat) (f : Fld) (v : Nat) : (s.wr b f v).free = s.free := rfl
@[simp] theorem wr_outbox (b : Nat) (f : Fld) (v : Nat) : (s.wr b f v).outbox = s.outbox := rfl
@[simp] theorem wr_stg (b : Nat) (f : Fld) (v : Nat) (y : Nat) : (s.wr b f v).stg y = s.stg y := rfl
@[simp] theorem wr_tw (b : Nat) (f : Fld) (v : Nat) (y : Nat) : (s.wr b f v).tw y = s.tw y := rfl
@[simp] theorem wr_chan (b : Nat) (f : Fld) (v : Nat) (n : Nat) : (s.wr b f v).chan n = s.chan n := rfl
@[simp] theorem wr_skein (b : Nat) (f : Fld) (v : Nat) (n : Nat) : (s.wr b f v).skein n = s.skein n := rfl
@[simp] theorem wr_slot (b : Nat) (f : Fld) (v : Nat) (m n : Nat) : (s.wr b f v).slot m n = s.slot m n := rfl
@[simp] theorem wr_eng (b : Nat) (f : Fld) (v : Nat) (n : Nat) : (s.wr b f v).eng n = s.eng n := rfl
@[simp] theorem wr_vu (b : Nat) (f : Fld) (v : Nat) (n : Nat) : (s.wr b f v).vu n = s.vu n := rfl
@[simp] theorem wr_dom (b : Nat) (f : Fld) (v : Nat) (n : Nat) : (s.wr b f v).dom n = s.dom n := rfl
@[simp] theorem wr_strm (b : Nat) (f : Fld) (v : Nat) (n : Nat) : (s.wr b f v).strm n = s.strm n := rfl
@[simp] theorem wr_port (b : Nat) (f : Fld) (v : Nat) (n : Nat) : (s.wr b f v).port n = s.port n := rfl
@[simp] theorem wr_pchan (b : Nat) (f : Fld) (v : Nat) (n : Nat) : (s.wr b f v).pchan n = s.pchan n := rfl
@[simp] theorem wr_dma (b : Nat) (f : Fld) (v : Nat) (n : Nat) : (s.wr b f v).dma n = s.dma n := rfl
@[simp] theorem wr_hring (b : Nat) (f : Fld) (v : Nat) (n : Nat) : (s.wr b f v).hring n = s.hring n := rfl
@[simp] theorem wr_lp (b : Nat) (f : Fld) (v : Nat) (n : Nat) : (s.wr b f v).lp n = s.lp n := rfl

@[simp] theorem inc_phase (b : Nat) (f : Fld) (v : Nat) : (s.inc b f v).phase = s.phase := rfl
@[simp] theorem inc_pending (b : Nat) (f : Fld) (v : Nat) : (s.inc b f v).pending = s.pending := rfl
@[simp] theorem inc_cycle (b : Nat) (f : Fld) (v : Nat) : (s.inc b f v).cycle = s.cycle := rfl
@[simp] theorem inc_coarse (b : Nat) (f : Fld) (v : Nat) : (s.inc b f v).coarse = s.coarse := rfl
@[simp] theorem inc_regs0 (b : Nat) (f : Fld) (v : Nat) : (s.inc b f v).regs0 = s.regs0 := rfl
@[simp] theorem inc_raised (b : Nat) (f : Fld) (v : Nat) : (s.inc b f v).raised = s.raised := rfl
@[simp] theorem inc_viewOps (b : Nat) (f : Fld) (v : Nat) : (s.inc b f v).viewOps = s.viewOps := rfl
@[simp] theorem inc_staged (b : Nat) (f : Fld) (v : Nat) : (s.inc b f v).staged = s.staged := rfl
@[simp] theorem inc_staged0 (b : Nat) (f : Fld) (v : Nat) : (s.inc b f v).staged0 = s.staged0 := rfl
@[simp] theorem inc_lowBuf (b : Nat) (f : Fld) (v : Nat) : (s.inc b f v).lowBuf = s.lowBuf := rfl
@[simp] theorem inc_tables (b : Nat) (f : Fld) (v : Nat) : (s.inc b f v).tables = s.tables := rfl
@[simp] theorem inc_unlockAt (b : Nat) (f : Fld) (v : Nat) : (s.inc b f v).unlockAt = s.unlockAt := rfl
@[simp] theorem inc_onceDone (b : Nat) (f : Fld) (v : Nat) : (s.inc b f v).onceDone = s.onceDone := rfl
@[simp] theorem inc_commits (b : Nat) (f : Fld) (v : Nat) : (s.inc b f v).commits = s.commits := rfl
@[simp] theorem inc_chans (b : Nat) (f : Fld) (v : Nat) : (s.inc b f v).chans = s.chans := rfl
@[simp] theorem inc_skeins (b : Nat) (f : Fld) (v : Nat) : (s.inc b f v).skeins = s.skeins := rfl
@[simp] theorem inc_slots (b : Nat) (f : Fld) (v : Nat) : (s.inc b f v).slots = s.slots := rfl
@[simp] theorem inc_engs (b : Nat) (f : Fld) (v : Nat) : (s.inc b f v).engs = s.engs := rfl
@[simp] theorem inc_vus (b : Nat) (f : Fld) (v : Nat) : (s.inc b f v).vus = s.vus := rfl
@[simp] theorem inc_doms (b : Nat) (f : Fld) (v : Nat) : (s.inc b f v).doms = s.doms := rfl
@[simp] theorem inc_condCnt (b : Nat) (f : Fld) (v : Nat) : (s.inc b f v).condCnt = s.condCnt := rfl
@[simp] theorem inc_strms (b : Nat) (f : Fld) (v : Nat) : (s.inc b f v).strms = s.strms := rfl
@[simp] theorem inc_adcQ (b : Nat) (f : Fld) (v : Nat) : (s.inc b f v).adcQ = s.adcQ := rfl
@[simp] theorem inc_ports (b : Nat) (f : Fld) (v : Nat) : (s.inc b f v).ports = s.ports := rfl
@[simp] theorem inc_pcs (b : Nat) (f : Fld) (v : Nat) : (s.inc b f v).pcs = s.pcs := rfl
@[simp] theorem inc_hrings (b : Nat) (f : Fld) (v : Nat) : (s.inc b f v).hrings = s.hrings := rfl
@[simp] theorem inc_hbm (b : Nat) (f : Fld) (v : Nat) : (s.inc b f v).hbm = s.hbm := rfl
@[simp] theorem inc_memc (b : Nat) (f : Fld) (v : Nat) : (s.inc b f v).memc = s.memc := rfl
@[simp] theorem inc_dmas (b : Nat) (f : Fld) (v : Nat) : (s.inc b f v).dmas = s.dmas := rfl
@[simp] theorem inc_mram (b : Nat) (f : Fld) (v : Nat) : (s.inc b f v).mram = s.mram := rfl
@[simp] theorem inc_lps (b : Nat) (f : Fld) (v : Nat) : (s.inc b f v).lps = s.lps := rfl
@[simp] theorem inc_lnk (b : Nat) (f : Fld) (v : Nat) : (s.inc b f v).lnk = s.lnk := rfl
@[simp] theorem inc_tbs (b : Nat) (f : Fld) (v : Nat) : (s.inc b f v).tbs = s.tbs := rfl
@[simp] theorem inc_thms (b : Nat) (f : Fld) (v : Nat) : (s.inc b f v).thms = s.thms := rfl
@[simp] theorem inc_cals (b : Nat) (f : Fld) (v : Nat) : (s.inc b f v).cals = s.cals := rfl
@[simp] theorem inc_irqSent (b : Nat) (f : Fld) (v : Nat) : (s.inc b f v).irqSent = s.irqSent := rfl
@[simp] theorem inc_irqLatch (b : Nat) (f : Fld) (v : Nat) : (s.inc b f v).irqLatch = s.irqLatch := rfl
@[simp] theorem inc_irqAt (b : Nat) (f : Fld) (v : Nat) : (s.inc b f v).irqAt = s.irqAt := rfl
@[simp] theorem inc_cfgAt (b : Nat) (f : Fld) (v : Nat) : (s.inc b f v).cfgAt = s.cfgAt := rfl
@[simp] theorem inc_holdLog (b : Nat) (f : Fld) (v : Nat) : (s.inc b f v).holdLog = s.holdLog := rfl
@[simp] theorem inc_dllLog (b : Nat) (f : Fld) (v : Nat) : (s.inc b f v).dllLog = s.dllLog := rfl
@[simp] theorem inc_jtag (b : Nat) (f : Fld) (v : Nat) : (s.inc b f v).jtag = s.jtag := rfl
@[simp] theorem inc_free (b : Nat) (f : Fld) (v : Nat) : (s.inc b f v).free = s.free := rfl
@[simp] theorem inc_outbox (b : Nat) (f : Fld) (v : Nat) : (s.inc b f v).outbox = s.outbox := rfl
@[simp] theorem inc_stg (b : Nat) (f : Fld) (v : Nat) (y : Nat) : (s.inc b f v).stg y = s.stg y := rfl
@[simp] theorem inc_tw (b : Nat) (f : Fld) (v : Nat) (y : Nat) : (s.inc b f v).tw y = s.tw y := rfl
@[simp] theorem inc_chan (b : Nat) (f : Fld) (v : Nat) (n : Nat) : (s.inc b f v).chan n = s.chan n := rfl
@[simp] theorem inc_skein (b : Nat) (f : Fld) (v : Nat) (n : Nat) : (s.inc b f v).skein n = s.skein n := rfl
@[simp] theorem inc_slot (b : Nat) (f : Fld) (v : Nat) (m n : Nat) : (s.inc b f v).slot m n = s.slot m n := rfl
@[simp] theorem inc_eng (b : Nat) (f : Fld) (v : Nat) (n : Nat) : (s.inc b f v).eng n = s.eng n := rfl
@[simp] theorem inc_vu (b : Nat) (f : Fld) (v : Nat) (n : Nat) : (s.inc b f v).vu n = s.vu n := rfl
@[simp] theorem inc_dom (b : Nat) (f : Fld) (v : Nat) (n : Nat) : (s.inc b f v).dom n = s.dom n := rfl
@[simp] theorem inc_strm (b : Nat) (f : Fld) (v : Nat) (n : Nat) : (s.inc b f v).strm n = s.strm n := rfl
@[simp] theorem inc_port (b : Nat) (f : Fld) (v : Nat) (n : Nat) : (s.inc b f v).port n = s.port n := rfl
@[simp] theorem inc_pchan (b : Nat) (f : Fld) (v : Nat) (n : Nat) : (s.inc b f v).pchan n = s.pchan n := rfl
@[simp] theorem inc_dma (b : Nat) (f : Fld) (v : Nat) (n : Nat) : (s.inc b f v).dma n = s.dma n := rfl
@[simp] theorem inc_hring (b : Nat) (f : Fld) (v : Nat) (n : Nat) : (s.inc b f v).hring n = s.hring n := rfl
@[simp] theorem inc_lp (b : Nat) (f : Fld) (v : Nat) (n : Nat) : (s.inc b f v).lp n = s.lp n := rfl

@[simp] theorem setBit_phase (b : Nat) (f : Fld) (i : Nat) (v : Bool) : (s.setBit b f i v).phase = s.phase := rfl
@[simp] theorem setBit_pending (b : Nat) (f : Fld) (i : Nat) (v : Bool) : (s.setBit b f i v).pending = s.pending := rfl
@[simp] theorem setBit_cycle (b : Nat) (f : Fld) (i : Nat) (v : Bool) : (s.setBit b f i v).cycle = s.cycle := rfl
@[simp] theorem setBit_coarse (b : Nat) (f : Fld) (i : Nat) (v : Bool) : (s.setBit b f i v).coarse = s.coarse := rfl
@[simp] theorem setBit_regs0 (b : Nat) (f : Fld) (i : Nat) (v : Bool) : (s.setBit b f i v).regs0 = s.regs0 := rfl
@[simp] theorem setBit_raised (b : Nat) (f : Fld) (i : Nat) (v : Bool) : (s.setBit b f i v).raised = s.raised := rfl
@[simp] theorem setBit_viewOps (b : Nat) (f : Fld) (i : Nat) (v : Bool) : (s.setBit b f i v).viewOps = s.viewOps := rfl
@[simp] theorem setBit_staged (b : Nat) (f : Fld) (i : Nat) (v : Bool) : (s.setBit b f i v).staged = s.staged := rfl
@[simp] theorem setBit_staged0 (b : Nat) (f : Fld) (i : Nat) (v : Bool) : (s.setBit b f i v).staged0 = s.staged0 := rfl
@[simp] theorem setBit_lowBuf (b : Nat) (f : Fld) (i : Nat) (v : Bool) : (s.setBit b f i v).lowBuf = s.lowBuf := rfl
@[simp] theorem setBit_tables (b : Nat) (f : Fld) (i : Nat) (v : Bool) : (s.setBit b f i v).tables = s.tables := rfl
@[simp] theorem setBit_unlockAt (b : Nat) (f : Fld) (i : Nat) (v : Bool) : (s.setBit b f i v).unlockAt = s.unlockAt := rfl
@[simp] theorem setBit_onceDone (b : Nat) (f : Fld) (i : Nat) (v : Bool) : (s.setBit b f i v).onceDone = s.onceDone := rfl
@[simp] theorem setBit_commits (b : Nat) (f : Fld) (i : Nat) (v : Bool) : (s.setBit b f i v).commits = s.commits := rfl
@[simp] theorem setBit_chans (b : Nat) (f : Fld) (i : Nat) (v : Bool) : (s.setBit b f i v).chans = s.chans := rfl
@[simp] theorem setBit_skeins (b : Nat) (f : Fld) (i : Nat) (v : Bool) : (s.setBit b f i v).skeins = s.skeins := rfl
@[simp] theorem setBit_slots (b : Nat) (f : Fld) (i : Nat) (v : Bool) : (s.setBit b f i v).slots = s.slots := rfl
@[simp] theorem setBit_engs (b : Nat) (f : Fld) (i : Nat) (v : Bool) : (s.setBit b f i v).engs = s.engs := rfl
@[simp] theorem setBit_vus (b : Nat) (f : Fld) (i : Nat) (v : Bool) : (s.setBit b f i v).vus = s.vus := rfl
@[simp] theorem setBit_doms (b : Nat) (f : Fld) (i : Nat) (v : Bool) : (s.setBit b f i v).doms = s.doms := rfl
@[simp] theorem setBit_condCnt (b : Nat) (f : Fld) (i : Nat) (v : Bool) : (s.setBit b f i v).condCnt = s.condCnt := rfl
@[simp] theorem setBit_strms (b : Nat) (f : Fld) (i : Nat) (v : Bool) : (s.setBit b f i v).strms = s.strms := rfl
@[simp] theorem setBit_adcQ (b : Nat) (f : Fld) (i : Nat) (v : Bool) : (s.setBit b f i v).adcQ = s.adcQ := rfl
@[simp] theorem setBit_ports (b : Nat) (f : Fld) (i : Nat) (v : Bool) : (s.setBit b f i v).ports = s.ports := rfl
@[simp] theorem setBit_pcs (b : Nat) (f : Fld) (i : Nat) (v : Bool) : (s.setBit b f i v).pcs = s.pcs := rfl
@[simp] theorem setBit_hrings (b : Nat) (f : Fld) (i : Nat) (v : Bool) : (s.setBit b f i v).hrings = s.hrings := rfl
@[simp] theorem setBit_hbm (b : Nat) (f : Fld) (i : Nat) (v : Bool) : (s.setBit b f i v).hbm = s.hbm := rfl
@[simp] theorem setBit_memc (b : Nat) (f : Fld) (i : Nat) (v : Bool) : (s.setBit b f i v).memc = s.memc := rfl
@[simp] theorem setBit_dmas (b : Nat) (f : Fld) (i : Nat) (v : Bool) : (s.setBit b f i v).dmas = s.dmas := rfl
@[simp] theorem setBit_mram (b : Nat) (f : Fld) (i : Nat) (v : Bool) : (s.setBit b f i v).mram = s.mram := rfl
@[simp] theorem setBit_lps (b : Nat) (f : Fld) (i : Nat) (v : Bool) : (s.setBit b f i v).lps = s.lps := rfl
@[simp] theorem setBit_lnk (b : Nat) (f : Fld) (i : Nat) (v : Bool) : (s.setBit b f i v).lnk = s.lnk := rfl
@[simp] theorem setBit_tbs (b : Nat) (f : Fld) (i : Nat) (v : Bool) : (s.setBit b f i v).tbs = s.tbs := rfl
@[simp] theorem setBit_thms (b : Nat) (f : Fld) (i : Nat) (v : Bool) : (s.setBit b f i v).thms = s.thms := rfl
@[simp] theorem setBit_cals (b : Nat) (f : Fld) (i : Nat) (v : Bool) : (s.setBit b f i v).cals = s.cals := rfl
@[simp] theorem setBit_irqSent (b : Nat) (f : Fld) (i : Nat) (v : Bool) : (s.setBit b f i v).irqSent = s.irqSent := rfl
@[simp] theorem setBit_irqLatch (b : Nat) (f : Fld) (i : Nat) (v : Bool) : (s.setBit b f i v).irqLatch = s.irqLatch := rfl
@[simp] theorem setBit_irqAt (b : Nat) (f : Fld) (i : Nat) (v : Bool) : (s.setBit b f i v).irqAt = s.irqAt := rfl
@[simp] theorem setBit_cfgAt (b : Nat) (f : Fld) (i : Nat) (v : Bool) : (s.setBit b f i v).cfgAt = s.cfgAt := rfl
@[simp] theorem setBit_holdLog (b : Nat) (f : Fld) (i : Nat) (v : Bool) : (s.setBit b f i v).holdLog = s.holdLog := rfl
@[simp] theorem setBit_dllLog (b : Nat) (f : Fld) (i : Nat) (v : Bool) : (s.setBit b f i v).dllLog = s.dllLog := rfl
@[simp] theorem setBit_jtag (b : Nat) (f : Fld) (i : Nat) (v : Bool) : (s.setBit b f i v).jtag = s.jtag := rfl
@[simp] theorem setBit_free (b : Nat) (f : Fld) (i : Nat) (v : Bool) : (s.setBit b f i v).free = s.free := rfl
@[simp] theorem setBit_outbox (b : Nat) (f : Fld) (i : Nat) (v : Bool) : (s.setBit b f i v).outbox = s.outbox := rfl
@[simp] theorem setBit_stg (b : Nat) (f : Fld) (i : Nat) (v : Bool) (y : Nat) : (s.setBit b f i v).stg y = s.stg y := rfl
@[simp] theorem setBit_tw (b : Nat) (f : Fld) (i : Nat) (v : Bool) (y : Nat) : (s.setBit b f i v).tw y = s.tw y := rfl
@[simp] theorem setBit_chan (b : Nat) (f : Fld) (i : Nat) (v : Bool) (n : Nat) : (s.setBit b f i v).chan n = s.chan n := rfl
@[simp] theorem setBit_skein (b : Nat) (f : Fld) (i : Nat) (v : Bool) (n : Nat) : (s.setBit b f i v).skein n = s.skein n := rfl
@[simp] theorem setBit_slot (b : Nat) (f : Fld) (i : Nat) (v : Bool) (m n : Nat) : (s.setBit b f i v).slot m n = s.slot m n := rfl
@[simp] theorem setBit_eng (b : Nat) (f : Fld) (i : Nat) (v : Bool) (n : Nat) : (s.setBit b f i v).eng n = s.eng n := rfl
@[simp] theorem setBit_vu (b : Nat) (f : Fld) (i : Nat) (v : Bool) (n : Nat) : (s.setBit b f i v).vu n = s.vu n := rfl
@[simp] theorem setBit_dom (b : Nat) (f : Fld) (i : Nat) (v : Bool) (n : Nat) : (s.setBit b f i v).dom n = s.dom n := rfl
@[simp] theorem setBit_strm (b : Nat) (f : Fld) (i : Nat) (v : Bool) (n : Nat) : (s.setBit b f i v).strm n = s.strm n := rfl
@[simp] theorem setBit_port (b : Nat) (f : Fld) (i : Nat) (v : Bool) (n : Nat) : (s.setBit b f i v).port n = s.port n := rfl
@[simp] theorem setBit_pchan (b : Nat) (f : Fld) (i : Nat) (v : Bool) (n : Nat) : (s.setBit b f i v).pchan n = s.pchan n := rfl
@[simp] theorem setBit_dma (b : Nat) (f : Fld) (i : Nat) (v : Bool) (n : Nat) : (s.setBit b f i v).dma n = s.dma n := rfl
@[simp] theorem setBit_hring (b : Nat) (f : Fld) (i : Nat) (v : Bool) (n : Nat) : (s.setBit b f i v).hring n = s.hring n := rfl
@[simp] theorem setBit_lp (b : Nat) (f : Fld) (i : Nat) (v : Bool) (n : Nat) : (s.setBit b f i v).lp n = s.lp n := rfl

@[simp] theorem setStg_phase (x : Nat) (w : Word) : (s.setStg x w).phase = s.phase := rfl
@[simp] theorem setStg_pending (x : Nat) (w : Word) : (s.setStg x w).pending = s.pending := rfl
@[simp] theorem setStg_cycle (x : Nat) (w : Word) : (s.setStg x w).cycle = s.cycle := rfl
@[simp] theorem setStg_coarse (x : Nat) (w : Word) : (s.setStg x w).coarse = s.coarse := rfl
@[simp] theorem setStg_regs (x : Nat) (w : Word) : (s.setStg x w).regs = s.regs := rfl
@[simp] theorem setStg_regs0 (x : Nat) (w : Word) : (s.setStg x w).regs0 = s.regs0 := rfl
@[simp] theorem setStg_raised (x : Nat) (w : Word) : (s.setStg x w).raised = s.raised := rfl
@[simp] theorem setStg_viewOps (x : Nat) (w : Word) : (s.setStg x w).viewOps = s.viewOps := rfl
@[simp] theorem setStg_staged0 (x : Nat) (w : Word) : (s.setStg x w).staged0 = s.staged0 := rfl
@[simp] theorem setStg_lowBuf (x : Nat) (w : Word) : (s.setStg x w).lowBuf = s.lowBuf := rfl
@[simp] theorem setStg_tables (x : Nat) (w : Word) : (s.setStg x w).tables = s.tables := rfl
@[simp] theorem setStg_unlockAt (x : Nat) (w : Word) : (s.setStg x w).unlockAt = s.unlockAt := rfl
@[simp] theorem setStg_onceDone (x : Nat) (w : Word) : (s.setStg x w).onceDone = s.onceDone := rfl
@[simp] theorem setStg_commits (x : Nat) (w : Word) : (s.setStg x w).commits = s.commits := rfl
@[simp] theorem setStg_chans (x : Nat) (w : Word) : (s.setStg x w).chans = s.chans := rfl
@[simp] theorem setStg_skeins (x : Nat) (w : Word) : (s.setStg x w).skeins = s.skeins := rfl
@[simp] theorem setStg_slots (x : Nat) (w : Word) : (s.setStg x w).slots = s.slots := rfl
@[simp] theorem setStg_engs (x : Nat) (w : Word) : (s.setStg x w).engs = s.engs := rfl
@[simp] theorem setStg_vus (x : Nat) (w : Word) : (s.setStg x w).vus = s.vus := rfl
@[simp] theorem setStg_doms (x : Nat) (w : Word) : (s.setStg x w).doms = s.doms := rfl
@[simp] theorem setStg_condCnt (x : Nat) (w : Word) : (s.setStg x w).condCnt = s.condCnt := rfl
@[simp] theorem setStg_strms (x : Nat) (w : Word) : (s.setStg x w).strms = s.strms := rfl
@[simp] theorem setStg_adcQ (x : Nat) (w : Word) : (s.setStg x w).adcQ = s.adcQ := rfl
@[simp] theorem setStg_ports (x : Nat) (w : Word) : (s.setStg x w).ports = s.ports := rfl
@[simp] theorem setStg_pcs (x : Nat) (w : Word) : (s.setStg x w).pcs = s.pcs := rfl
@[simp] theorem setStg_hrings (x : Nat) (w : Word) : (s.setStg x w).hrings = s.hrings := rfl
@[simp] theorem setStg_hbm (x : Nat) (w : Word) : (s.setStg x w).hbm = s.hbm := rfl
@[simp] theorem setStg_memc (x : Nat) (w : Word) : (s.setStg x w).memc = s.memc := rfl
@[simp] theorem setStg_dmas (x : Nat) (w : Word) : (s.setStg x w).dmas = s.dmas := rfl
@[simp] theorem setStg_mram (x : Nat) (w : Word) : (s.setStg x w).mram = s.mram := rfl
@[simp] theorem setStg_lps (x : Nat) (w : Word) : (s.setStg x w).lps = s.lps := rfl
@[simp] theorem setStg_lnk (x : Nat) (w : Word) : (s.setStg x w).lnk = s.lnk := rfl
@[simp] theorem setStg_tbs (x : Nat) (w : Word) : (s.setStg x w).tbs = s.tbs := rfl
@[simp] theorem setStg_thms (x : Nat) (w : Word) : (s.setStg x w).thms = s.thms := rfl
@[simp] theorem setStg_cals (x : Nat) (w : Word) : (s.setStg x w).cals = s.cals := rfl
@[simp] theorem setStg_irqSent (x : Nat) (w : Word) : (s.setStg x w).irqSent = s.irqSent := rfl
@[simp] theorem setStg_irqLatch (x : Nat) (w : Word) : (s.setStg x w).irqLatch = s.irqLatch := rfl
@[simp] theorem setStg_irqAt (x : Nat) (w : Word) : (s.setStg x w).irqAt = s.irqAt := rfl
@[simp] theorem setStg_cfgAt (x : Nat) (w : Word) : (s.setStg x w).cfgAt = s.cfgAt := rfl
@[simp] theorem setStg_holdLog (x : Nat) (w : Word) : (s.setStg x w).holdLog = s.holdLog := rfl
@[simp] theorem setStg_dllLog (x : Nat) (w : Word) : (s.setStg x w).dllLog = s.dllLog := rfl
@[simp] theorem setStg_jtag (x : Nat) (w : Word) : (s.setStg x w).jtag = s.jtag := rfl
@[simp] theorem setStg_free (x : Nat) (w : Word) : (s.setStg x w).free = s.free := rfl
@[simp] theorem setStg_outbox (x : Nat) (w : Word) : (s.setStg x w).outbox = s.outbox := rfl
@[simp] theorem setStg_reg (x : Nat) (w : Word) (y : Nat) : (s.setStg x w).reg y = s.reg y := rfl
@[simp] theorem setStg_rd (x : Nat) (w : Word) (c : Nat) (g : Fld) : (s.setStg x w).rd c g = s.rd c g := rfl
@[simp] theorem setStg_tw (x : Nat) (w : Word) (y : Nat) : (s.setStg x w).tw y = s.tw y := rfl
@[simp] theorem setStg_chan (x : Nat) (w : Word) (n : Nat) : (s.setStg x w).chan n = s.chan n := rfl
@[simp] theorem setStg_skein (x : Nat) (w : Word) (n : Nat) : (s.setStg x w).skein n = s.skein n := rfl
@[simp] theorem setStg_slot (x : Nat) (w : Word) (m n : Nat) : (s.setStg x w).slot m n = s.slot m n := rfl
@[simp] theorem setStg_eng (x : Nat) (w : Word) (n : Nat) : (s.setStg x w).eng n = s.eng n := rfl
@[simp] theorem setStg_vu (x : Nat) (w : Word) (n : Nat) : (s.setStg x w).vu n = s.vu n := rfl
@[simp] theorem setStg_dom (x : Nat) (w : Word) (n : Nat) : (s.setStg x w).dom n = s.dom n := rfl
@[simp] theorem setStg_strm (x : Nat) (w : Word) (n : Nat) : (s.setStg x w).strm n = s.strm n := rfl
@[simp] theorem setStg_port (x : Nat) (w : Word) (n : Nat) : (s.setStg x w).port n = s.port n := rfl
@[simp] theorem setStg_pchan (x : Nat) (w : Word) (n : Nat) : (s.setStg x w).pchan n = s.pchan n := rfl
@[simp] theorem setStg_dma (x : Nat) (w : Word) (n : Nat) : (s.setStg x w).dma n = s.dma n := rfl
@[simp] theorem setStg_hring (x : Nat) (w : Word) (n : Nat) : (s.setStg x w).hring n = s.hring n := rfl
@[simp] theorem setStg_lp (x : Nat) (w : Word) (n : Nat) : (s.setStg x w).lp n = s.lp n := rfl

@[simp] theorem setTw_phase (x : Nat) (w : BitVec 32) : (s.setTw x w).phase = s.phase := rfl
@[simp] theorem setTw_pending (x : Nat) (w : BitVec 32) : (s.setTw x w).pending = s.pending := rfl
@[simp] theorem setTw_cycle (x : Nat) (w : BitVec 32) : (s.setTw x w).cycle = s.cycle := rfl
@[simp] theorem setTw_coarse (x : Nat) (w : BitVec 32) : (s.setTw x w).coarse = s.coarse := rfl
@[simp] theorem setTw_regs (x : Nat) (w : BitVec 32) : (s.setTw x w).regs = s.regs := rfl
@[simp] theorem setTw_regs0 (x : Nat) (w : BitVec 32) : (s.setTw x w).regs0 = s.regs0 := rfl
@[simp] theorem setTw_raised (x : Nat) (w : BitVec 32) : (s.setTw x w).raised = s.raised := rfl
@[simp] theorem setTw_viewOps (x : Nat) (w : BitVec 32) : (s.setTw x w).viewOps = s.viewOps := rfl
@[simp] theorem setTw_staged (x : Nat) (w : BitVec 32) : (s.setTw x w).staged = s.staged := rfl
@[simp] theorem setTw_staged0 (x : Nat) (w : BitVec 32) : (s.setTw x w).staged0 = s.staged0 := rfl
@[simp] theorem setTw_lowBuf (x : Nat) (w : BitVec 32) : (s.setTw x w).lowBuf = s.lowBuf := rfl
@[simp] theorem setTw_unlockAt (x : Nat) (w : BitVec 32) : (s.setTw x w).unlockAt = s.unlockAt := rfl
@[simp] theorem setTw_onceDone (x : Nat) (w : BitVec 32) : (s.setTw x w).onceDone = s.onceDone := rfl
@[simp] theorem setTw_commits (x : Nat) (w : BitVec 32) : (s.setTw x w).commits = s.commits := rfl
@[simp] theorem setTw_chans (x : Nat) (w : BitVec 32) : (s.setTw x w).chans = s.chans := rfl
@[simp] theorem setTw_skeins (x : Nat) (w : BitVec 32) : (s.setTw x w).skeins = s.skeins := rfl
@[simp] theorem setTw_slots (x : Nat) (w : BitVec 32) : (s.setTw x w).slots = s.slots := rfl
@[simp] theorem setTw_engs (x : Nat) (w : BitVec 32) : (s.setTw x w).engs = s.engs := rfl
@[simp] theorem setTw_vus (x : Nat) (w : BitVec 32) : (s.setTw x w).vus = s.vus := rfl
@[simp] theorem setTw_doms (x : Nat) (w : BitVec 32) : (s.setTw x w).doms = s.doms := rfl
@[simp] theorem setTw_condCnt (x : Nat) (w : BitVec 32) : (s.setTw x w).condCnt = s.condCnt := rfl
@[simp] theorem setTw_strms (x : Nat) (w : BitVec 32) : (s.setTw x w).strms = s.strms := rfl
@[simp] theorem setTw_adcQ (x : Nat) (w : BitVec 32) : (s.setTw x w).adcQ = s.adcQ := rfl
@[simp] theorem setTw_ports (x : Nat) (w : BitVec 32) : (s.setTw x w).ports = s.ports := rfl
@[simp] theorem setTw_pcs (x : Nat) (w : BitVec 32) : (s.setTw x w).pcs = s.pcs := rfl
@[simp] theorem setTw_hrings (x : Nat) (w : BitVec 32) : (s.setTw x w).hrings = s.hrings := rfl
@[simp] theorem setTw_hbm (x : Nat) (w : BitVec 32) : (s.setTw x w).hbm = s.hbm := rfl
@[simp] theorem setTw_memc (x : Nat) (w : BitVec 32) : (s.setTw x w).memc = s.memc := rfl
@[simp] theorem setTw_dmas (x : Nat) (w : BitVec 32) : (s.setTw x w).dmas = s.dmas := rfl
@[simp] theorem setTw_mram (x : Nat) (w : BitVec 32) : (s.setTw x w).mram = s.mram := rfl
@[simp] theorem setTw_lps (x : Nat) (w : BitVec 32) : (s.setTw x w).lps = s.lps := rfl
@[simp] theorem setTw_lnk (x : Nat) (w : BitVec 32) : (s.setTw x w).lnk = s.lnk := rfl
@[simp] theorem setTw_tbs (x : Nat) (w : BitVec 32) : (s.setTw x w).tbs = s.tbs := rfl
@[simp] theorem setTw_thms (x : Nat) (w : BitVec 32) : (s.setTw x w).thms = s.thms := rfl
@[simp] theorem setTw_cals (x : Nat) (w : BitVec 32) : (s.setTw x w).cals = s.cals := rfl
@[simp] theorem setTw_irqSent (x : Nat) (w : BitVec 32) : (s.setTw x w).irqSent = s.irqSent := rfl
@[simp] theorem setTw_irqLatch (x : Nat) (w : BitVec 32) : (s.setTw x w).irqLatch = s.irqLatch := rfl
@[simp] theorem setTw_irqAt (x : Nat) (w : BitVec 32) : (s.setTw x w).irqAt = s.irqAt := rfl
@[simp] theorem setTw_cfgAt (x : Nat) (w : BitVec 32) : (s.setTw x w).cfgAt = s.cfgAt := rfl
@[simp] theorem setTw_holdLog (x : Nat) (w : BitVec 32) : (s.setTw x w).holdLog = s.holdLog := rfl
@[simp] theorem setTw_dllLog (x : Nat) (w : BitVec 32) : (s.setTw x w).dllLog = s.dllLog := rfl
@[simp] theorem setTw_jtag (x : Nat) (w : BitVec 32) : (s.setTw x w).jtag = s.jtag := rfl
@[simp] theorem setTw_free (x : Nat) (w : BitVec 32) : (s.setTw x w).free = s.free := rfl
@[simp] theorem setTw_outbox (x : Nat) (w : BitVec 32) : (s.setTw x w).outbox = s.outbox := rfl
@[simp] theorem setTw_reg (x : Nat) (w : BitVec 32) (y : Nat) : (s.setTw x w).reg y = s.reg y := rfl
@[simp] theorem setTw_rd (x : Nat) (w : BitVec 32) (c : Nat) (g : Fld) : (s.setTw x w).rd c g = s.rd c g := rfl
@[simp] theorem setTw_stg (x : Nat) (w : BitVec 32) (y : Nat) : (s.setTw x w).stg y = s.stg y := rfl
@[simp] theorem setTw_chan (x : Nat) (w : BitVec 32) (n : Nat) : (s.setTw x w).chan n = s.chan n := rfl
@[simp] theorem setTw_skein (x : Nat) (w : BitVec 32) (n : Nat) : (s.setTw x w).skein n = s.skein n := rfl
@[simp] theorem setTw_slot (x : Nat) (w : BitVec 32) (m n : Nat) : (s.setTw x w).slot m n = s.slot m n := rfl
@[simp] theorem setTw_eng (x : Nat) (w : BitVec 32) (n : Nat) : (s.setTw x w).eng n = s.eng n := rfl
@[simp] theorem setTw_vu (x : Nat) (w : BitVec 32) (n : Nat) : (s.setTw x w).vu n = s.vu n := rfl
@[simp] theorem setTw_dom (x : Nat) (w : BitVec 32) (n : Nat) : (s.setTw x w).dom n = s.dom n := rfl
@[simp] theorem setTw_strm (x : Nat) (w : BitVec 32) (n : Nat) : (s.setTw x w).strm n = s.strm n := rfl
@[simp] theorem setTw_port (x : Nat) (w : BitVec 32) (n : Nat) : (s.setTw x w).port n = s.port n := rfl
@[simp] theorem setTw_pchan (x : Nat) (w : BitVec 32) (n : Nat) : (s.setTw x w).pchan n = s.pchan n := rfl
@[simp] theorem setTw_dma (x : Nat) (w : BitVec 32) (n : Nat) : (s.setTw x w).dma n = s.dma n := rfl
@[simp] theorem setTw_hring (x : Nat) (w : BitVec 32) (n : Nat) : (s.setTw x w).hring n = s.hring n := rfl
@[simp] theorem setTw_lp (x : Nat) (w : BitVec 32) (n : Nat) : (s.setTw x w).lp n = s.lp n := rfl

@[simp] theorem setTq_phase (x v : Nat) : (s.setTq x v).phase = s.phase := rfl
@[simp] theorem setTq_pending (x v : Nat) : (s.setTq x v).pending = s.pending := rfl
@[simp] theorem setTq_cycle (x v : Nat) : (s.setTq x v).cycle = s.cycle := rfl
@[simp] theorem setTq_coarse (x v : Nat) : (s.setTq x v).coarse = s.coarse := rfl
@[simp] theorem setTq_regs (x v : Nat) : (s.setTq x v).regs = s.regs := rfl
@[simp] theorem setTq_regs0 (x v : Nat) : (s.setTq x v).regs0 = s.regs0 := rfl
@[simp] theorem setTq_raised (x v : Nat) : (s.setTq x v).raised = s.raised := rfl
@[simp] theorem setTq_viewOps (x v : Nat) : (s.setTq x v).viewOps = s.viewOps := rfl
@[simp] theorem setTq_staged (x v : Nat) : (s.setTq x v).staged = s.staged := rfl
@[simp] theorem setTq_staged0 (x v : Nat) : (s.setTq x v).staged0 = s.staged0 := rfl
@[simp] theorem setTq_lowBuf (x v : Nat) : (s.setTq x v).lowBuf = s.lowBuf := rfl
@[simp] theorem setTq_unlockAt (x v : Nat) : (s.setTq x v).unlockAt = s.unlockAt := rfl
@[simp] theorem setTq_onceDone (x v : Nat) : (s.setTq x v).onceDone = s.onceDone := rfl
@[simp] theorem setTq_commits (x v : Nat) : (s.setTq x v).commits = s.commits := rfl
@[simp] theorem setTq_chans (x v : Nat) : (s.setTq x v).chans = s.chans := rfl
@[simp] theorem setTq_skeins (x v : Nat) : (s.setTq x v).skeins = s.skeins := rfl
@[simp] theorem setTq_slots (x v : Nat) : (s.setTq x v).slots = s.slots := rfl
@[simp] theorem setTq_engs (x v : Nat) : (s.setTq x v).engs = s.engs := rfl
@[simp] theorem setTq_vus (x v : Nat) : (s.setTq x v).vus = s.vus := rfl
@[simp] theorem setTq_doms (x v : Nat) : (s.setTq x v).doms = s.doms := rfl
@[simp] theorem setTq_condCnt (x v : Nat) : (s.setTq x v).condCnt = s.condCnt := rfl
@[simp] theorem setTq_strms (x v : Nat) : (s.setTq x v).strms = s.strms := rfl
@[simp] theorem setTq_adcQ (x v : Nat) : (s.setTq x v).adcQ = s.adcQ := rfl
@[simp] theorem setTq_ports (x v : Nat) : (s.setTq x v).ports = s.ports := rfl
@[simp] theorem setTq_pcs (x v : Nat) : (s.setTq x v).pcs = s.pcs := rfl
@[simp] theorem setTq_hrings (x v : Nat) : (s.setTq x v).hrings = s.hrings := rfl
@[simp] theorem setTq_hbm (x v : Nat) : (s.setTq x v).hbm = s.hbm := rfl
@[simp] theorem setTq_memc (x v : Nat) : (s.setTq x v).memc = s.memc := rfl
@[simp] theorem setTq_dmas (x v : Nat) : (s.setTq x v).dmas = s.dmas := rfl
@[simp] theorem setTq_mram (x v : Nat) : (s.setTq x v).mram = s.mram := rfl
@[simp] theorem setTq_lps (x v : Nat) : (s.setTq x v).lps = s.lps := rfl
@[simp] theorem setTq_lnk (x v : Nat) : (s.setTq x v).lnk = s.lnk := rfl
@[simp] theorem setTq_tbs (x v : Nat) : (s.setTq x v).tbs = s.tbs := rfl
@[simp] theorem setTq_thms (x v : Nat) : (s.setTq x v).thms = s.thms := rfl
@[simp] theorem setTq_cals (x v : Nat) : (s.setTq x v).cals = s.cals := rfl
@[simp] theorem setTq_irqSent (x v : Nat) : (s.setTq x v).irqSent = s.irqSent := rfl
@[simp] theorem setTq_irqLatch (x v : Nat) : (s.setTq x v).irqLatch = s.irqLatch := rfl
@[simp] theorem setTq_irqAt (x v : Nat) : (s.setTq x v).irqAt = s.irqAt := rfl
@[simp] theorem setTq_cfgAt (x v : Nat) : (s.setTq x v).cfgAt = s.cfgAt := rfl
@[simp] theorem setTq_holdLog (x v : Nat) : (s.setTq x v).holdLog = s.holdLog := rfl
@[simp] theorem setTq_dllLog (x v : Nat) : (s.setTq x v).dllLog = s.dllLog := rfl
@[simp] theorem setTq_jtag (x v : Nat) : (s.setTq x v).jtag = s.jtag := rfl
@[simp] theorem setTq_free (x v : Nat) : (s.setTq x v).free = s.free := rfl
@[simp] theorem setTq_outbox (x v : Nat) : (s.setTq x v).outbox = s.outbox := rfl
@[simp] theorem setTq_reg (x v : Nat) (y : Nat) : (s.setTq x v).reg y = s.reg y := rfl
@[simp] theorem setTq_rd (x v : Nat) (c : Nat) (g : Fld) : (s.setTq x v).rd c g = s.rd c g := rfl
@[simp] theorem setTq_stg (x v : Nat) (y : Nat) : (s.setTq x v).stg y = s.stg y := rfl
@[simp] theorem setTq_chan (x v : Nat) (n : Nat) : (s.setTq x v).chan n = s.chan n := rfl
@[simp] theorem setTq_skein (x v : Nat) (n : Nat) : (s.setTq x v).skein n = s.skein n := rfl
@[simp] theorem setTq_slot (x v : Nat) (m n : Nat) : (s.setTq x v).slot m n = s.slot m n := rfl
@[simp] theorem setTq_eng (x v : Nat) (n : Nat) : (s.setTq x v).eng n = s.eng n := rfl
@[simp] theorem setTq_vu (x v : Nat) (n : Nat) : (s.setTq x v).vu n = s.vu n := rfl
@[simp] theorem setTq_dom (x v : Nat) (n : Nat) : (s.setTq x v).dom n = s.dom n := rfl
@[simp] theorem setTq_strm (x v : Nat) (n : Nat) : (s.setTq x v).strm n = s.strm n := rfl
@[simp] theorem setTq_port (x v : Nat) (n : Nat) : (s.setTq x v).port n = s.port n := rfl
@[simp] theorem setTq_pchan (x v : Nat) (n : Nat) : (s.setTq x v).pchan n = s.pchan n := rfl
@[simp] theorem setTq_dma (x v : Nat) (n : Nat) : (s.setTq x v).dma n = s.dma n := rfl
@[simp] theorem setTq_hring (x v : Nat) (n : Nat) : (s.setTq x v).hring n = s.hring n := rfl
@[simp] theorem setTq_lp (x v : Nat) (n : Nat) : (s.setTq x v).lp n = s.lp n := rfl

@[simp] theorem setMramW_phase (a : Nat) (w : BitVec 32) : (s.setMramW a w).phase = s.phase := rfl
@[simp] theorem setMramW_pending (a : Nat) (w : BitVec 32) : (s.setMramW a w).pending = s.pending := rfl
@[simp] theorem setMramW_cycle (a : Nat) (w : BitVec 32) : (s.setMramW a w).cycle = s.cycle := rfl
@[simp] theorem setMramW_coarse (a : Nat) (w : BitVec 32) : (s.setMramW a w).coarse = s.coarse := rfl
@[simp] theorem setMramW_regs (a : Nat) (w : BitVec 32) : (s.setMramW a w).regs = s.regs := rfl
@[simp] theorem setMramW_regs0 (a : Nat) (w : BitVec 32) : (s.setMramW a w).regs0 = s.regs0 := rfl
@[simp] theorem setMramW_raised (a : Nat) (w : BitVec 32) : (s.setMramW a w).raised = s.raised := rfl
@[simp] theorem setMramW_viewOps (a : Nat) (w : BitVec 32) : (s.setMramW a w).viewOps = s.viewOps := rfl
@[simp] theorem setMramW_staged (a : Nat) (w : BitVec 32) : (s.setMramW a w).staged = s.staged := rfl
@[simp] theorem setMramW_staged0 (a : Nat) (w : BitVec 32) : (s.setMramW a w).staged0 = s.staged0 := rfl
@[simp] theorem setMramW_lowBuf (a : Nat) (w : BitVec 32) : (s.setMramW a w).lowBuf = s.lowBuf := rfl
@[simp] theorem setMramW_tables (a : Nat) (w : BitVec 32) : (s.setMramW a w).tables = s.tables := rfl
@[simp] theorem setMramW_unlockAt (a : Nat) (w : BitVec 32) : (s.setMramW a w).unlockAt = s.unlockAt := rfl
@[simp] theorem setMramW_onceDone (a : Nat) (w : BitVec 32) : (s.setMramW a w).onceDone = s.onceDone := rfl
@[simp] theorem setMramW_commits (a : Nat) (w : BitVec 32) : (s.setMramW a w).commits = s.commits := rfl
@[simp] theorem setMramW_chans (a : Nat) (w : BitVec 32) : (s.setMramW a w).chans = s.chans := rfl
@[simp] theorem setMramW_skeins (a : Nat) (w : BitVec 32) : (s.setMramW a w).skeins = s.skeins := rfl
@[simp] theorem setMramW_slots (a : Nat) (w : BitVec 32) : (s.setMramW a w).slots = s.slots := rfl
@[simp] theorem setMramW_engs (a : Nat) (w : BitVec 32) : (s.setMramW a w).engs = s.engs := rfl
@[simp] theorem setMramW_vus (a : Nat) (w : BitVec 32) : (s.setMramW a w).vus = s.vus := rfl
@[simp] theorem setMramW_doms (a : Nat) (w : BitVec 32) : (s.setMramW a w).doms = s.doms := rfl
@[simp] theorem setMramW_condCnt (a : Nat) (w : BitVec 32) : (s.setMramW a w).condCnt = s.condCnt := rfl
@[simp] theorem setMramW_strms (a : Nat) (w : BitVec 32) : (s.setMramW a w).strms = s.strms := rfl
@[simp] theorem setMramW_adcQ (a : Nat) (w : BitVec 32) : (s.setMramW a w).adcQ = s.adcQ := rfl
@[simp] theorem setMramW_ports (a : Nat) (w : BitVec 32) : (s.setMramW a w).ports = s.ports := rfl
@[simp] theorem setMramW_pcs (a : Nat) (w : BitVec 32) : (s.setMramW a w).pcs = s.pcs := rfl
@[simp] theorem setMramW_hrings (a : Nat) (w : BitVec 32) : (s.setMramW a w).hrings = s.hrings := rfl
@[simp] theorem setMramW_hbm (a : Nat) (w : BitVec 32) : (s.setMramW a w).hbm = s.hbm := rfl
@[simp] theorem setMramW_memc (a : Nat) (w : BitVec 32) : (s.setMramW a w).memc = s.memc := rfl
@[simp] theorem setMramW_dmas (a : Nat) (w : BitVec 32) : (s.setMramW a w).dmas = s.dmas := rfl
@[simp] theorem setMramW_lps (a : Nat) (w : BitVec 32) : (s.setMramW a w).lps = s.lps := rfl
@[simp] theorem setMramW_lnk (a : Nat) (w : BitVec 32) : (s.setMramW a w).lnk = s.lnk := rfl
@[simp] theorem setMramW_tbs (a : Nat) (w : BitVec 32) : (s.setMramW a w).tbs = s.tbs := rfl
@[simp] theorem setMramW_thms (a : Nat) (w : BitVec 32) : (s.setMramW a w).thms = s.thms := rfl
@[simp] theorem setMramW_cals (a : Nat) (w : BitVec 32) : (s.setMramW a w).cals = s.cals := rfl
@[simp] theorem setMramW_irqSent (a : Nat) (w : BitVec 32) : (s.setMramW a w).irqSent = s.irqSent := rfl
@[simp] theorem setMramW_irqLatch (a : Nat) (w : BitVec 32) : (s.setMramW a w).irqLatch = s.irqLatch := rfl
@[simp] theorem setMramW_irqAt (a : Nat) (w : BitVec 32) : (s.setMramW a w).irqAt = s.irqAt := rfl
@[simp] theorem setMramW_cfgAt (a : Nat) (w : BitVec 32) : (s.setMramW a w).cfgAt = s.cfgAt := rfl
@[simp] theorem setMramW_holdLog (a : Nat) (w : BitVec 32) : (s.setMramW a w).holdLog = s.holdLog := rfl
@[simp] theorem setMramW_dllLog (a : Nat) (w : BitVec 32) : (s.setMramW a w).dllLog = s.dllLog := rfl
@[simp] theorem setMramW_jtag (a : Nat) (w : BitVec 32) : (s.setMramW a w).jtag = s.jtag := rfl
@[simp] theorem setMramW_free (a : Nat) (w : BitVec 32) : (s.setMramW a w).free = s.free := rfl
@[simp] theorem setMramW_outbox (a : Nat) (w : BitVec 32) : (s.setMramW a w).outbox = s.outbox := rfl
@[simp] theorem setMramW_reg (a : Nat) (w : BitVec 32) (y : Nat) : (s.setMramW a w).reg y = s.reg y := rfl
@[simp] theorem setMramW_rd (a : Nat) (w : BitVec 32) (c : Nat) (g : Fld) : (s.setMramW a w).rd c g = s.rd c g := rfl
@[simp] theorem setMramW_stg (a : Nat) (w : BitVec 32) (y : Nat) : (s.setMramW a w).stg y = s.stg y := rfl
@[simp] theorem setMramW_tw (a : Nat) (w : BitVec 32) (y : Nat) : (s.setMramW a w).tw y = s.tw y := rfl
@[simp] theorem setMramW_chan (a : Nat) (w : BitVec 32) (n : Nat) : (s.setMramW a w).chan n = s.chan n := rfl
@[simp] theorem setMramW_skein (a : Nat) (w : BitVec 32) (n : Nat) : (s.setMramW a w).skein n = s.skein n := rfl
@[simp] theorem setMramW_slot (a : Nat) (w : BitVec 32) (m n : Nat) : (s.setMramW a w).slot m n = s.slot m n := rfl
@[simp] theorem setMramW_eng (a : Nat) (w : BitVec 32) (n : Nat) : (s.setMramW a w).eng n = s.eng n := rfl
@[simp] theorem setMramW_vu (a : Nat) (w : BitVec 32) (n : Nat) : (s.setMramW a w).vu n = s.vu n := rfl
@[simp] theorem setMramW_dom (a : Nat) (w : BitVec 32) (n : Nat) : (s.setMramW a w).dom n = s.dom n := rfl
@[simp] theorem setMramW_strm (a : Nat) (w : BitVec 32) (n : Nat) : (s.setMramW a w).strm n = s.strm n := rfl
@[simp] theorem setMramW_port (a : Nat) (w : BitVec 32) (n : Nat) : (s.setMramW a w).port n = s.port n := rfl
@[simp] theorem setMramW_pchan (a : Nat) (w : BitVec 32) (n : Nat) : (s.setMramW a w).pchan n = s.pchan n := rfl
@[simp] theorem setMramW_dma (a : Nat) (w : BitVec 32) (n : Nat) : (s.setMramW a w).dma n = s.dma n := rfl
@[simp] theorem setMramW_hring (a : Nat) (w : BitVec 32) (n : Nat) : (s.setMramW a w).hring n = s.hring n := rfl
@[simp] theorem setMramW_lp (a : Nat) (w : BitVec 32) (n : Nat) : (s.setMramW a w).lp n = s.lp n := rfl

@[simp] theorem updChan_phase (i : Nat) (f : Chan → Chan) : (s.updChan i f).phase = s.phase := rfl
@[simp] theorem updChan_pending (i : Nat) (f : Chan → Chan) : (s.updChan i f).pending = s.pending := rfl
@[simp] theorem updChan_cycle (i : Nat) (f : Chan → Chan) : (s.updChan i f).cycle = s.cycle := rfl
@[simp] theorem updChan_coarse (i : Nat) (f : Chan → Chan) : (s.updChan i f).coarse = s.coarse := rfl
@[simp] theorem updChan_regs (i : Nat) (f : Chan → Chan) : (s.updChan i f).regs = s.regs := rfl
@[simp] theorem updChan_regs0 (i : Nat) (f : Chan → Chan) : (s.updChan i f).regs0 = s.regs0 := rfl
@[simp] theorem updChan_raised (i : Nat) (f : Chan → Chan) : (s.updChan i f).raised = s.raised := rfl
@[simp] theorem updChan_viewOps (i : Nat) (f : Chan → Chan) : (s.updChan i f).viewOps = s.viewOps := rfl
@[simp] theorem updChan_staged (i : Nat) (f : Chan → Chan) : (s.updChan i f).staged = s.staged := rfl
@[simp] theorem updChan_staged0 (i : Nat) (f : Chan → Chan) : (s.updChan i f).staged0 = s.staged0 := rfl
@[simp] theorem updChan_lowBuf (i : Nat) (f : Chan → Chan) : (s.updChan i f).lowBuf = s.lowBuf := rfl
@[simp] theorem updChan_tables (i : Nat) (f : Chan → Chan) : (s.updChan i f).tables = s.tables := rfl
@[simp] theorem updChan_unlockAt (i : Nat) (f : Chan → Chan) : (s.updChan i f).unlockAt = s.unlockAt := rfl
@[simp] theorem updChan_onceDone (i : Nat) (f : Chan → Chan) : (s.updChan i f).onceDone = s.onceDone := rfl
@[simp] theorem updChan_commits (i : Nat) (f : Chan → Chan) : (s.updChan i f).commits = s.commits := rfl
@[simp] theorem updChan_skeins (i : Nat) (f : Chan → Chan) : (s.updChan i f).skeins = s.skeins := rfl
@[simp] theorem updChan_slots (i : Nat) (f : Chan → Chan) : (s.updChan i f).slots = s.slots := rfl
@[simp] theorem updChan_engs (i : Nat) (f : Chan → Chan) : (s.updChan i f).engs = s.engs := rfl
@[simp] theorem updChan_vus (i : Nat) (f : Chan → Chan) : (s.updChan i f).vus = s.vus := rfl
@[simp] theorem updChan_doms (i : Nat) (f : Chan → Chan) : (s.updChan i f).doms = s.doms := rfl
@[simp] theorem updChan_condCnt (i : Nat) (f : Chan → Chan) : (s.updChan i f).condCnt = s.condCnt := rfl
@[simp] theorem updChan_strms (i : Nat) (f : Chan → Chan) : (s.updChan i f).strms = s.strms := rfl
@[simp] theorem updChan_adcQ (i : Nat) (f : Chan → Chan) : (s.updChan i f).adcQ = s.adcQ := rfl
@[simp] theorem updChan_ports (i : Nat) (f : Chan → Chan) : (s.updChan i f).ports = s.ports := rfl
@[simp] theorem updChan_pcs (i : Nat) (f : Chan → Chan) : (s.updChan i f).pcs = s.pcs := rfl
@[simp] theorem updChan_hrings (i : Nat) (f : Chan → Chan) : (s.updChan i f).hrings = s.hrings := rfl
@[simp] theorem updChan_hbm (i : Nat) (f : Chan → Chan) : (s.updChan i f).hbm = s.hbm := rfl
@[simp] theorem updChan_memc (i : Nat) (f : Chan → Chan) : (s.updChan i f).memc = s.memc := rfl
@[simp] theorem updChan_dmas (i : Nat) (f : Chan → Chan) : (s.updChan i f).dmas = s.dmas := rfl
@[simp] theorem updChan_mram (i : Nat) (f : Chan → Chan) : (s.updChan i f).mram = s.mram := rfl
@[simp] theorem updChan_lps (i : Nat) (f : Chan → Chan) : (s.updChan i f).lps = s.lps := rfl
@[simp] theorem updChan_lnk (i : Nat) (f : Chan → Chan) : (s.updChan i f).lnk = s.lnk := rfl
@[simp] theorem updChan_tbs (i : Nat) (f : Chan → Chan) : (s.updChan i f).tbs = s.tbs := rfl
@[simp] theorem updChan_thms (i : Nat) (f : Chan → Chan) : (s.updChan i f).thms = s.thms := rfl
@[simp] theorem updChan_cals (i : Nat) (f : Chan → Chan) : (s.updChan i f).cals = s.cals := rfl
@[simp] theorem updChan_irqSent (i : Nat) (f : Chan → Chan) : (s.updChan i f).irqSent = s.irqSent := rfl
@[simp] theorem updChan_irqLatch (i : Nat) (f : Chan → Chan) : (s.updChan i f).irqLatch = s.irqLatch := rfl
@[simp] theorem updChan_irqAt (i : Nat) (f : Chan → Chan) : (s.updChan i f).irqAt = s.irqAt := rfl
@[simp] theorem updChan_cfgAt (i : Nat) (f : Chan → Chan) : (s.updChan i f).cfgAt = s.cfgAt := rfl
@[simp] theorem updChan_holdLog (i : Nat) (f : Chan → Chan) : (s.updChan i f).holdLog = s.holdLog := rfl
@[simp] theorem updChan_dllLog (i : Nat) (f : Chan → Chan) : (s.updChan i f).dllLog = s.dllLog := rfl
@[simp] theorem updChan_jtag (i : Nat) (f : Chan → Chan) : (s.updChan i f).jtag = s.jtag := rfl
@[simp] theorem updChan_free (i : Nat) (f : Chan → Chan) : (s.updChan i f).free = s.free := rfl
@[simp] theorem updChan_outbox (i : Nat) (f : Chan → Chan) : (s.updChan i f).outbox = s.outbox := rfl
@[simp] theorem updChan_reg (i : Nat) (f : Chan → Chan) (y : Nat) : (s.updChan i f).reg y = s.reg y := rfl
@[simp] theorem updChan_rd (i : Nat) (f : Chan → Chan) (c : Nat) (g : Fld) : (s.updChan i f).rd c g = s.rd c g := rfl
@[simp] theorem updChan_stg (i : Nat) (f : Chan → Chan) (y : Nat) : (s.updChan i f).stg y = s.stg y := rfl
@[simp] theorem updChan_tw (i : Nat) (f : Chan → Chan) (y : Nat) : (s.updChan i f).tw y = s.tw y := rfl
@[simp] theorem updChan_skein (i : Nat) (f : Chan → Chan) (n : Nat) : (s.updChan i f).skein n = s.skein n := rfl
@[simp] theorem updChan_slot (i : Nat) (f : Chan → Chan) (m n : Nat) : (s.updChan i f).slot m n = s.slot m n := rfl
@[simp] theorem updChan_eng (i : Nat) (f : Chan → Chan) (n : Nat) : (s.updChan i f).eng n = s.eng n := rfl
@[simp] theorem updChan_vu (i : Nat) (f : Chan → Chan) (n : Nat) : (s.updChan i f).vu n = s.vu n := rfl
@[simp] theorem updChan_dom (i : Nat) (f : Chan → Chan) (n : Nat) : (s.updChan i f).dom n = s.dom n := rfl
@[simp] theorem updChan_strm (i : Nat) (f : Chan → Chan) (n : Nat) : (s.updChan i f).strm n = s.strm n := rfl
@[simp] theorem updChan_port (i : Nat) (f : Chan → Chan) (n : Nat) : (s.updChan i f).port n = s.port n := rfl
@[simp] theorem updChan_pchan (i : Nat) (f : Chan → Chan) (n : Nat) : (s.updChan i f).pchan n = s.pchan n := rfl
@[simp] theorem updChan_dma (i : Nat) (f : Chan → Chan) (n : Nat) : (s.updChan i f).dma n = s.dma n := rfl
@[simp] theorem updChan_hring (i : Nat) (f : Chan → Chan) (n : Nat) : (s.updChan i f).hring n = s.hring n := rfl
@[simp] theorem updChan_lp (i : Nat) (f : Chan → Chan) (n : Nat) : (s.updChan i f).lp n = s.lp n := rfl

@[simp] theorem setChan_phase (i : Nat) (v : Chan) : (s.setChan i v).phase = s.phase := rfl
@[simp] theorem setChan_pending (i : Nat) (v : Chan) : (s.setChan i v).pending = s.pending := rfl
@[simp] theorem setChan_cycle (i : Nat) (v : Chan) : (s.setChan i v).cycle = s.cycle := rfl
@[simp] theorem setChan_coarse (i : Nat) (v : Chan) : (s.setChan i v).coarse = s.coarse := rfl
@[simp] theorem setChan_regs (i : Nat) (v : Chan) : (s.setChan i v).regs = s.regs := rfl
@[simp] theorem setChan_regs0 (i : Nat) (v : Chan) : (s.setChan i v).regs0 = s.regs0 := rfl
@[simp] theorem setChan_raised (i : Nat) (v : Chan) : (s.setChan i v).raised = s.raised := rfl
@[simp] theorem setChan_viewOps (i : Nat) (v : Chan) : (s.setChan i v).viewOps = s.viewOps := rfl
@[simp] theorem setChan_staged (i : Nat) (v : Chan) : (s.setChan i v).staged = s.staged := rfl
@[simp] theorem setChan_staged0 (i : Nat) (v : Chan) : (s.setChan i v).staged0 = s.staged0 := rfl
@[simp] theorem setChan_lowBuf (i : Nat) (v : Chan) : (s.setChan i v).lowBuf = s.lowBuf := rfl
@[simp] theorem setChan_tables (i : Nat) (v : Chan) : (s.setChan i v).tables = s.tables := rfl
@[simp] theorem setChan_unlockAt (i : Nat) (v : Chan) : (s.setChan i v).unlockAt = s.unlockAt := rfl
@[simp] theorem setChan_onceDone (i : Nat) (v : Chan) : (s.setChan i v).onceDone = s.onceDone := rfl
@[simp] theorem setChan_commits (i : Nat) (v : Chan) : (s.setChan i v).commits = s.commits := rfl
@[simp] theorem setChan_skeins (i : Nat) (v : Chan) : (s.setChan i v).skeins = s.skeins := rfl
@[simp] theorem setChan_slots (i : Nat) (v : Chan) : (s.setChan i v).slots = s.slots := rfl
@[simp] theorem setChan_engs (i : Nat) (v : Chan) : (s.setChan i v).engs = s.engs := rfl
@[simp] theorem setChan_vus (i : Nat) (v : Chan) : (s.setChan i v).vus = s.vus := rfl
@[simp] theorem setChan_doms (i : Nat) (v : Chan) : (s.setChan i v).doms = s.doms := rfl
@[simp] theorem setChan_condCnt (i : Nat) (v : Chan) : (s.setChan i v).condCnt = s.condCnt := rfl
@[simp] theorem setChan_strms (i : Nat) (v : Chan) : (s.setChan i v).strms = s.strms := rfl
@[simp] theorem setChan_adcQ (i : Nat) (v : Chan) : (s.setChan i v).adcQ = s.adcQ := rfl
@[simp] theorem setChan_ports (i : Nat) (v : Chan) : (s.setChan i v).ports = s.ports := rfl
@[simp] theorem setChan_pcs (i : Nat) (v : Chan) : (s.setChan i v).pcs = s.pcs := rfl
@[simp] theorem setChan_hrings (i : Nat) (v : Chan) : (s.setChan i v).hrings = s.hrings := rfl
@[simp] theorem setChan_hbm (i : Nat) (v : Chan) : (s.setChan i v).hbm = s.hbm := rfl
@[simp] theorem setChan_memc (i : Nat) (v : Chan) : (s.setChan i v).memc = s.memc := rfl
@[simp] theorem setChan_dmas (i : Nat) (v : Chan) : (s.setChan i v).dmas = s.dmas := rfl
@[simp] theorem setChan_mram (i : Nat) (v : Chan) : (s.setChan i v).mram = s.mram := rfl
@[simp] theorem setChan_lps (i : Nat) (v : Chan) : (s.setChan i v).lps = s.lps := rfl
@[simp] theorem setChan_lnk (i : Nat) (v : Chan) : (s.setChan i v).lnk = s.lnk := rfl
@[simp] theorem setChan_tbs (i : Nat) (v : Chan) : (s.setChan i v).tbs = s.tbs := rfl
@[simp] theorem setChan_thms (i : Nat) (v : Chan) : (s.setChan i v).thms = s.thms := rfl
@[simp] theorem setChan_cals (i : Nat) (v : Chan) : (s.setChan i v).cals = s.cals := rfl
@[simp] theorem setChan_irqSent (i : Nat) (v : Chan) : (s.setChan i v).irqSent = s.irqSent := rfl
@[simp] theorem setChan_irqLatch (i : Nat) (v : Chan) : (s.setChan i v).irqLatch = s.irqLatch := rfl
@[simp] theorem setChan_irqAt (i : Nat) (v : Chan) : (s.setChan i v).irqAt = s.irqAt := rfl
@[simp] theorem setChan_cfgAt (i : Nat) (v : Chan) : (s.setChan i v).cfgAt = s.cfgAt := rfl
@[simp] theorem setChan_holdLog (i : Nat) (v : Chan) : (s.setChan i v).holdLog = s.holdLog := rfl
@[simp] theorem setChan_dllLog (i : Nat) (v : Chan) : (s.setChan i v).dllLog = s.dllLog := rfl
@[simp] theorem setChan_jtag (i : Nat) (v : Chan) : (s.setChan i v).jtag = s.jtag := rfl
@[simp] theorem setChan_free (i : Nat) (v : Chan) : (s.setChan i v).free = s.free := rfl
@[simp] theorem setChan_outbox (i : Nat) (v : Chan) : (s.setChan i v).outbox = s.outbox := rfl
@[simp] theorem setChan_reg (i : Nat) (v : Chan) (y : Nat) : (s.setChan i v).reg y = s.reg y := rfl
@[simp] theorem setChan_rd (i : Nat) (v : Chan) (c : Nat) (g : Fld) : (s.setChan i v).rd c g = s.rd c g := rfl
@[simp] theorem setChan_stg (i : Nat) (v : Chan) (y : Nat) : (s.setChan i v).stg y = s.stg y := rfl
@[simp] theorem setChan_tw (i : Nat) (v : Chan) (y : Nat) : (s.setChan i v).tw y = s.tw y := rfl
@[simp] theorem setChan_skein (i : Nat) (v : Chan) (n : Nat) : (s.setChan i v).skein n = s.skein n := rfl
@[simp] theorem setChan_slot (i : Nat) (v : Chan) (m n : Nat) : (s.setChan i v).slot m n = s.slot m n := rfl
@[simp] theorem setChan_eng (i : Nat) (v : Chan) (n : Nat) : (s.setChan i v).eng n = s.eng n := rfl
@[simp] theorem setChan_vu (i : Nat) (v : Chan) (n : Nat) : (s.setChan i v).vu n = s.vu n := rfl
@[simp] theorem setChan_dom (i : Nat) (v : Chan) (n : Nat) : (s.setChan i v).dom n = s.dom n := rfl
@[simp] theorem setChan_strm (i : Nat) (v : Chan) (n : Nat) : (s.setChan i v).strm n = s.strm n := rfl
@[simp] theorem setChan_port (i : Nat) (v : Chan) (n : Nat) : (s.setChan i v).port n = s.port n := rfl
@[simp] theorem setChan_pchan (i : Nat) (v : Chan) (n : Nat) : (s.setChan i v).pchan n = s.pchan n := rfl
@[simp] theorem setChan_dma (i : Nat) (v : Chan) (n : Nat) : (s.setChan i v).dma n = s.dma n := rfl
@[simp] theorem setChan_hring (i : Nat) (v : Chan) (n : Nat) : (s.setChan i v).hring n = s.hring n := rfl
@[simp] theorem setChan_lp (i : Nat) (v : Chan) (n : Nat) : (s.setChan i v).lp n = s.lp n := rfl

@[simp] theorem updSkein_phase (i : Nat) (f : Skein → Skein) : (s.updSkein i f).phase = s.phase := rfl
@[simp] theorem updSkein_pending (i : Nat) (f : Skein → Skein) : (s.updSkein i f).pending = s.pending := rfl
@[simp] theorem updSkein_cycle (i : Nat) (f : Skein → Skein) : (s.updSkein i f).cycle = s.cycle := rfl
@[simp] theorem updSkein_coarse (i : Nat) (f : Skein → Skein) : (s.updSkein i f).coarse = s.coarse := rfl
@[simp] theorem updSkein_regs (i : Nat) (f : Skein → Skein) : (s.updSkein i f).regs = s.regs := rfl
@[simp] theorem updSkein_regs0 (i : Nat) (f : Skein → Skein) : (s.updSkein i f).regs0 = s.regs0 := rfl
@[simp] theorem updSkein_raised (i : Nat) (f : Skein → Skein) : (s.updSkein i f).raised = s.raised := rfl
@[simp] theorem updSkein_viewOps (i : Nat) (f : Skein → Skein) : (s.updSkein i f).viewOps = s.viewOps := rfl
@[simp] theorem updSkein_staged (i : Nat) (f : Skein → Skein) : (s.updSkein i f).staged = s.staged := rfl
@[simp] theorem updSkein_staged0 (i : Nat) (f : Skein → Skein) : (s.updSkein i f).staged0 = s.staged0 := rfl
@[simp] theorem updSkein_lowBuf (i : Nat) (f : Skein → Skein) : (s.updSkein i f).lowBuf = s.lowBuf := rfl
@[simp] theorem updSkein_tables (i : Nat) (f : Skein → Skein) : (s.updSkein i f).tables = s.tables := rfl
@[simp] theorem updSkein_unlockAt (i : Nat) (f : Skein → Skein) : (s.updSkein i f).unlockAt = s.unlockAt := rfl
@[simp] theorem updSkein_onceDone (i : Nat) (f : Skein → Skein) : (s.updSkein i f).onceDone = s.onceDone := rfl
@[simp] theorem updSkein_commits (i : Nat) (f : Skein → Skein) : (s.updSkein i f).commits = s.commits := rfl
@[simp] theorem updSkein_chans (i : Nat) (f : Skein → Skein) : (s.updSkein i f).chans = s.chans := rfl
@[simp] theorem updSkein_slots (i : Nat) (f : Skein → Skein) : (s.updSkein i f).slots = s.slots := rfl
@[simp] theorem updSkein_engs (i : Nat) (f : Skein → Skein) : (s.updSkein i f).engs = s.engs := rfl
@[simp] theorem updSkein_vus (i : Nat) (f : Skein → Skein) : (s.updSkein i f).vus = s.vus := rfl
@[simp] theorem updSkein_doms (i : Nat) (f : Skein → Skein) : (s.updSkein i f).doms = s.doms := rfl
@[simp] theorem updSkein_condCnt (i : Nat) (f : Skein → Skein) : (s.updSkein i f).condCnt = s.condCnt := rfl
@[simp] theorem updSkein_strms (i : Nat) (f : Skein → Skein) : (s.updSkein i f).strms = s.strms := rfl
@[simp] theorem updSkein_adcQ (i : Nat) (f : Skein → Skein) : (s.updSkein i f).adcQ = s.adcQ := rfl
@[simp] theorem updSkein_ports (i : Nat) (f : Skein → Skein) : (s.updSkein i f).ports = s.ports := rfl
@[simp] theorem updSkein_pcs (i : Nat) (f : Skein → Skein) : (s.updSkein i f).pcs = s.pcs := rfl
@[simp] theorem updSkein_hrings (i : Nat) (f : Skein → Skein) : (s.updSkein i f).hrings = s.hrings := rfl
@[simp] theorem updSkein_hbm (i : Nat) (f : Skein → Skein) : (s.updSkein i f).hbm = s.hbm := rfl
@[simp] theorem updSkein_memc (i : Nat) (f : Skein → Skein) : (s.updSkein i f).memc = s.memc := rfl
@[simp] theorem updSkein_dmas (i : Nat) (f : Skein → Skein) : (s.updSkein i f).dmas = s.dmas := rfl
@[simp] theorem updSkein_mram (i : Nat) (f : Skein → Skein) : (s.updSkein i f).mram = s.mram := rfl
@[simp] theorem updSkein_lps (i : Nat) (f : Skein → Skein) : (s.updSkein i f).lps = s.lps := rfl
@[simp] theorem updSkein_lnk (i : Nat) (f : Skein → Skein) : (s.updSkein i f).lnk = s.lnk := rfl
@[simp] theorem updSkein_tbs (i : Nat) (f : Skein → Skein) : (s.updSkein i f).tbs = s.tbs := rfl
@[simp] theorem updSkein_thms (i : Nat) (f : Skein → Skein) : (s.updSkein i f).thms = s.thms := rfl
@[simp] theorem updSkein_cals (i : Nat) (f : Skein → Skein) : (s.updSkein i f).cals = s.cals := rfl
@[simp] theorem updSkein_irqSent (i : Nat) (f : Skein → Skein) : (s.updSkein i f).irqSent = s.irqSent := rfl
@[simp] theorem updSkein_irqLatch (i : Nat) (f : Skein → Skein) : (s.updSkein i f).irqLatch = s.irqLatch := rfl
@[simp] theorem updSkein_irqAt (i : Nat) (f : Skein → Skein) : (s.updSkein i f).irqAt = s.irqAt := rfl
@[simp] theorem updSkein_cfgAt (i : Nat) (f : Skein → Skein) : (s.updSkein i f).cfgAt = s.cfgAt := rfl
@[simp] theorem updSkein_holdLog (i : Nat) (f : Skein → Skein) : (s.updSkein i f).holdLog = s.holdLog := rfl
@[simp] theorem updSkein_dllLog (i : Nat) (f : Skein → Skein) : (s.updSkein i f).dllLog = s.dllLog := rfl
@[simp] theorem updSkein_jtag (i : Nat) (f : Skein → Skein) : (s.updSkein i f).jtag = s.jtag := rfl
@[simp] theorem updSkein_free (i : Nat) (f : Skein → Skein) : (s.updSkein i f).free = s.free := rfl
@[simp] theorem updSkein_outbox (i : Nat) (f : Skein → Skein) : (s.updSkein i f).outbox = s.outbox := rfl
@[simp] theorem updSkein_reg (i : Nat) (f : Skein → Skein) (y : Nat) : (s.updSkein i f).reg y = s.reg y := rfl
@[simp] theorem updSkein_rd (i : Nat) (f : Skein → Skein) (c : Nat) (g : Fld) : (s.updSkein i f).rd c g = s.rd c g := rfl
@[simp] theorem updSkein_stg (i : Nat) (f : Skein → Skein) (y : Nat) : (s.updSkein i f).stg y = s.stg y := rfl
@[simp] theorem updSkein_tw (i : Nat) (f : Skein → Skein) (y : Nat) : (s.updSkein i f).tw y = s.tw y := rfl
@[simp] theorem updSkein_chan (i : Nat) (f : Skein → Skein) (n : Nat) : (s.updSkein i f).chan n = s.chan n := rfl
@[simp] theorem updSkein_slot (i : Nat) (f : Skein → Skein) (m n : Nat) : (s.updSkein i f).slot m n = s.slot m n := rfl
@[simp] theorem updSkein_eng (i : Nat) (f : Skein → Skein) (n : Nat) : (s.updSkein i f).eng n = s.eng n := rfl
@[simp] theorem updSkein_vu (i : Nat) (f : Skein → Skein) (n : Nat) : (s.updSkein i f).vu n = s.vu n := rfl
@[simp] theorem updSkein_dom (i : Nat) (f : Skein → Skein) (n : Nat) : (s.updSkein i f).dom n = s.dom n := rfl
@[simp] theorem updSkein_strm (i : Nat) (f : Skein → Skein) (n : Nat) : (s.updSkein i f).strm n = s.strm n := rfl
@[simp] theorem updSkein_port (i : Nat) (f : Skein → Skein) (n : Nat) : (s.updSkein i f).port n = s.port n := rfl
@[simp] theorem updSkein_pchan (i : Nat) (f : Skein → Skein) (n : Nat) : (s.updSkein i f).pchan n = s.pchan n := rfl
@[simp] theorem updSkein_dma (i : Nat) (f : Skein → Skein) (n : Nat) : (s.updSkein i f).dma n = s.dma n := rfl
@[simp] theorem updSkein_hring (i : Nat) (f : Skein → Skein) (n : Nat) : (s.updSkein i f).hring n = s.hring n := rfl
@[simp] theorem updSkein_lp (i : Nat) (f : Skein → Skein) (n : Nat) : (s.updSkein i f).lp n = s.lp n := rfl

@[simp] theorem setSkein_phase (i : Nat) (v : Skein) : (s.setSkein i v).phase = s.phase := rfl
@[simp] theorem setSkein_pending (i : Nat) (v : Skein) : (s.setSkein i v).pending = s.pending := rfl
@[simp] theorem setSkein_cycle (i : Nat) (v : Skein) : (s.setSkein i v).cycle = s.cycle := rfl
@[simp] theorem setSkein_coarse (i : Nat) (v : Skein) : (s.setSkein i v).coarse = s.coarse := rfl
@[simp] theorem setSkein_regs (i : Nat) (v : Skein) : (s.setSkein i v).regs = s.regs := rfl
@[simp] theorem setSkein_regs0 (i : Nat) (v : Skein) : (s.setSkein i v).regs0 = s.regs0 := rfl
@[simp] theorem setSkein_raised (i : Nat) (v : Skein) : (s.setSkein i v).raised = s.raised := rfl
@[simp] theorem setSkein_viewOps (i : Nat) (v : Skein) : (s.setSkein i v).viewOps = s.viewOps := rfl
@[simp] theorem setSkein_staged (i : Nat) (v : Skein) : (s.setSkein i v).staged = s.staged := rfl
@[simp] theorem setSkein_staged0 (i : Nat) (v : Skein) : (s.setSkein i v).staged0 = s.staged0 := rfl
@[simp] theorem setSkein_lowBuf (i : Nat) (v : Skein) : (s.setSkein i v).lowBuf = s.lowBuf := rfl
@[simp] theorem setSkein_tables (i : Nat) (v : Skein) : (s.setSkein i v).tables = s.tables := rfl
@[simp] theorem setSkein_unlockAt (i : Nat) (v : Skein) : (s.setSkein i v).unlockAt = s.unlockAt := rfl
@[simp] theorem setSkein_onceDone (i : Nat) (v : Skein) : (s.setSkein i v).onceDone = s.onceDone := rfl
@[simp] theorem setSkein_commits (i : Nat) (v : Skein) : (s.setSkein i v).commits = s.commits := rfl
@[simp] theorem setSkein_chans (i : Nat) (v : Skein) : (s.setSkein i v).chans = s.chans := rfl
@[simp] theorem setSkein_slots (i : Nat) (v : Skein) : (s.setSkein i v).slots = s.slots := rfl
@[simp] theorem setSkein_engs (i : Nat) (v : Skein) : (s.setSkein i v).engs = s.engs := rfl
@[simp] theorem setSkein_vus (i : Nat) (v : Skein) : (s.setSkein i v).vus = s.vus := rfl
@[simp] theorem setSkein_doms (i : Nat) (v : Skein) : (s.setSkein i v).doms = s.doms := rfl
@[simp] theorem setSkein_condCnt (i : Nat) (v : Skein) : (s.setSkein i v).condCnt = s.condCnt := rfl
@[simp] theorem setSkein_strms (i : Nat) (v : Skein) : (s.setSkein i v).strms = s.strms := rfl
@[simp] theorem setSkein_adcQ (i : Nat) (v : Skein) : (s.setSkein i v).adcQ = s.adcQ := rfl
@[simp] theorem setSkein_ports (i : Nat) (v : Skein) : (s.setSkein i v).ports = s.ports := rfl
@[simp] theorem setSkein_pcs (i : Nat) (v : Skein) : (s.setSkein i v).pcs = s.pcs := rfl
@[simp] theorem setSkein_hrings (i : Nat) (v : Skein) : (s.setSkein i v).hrings = s.hrings := rfl
@[simp] theorem setSkein_hbm (i : Nat) (v : Skein) : (s.setSkein i v).hbm = s.hbm := rfl
@[simp] theorem setSkein_memc (i : Nat) (v : Skein) : (s.setSkein i v).memc = s.memc := rfl
@[simp] theorem setSkein_dmas (i : Nat) (v : Skein) : (s.setSkein i v).dmas = s.dmas := rfl
@[simp] theorem setSkein_mram (i : Nat) (v : Skein) : (s.setSkein i v).mram = s.mram := rfl
@[simp] theorem setSkein_lps (i : Nat) (v : Skein) : (s.setSkein i v).lps = s.lps := rfl
@[simp] theorem setSkein_lnk (i : Nat) (v : Skein) : (s.setSkein i v).lnk = s.lnk := rfl
@[simp] theorem setSkein_tbs (i : Nat) (v : Skein) : (s.setSkein i v).tbs = s.tbs := rfl
@[simp] theorem setSkein_thms (i : Nat) (v : Skein) : (s.setSkein i v).thms = s.thms := rfl
@[simp] theorem setSkein_cals (i : Nat) (v : Skein) : (s.setSkein i v).cals = s.cals := rfl
@[simp] theorem setSkein_irqSent (i : Nat) (v : Skein) : (s.setSkein i v).irqSent = s.irqSent := rfl
@[simp] theorem setSkein_irqLatch (i : Nat) (v : Skein) : (s.setSkein i v).irqLatch = s.irqLatch := rfl
@[simp] theorem setSkein_irqAt (i : Nat) (v : Skein) : (s.setSkein i v).irqAt = s.irqAt := rfl
@[simp] theorem setSkein_cfgAt (i : Nat) (v : Skein) : (s.setSkein i v).cfgAt = s.cfgAt := rfl
@[simp] theorem setSkein_holdLog (i : Nat) (v : Skein) : (s.setSkein i v).holdLog = s.holdLog := rfl
@[simp] theorem setSkein_dllLog (i : Nat) (v : Skein) : (s.setSkein i v).dllLog = s.dllLog := rfl
@[simp] theorem setSkein_jtag (i : Nat) (v : Skein) : (s.setSkein i v).jtag = s.jtag := rfl
@[simp] theorem setSkein_free (i : Nat) (v : Skein) : (s.setSkein i v).free = s.free := rfl
@[simp] theorem setSkein_outbox (i : Nat) (v : Skein) : (s.setSkein i v).outbox = s.outbox := rfl
@[simp] theorem setSkein_reg (i : Nat) (v : Skein) (y : Nat) : (s.setSkein i v).reg y = s.reg y := rfl
@[simp] theorem setSkein_rd (i : Nat) (v : Skein) (c : Nat) (g : Fld) : (s.setSkein i v).rd c g = s.rd c g := rfl
@[simp] theorem setSkein_stg (i : Nat) (v : Skein) (y : Nat) : (s.setSkein i v).stg y = s.stg y := rfl
@[simp] theorem setSkein_tw (i : Nat) (v : Skein) (y : Nat) : (s.setSkein i v).tw y = s.tw y := rfl
@[simp] theorem setSkein_chan (i : Nat) (v : Skein) (n : Nat) : (s.setSkein i v).chan n = s.chan n := rfl
@[simp] theorem setSkein_slot (i : Nat) (v : Skein) (m n : Nat) : (s.setSkein i v).slot m n = s.slot m n := rfl
@[simp] theorem setSkein_eng (i : Nat) (v : Skein) (n : Nat) : (s.setSkein i v).eng n = s.eng n := rfl
@[simp] theorem setSkein_vu (i : Nat) (v : Skein) (n : Nat) : (s.setSkein i v).vu n = s.vu n := rfl
@[simp] theorem setSkein_dom (i : Nat) (v : Skein) (n : Nat) : (s.setSkein i v).dom n = s.dom n := rfl
@[simp] theorem setSkein_strm (i : Nat) (v : Skein) (n : Nat) : (s.setSkein i v).strm n = s.strm n := rfl
@[simp] theorem setSkein_port (i : Nat) (v : Skein) (n : Nat) : (s.setSkein i v).port n = s.port n := rfl
@[simp] theorem setSkein_pchan (i : Nat) (v : Skein) (n : Nat) : (s.setSkein i v).pchan n = s.pchan n := rfl
@[simp] theorem setSkein_dma (i : Nat) (v : Skein) (n : Nat) : (s.setSkein i v).dma n = s.dma n := rfl
@[simp] theorem setSkein_hring (i : Nat) (v : Skein) (n : Nat) : (s.setSkein i v).hring n = s.hring n := rfl
@[simp] theorem setSkein_lp (i : Nat) (v : Skein) (n : Nat) : (s.setSkein i v).lp n = s.lp n := rfl

@[simp] theorem updEng_phase (i : Nat) (f : Eng → Eng) : (s.updEng i f).phase = s.phase := rfl
@[simp] theorem updEng_pending (i : Nat) (f : Eng → Eng) : (s.updEng i f).pending = s.pending := rfl
@[simp] theorem updEng_cycle (i : Nat) (f : Eng → Eng) : (s.updEng i f).cycle = s.cycle := rfl
@[simp] theorem updEng_coarse (i : Nat) (f : Eng → Eng) : (s.updEng i f).coarse = s.coarse := rfl
@[simp] theorem updEng_regs (i : Nat) (f : Eng → Eng) : (s.updEng i f).regs = s.regs := rfl
@[simp] theorem updEng_regs0 (i : Nat) (f : Eng → Eng) : (s.updEng i f).regs0 = s.regs0 := rfl
@[simp] theorem updEng_raised (i : Nat) (f : Eng → Eng) : (s.updEng i f).raised = s.raised := rfl
@[simp] theorem updEng_viewOps (i : Nat) (f : Eng → Eng) : (s.updEng i f).viewOps = s.viewOps := rfl
@[simp] theorem updEng_staged (i : Nat) (f : Eng → Eng) : (s.updEng i f).staged = s.staged := rfl
@[simp] theorem updEng_staged0 (i : Nat) (f : Eng → Eng) : (s.updEng i f).staged0 = s.staged0 := rfl
@[simp] theorem updEng_lowBuf (i : Nat) (f : Eng → Eng) : (s.updEng i f).lowBuf = s.lowBuf := rfl
@[simp] theorem updEng_tables (i : Nat) (f : Eng → Eng) : (s.updEng i f).tables = s.tables := rfl
@[simp] theorem updEng_unlockAt (i : Nat) (f : Eng → Eng) : (s.updEng i f).unlockAt = s.unlockAt := rfl
@[simp] theorem updEng_onceDone (i : Nat) (f : Eng → Eng) : (s.updEng i f).onceDone = s.onceDone := rfl
@[simp] theorem updEng_commits (i : Nat) (f : Eng → Eng) : (s.updEng i f).commits = s.commits := rfl
@[simp] theorem updEng_chans (i : Nat) (f : Eng → Eng) : (s.updEng i f).chans = s.chans := rfl
@[simp] theorem updEng_skeins (i : Nat) (f : Eng → Eng) : (s.updEng i f).skeins = s.skeins := rfl
@[simp] theorem updEng_slots (i : Nat) (f : Eng → Eng) : (s.updEng i f).slots = s.slots := rfl
@[simp] theorem updEng_vus (i : Nat) (f : Eng → Eng) : (s.updEng i f).vus = s.vus := rfl
@[simp] theorem updEng_doms (i : Nat) (f : Eng → Eng) : (s.updEng i f).doms = s.doms := rfl
@[simp] theorem updEng_condCnt (i : Nat) (f : Eng → Eng) : (s.updEng i f).condCnt = s.condCnt := rfl
@[simp] theorem updEng_strms (i : Nat) (f : Eng → Eng) : (s.updEng i f).strms = s.strms := rfl
@[simp] theorem updEng_adcQ (i : Nat) (f : Eng → Eng) : (s.updEng i f).adcQ = s.adcQ := rfl
@[simp] theorem updEng_ports (i : Nat) (f : Eng → Eng) : (s.updEng i f).ports = s.ports := rfl
@[simp] theorem updEng_pcs (i : Nat) (f : Eng → Eng) : (s.updEng i f).pcs = s.pcs := rfl
@[simp] theorem updEng_hrings (i : Nat) (f : Eng → Eng) : (s.updEng i f).hrings = s.hrings := rfl
@[simp] theorem updEng_hbm (i : Nat) (f : Eng → Eng) : (s.updEng i f).hbm = s.hbm := rfl
@[simp] theorem updEng_memc (i : Nat) (f : Eng → Eng) : (s.updEng i f).memc = s.memc := rfl
@[simp] theorem updEng_dmas (i : Nat) (f : Eng → Eng) : (s.updEng i f).dmas = s.dmas := rfl
@[simp] theorem updEng_mram (i : Nat) (f : Eng → Eng) : (s.updEng i f).mram = s.mram := rfl
@[simp] theorem updEng_lps (i : Nat) (f : Eng → Eng) : (s.updEng i f).lps = s.lps := rfl
@[simp] theorem updEng_lnk (i : Nat) (f : Eng → Eng) : (s.updEng i f).lnk = s.lnk := rfl
@[simp] theorem updEng_tbs (i : Nat) (f : Eng → Eng) : (s.updEng i f).tbs = s.tbs := rfl
@[simp] theorem updEng_thms (i : Nat) (f : Eng → Eng) : (s.updEng i f).thms = s.thms := rfl
@[simp] theorem updEng_cals (i : Nat) (f : Eng → Eng) : (s.updEng i f).cals = s.cals := rfl
@[simp] theorem updEng_irqSent (i : Nat) (f : Eng → Eng) : (s.updEng i f).irqSent = s.irqSent := rfl
@[simp] theorem updEng_irqLatch (i : Nat) (f : Eng → Eng) : (s.updEng i f).irqLatch = s.irqLatch := rfl
@[simp] theorem updEng_irqAt (i : Nat) (f : Eng → Eng) : (s.updEng i f).irqAt = s.irqAt := rfl
@[simp] theorem updEng_cfgAt (i : Nat) (f : Eng → Eng) : (s.updEng i f).cfgAt = s.cfgAt := rfl
@[simp] theorem updEng_holdLog (i : Nat) (f : Eng → Eng) : (s.updEng i f).holdLog = s.holdLog := rfl
@[simp] theorem updEng_dllLog (i : Nat) (f : Eng → Eng) : (s.updEng i f).dllLog = s.dllLog := rfl
@[simp] theorem updEng_jtag (i : Nat) (f : Eng → Eng) : (s.updEng i f).jtag = s.jtag := rfl
@[simp] theorem updEng_free (i : Nat) (f : Eng → Eng) : (s.updEng i f).free = s.free := rfl
@[simp] theorem updEng_outbox (i : Nat) (f : Eng → Eng) : (s.updEng i f).outbox = s.outbox := rfl
@[simp] theorem updEng_reg (i : Nat) (f : Eng → Eng) (y : Nat) : (s.updEng i f).reg y = s.reg y := rfl
@[simp] theorem updEng_rd (i : Nat) (f : Eng → Eng) (c : Nat) (g : Fld) : (s.updEng i f).rd c g = s.rd c g := rfl
@[simp] theorem updEng_stg (i : Nat) (f : Eng → Eng) (y : Nat) : (s.updEng i f).stg y = s.stg y := rfl
@[simp] theorem updEng_tw (i : Nat) (f : Eng → Eng) (y : Nat) : (s.updEng i f).tw y = s.tw y := rfl
@[simp] theorem updEng_chan (i : Nat) (f : Eng → Eng) (n : Nat) : (s.updEng i f).chan n = s.chan n := rfl
@[simp] theorem updEng_skein (i : Nat) (f : Eng → Eng) (n : Nat) : (s.updEng i f).skein n = s.skein n := rfl
@[simp] theorem updEng_slot (i : Nat) (f : Eng → Eng) (m n : Nat) : (s.updEng i f).slot m n = s.slot m n := rfl
@[simp] theorem updEng_vu (i : Nat) (f : Eng → Eng) (n : Nat) : (s.updEng i f).vu n = s.vu n := rfl
@[simp] theorem updEng_dom (i : Nat) (f : Eng → Eng) (n : Nat) : (s.updEng i f).dom n = s.dom n := rfl
@[simp] theorem updEng_strm (i : Nat) (f : Eng → Eng) (n : Nat) : (s.updEng i f).strm n = s.strm n := rfl
@[simp] theorem updEng_port (i : Nat) (f : Eng → Eng) (n : Nat) : (s.updEng i f).port n = s.port n := rfl
@[simp] theorem updEng_pchan (i : Nat) (f : Eng → Eng) (n : Nat) : (s.updEng i f).pchan n = s.pchan n := rfl
@[simp] theorem updEng_dma (i : Nat) (f : Eng → Eng) (n : Nat) : (s.updEng i f).dma n = s.dma n := rfl
@[simp] theorem updEng_hring (i : Nat) (f : Eng → Eng) (n : Nat) : (s.updEng i f).hring n = s.hring n := rfl
@[simp] theorem updEng_lp (i : Nat) (f : Eng → Eng) (n : Nat) : (s.updEng i f).lp n = s.lp n := rfl

@[simp] theorem setEng_phase (i : Nat) (v : Eng) : (s.setEng i v).phase = s.phase := rfl
@[simp] theorem setEng_pending (i : Nat) (v : Eng) : (s.setEng i v).pending = s.pending := rfl
@[simp] theorem setEng_cycle (i : Nat) (v : Eng) : (s.setEng i v).cycle = s.cycle := rfl
@[simp] theorem setEng_coarse (i : Nat) (v : Eng) : (s.setEng i v).coarse = s.coarse := rfl
@[simp] theorem setEng_regs (i : Nat) (v : Eng) : (s.setEng i v).regs = s.regs := rfl
@[simp] theorem setEng_regs0 (i : Nat) (v : Eng) : (s.setEng i v).regs0 = s.regs0 := rfl
@[simp] theorem setEng_raised (i : Nat) (v : Eng) : (s.setEng i v).raised = s.raised := rfl
@[simp] theorem setEng_viewOps (i : Nat) (v : Eng) : (s.setEng i v).viewOps = s.viewOps := rfl
@[simp] theorem setEng_staged (i : Nat) (v : Eng) : (s.setEng i v).staged = s.staged := rfl
@[simp] theorem setEng_staged0 (i : Nat) (v : Eng) : (s.setEng i v).staged0 = s.staged0 := rfl
@[simp] theorem setEng_lowBuf (i : Nat) (v : Eng) : (s.setEng i v).lowBuf = s.lowBuf := rfl
@[simp] theorem setEng_tables (i : Nat) (v : Eng) : (s.setEng i v).tables = s.tables := rfl
@[simp] theorem setEng_unlockAt (i : Nat) (v : Eng) : (s.setEng i v).unlockAt = s.unlockAt := rfl
@[simp] theorem setEng_onceDone (i : Nat) (v : Eng) : (s.setEng i v).onceDone = s.onceDone := rfl
@[simp] theorem setEng_commits (i : Nat) (v : Eng) : (s.setEng i v).commits = s.commits := rfl
@[simp] theorem setEng_chans (i : Nat) (v : Eng) : (s.setEng i v).chans = s.chans := rfl
@[simp] theorem setEng_skeins (i : Nat) (v : Eng) : (s.setEng i v).skeins = s.skeins := rfl
@[simp] theorem setEng_slots (i : Nat) (v : Eng) : (s.setEng i v).slots = s.slots := rfl
@[simp] theorem setEng_vus (i : Nat) (v : Eng) : (s.setEng i v).vus = s.vus := rfl
@[simp] theorem setEng_doms (i : Nat) (v : Eng) : (s.setEng i v).doms = s.doms := rfl
@[simp] theorem setEng_condCnt (i : Nat) (v : Eng) : (s.setEng i v).condCnt = s.condCnt := rfl
@[simp] theorem setEng_strms (i : Nat) (v : Eng) : (s.setEng i v).strms = s.strms := rfl
@[simp] theorem setEng_adcQ (i : Nat) (v : Eng) : (s.setEng i v).adcQ = s.adcQ := rfl
@[simp] theorem setEng_ports (i : Nat) (v : Eng) : (s.setEng i v).ports = s.ports := rfl
@[simp] theorem setEng_pcs (i : Nat) (v : Eng) : (s.setEng i v).pcs = s.pcs := rfl
@[simp] theorem setEng_hrings (i : Nat) (v : Eng) : (s.setEng i v).hrings = s.hrings := rfl
@[simp] theorem setEng_hbm (i : Nat) (v : Eng) : (s.setEng i v).hbm = s.hbm := rfl
@[simp] theorem setEng_memc (i : Nat) (v : Eng) : (s.setEng i v).memc = s.memc := rfl
@[simp] theorem setEng_dmas (i : Nat) (v : Eng) : (s.setEng i v).dmas = s.dmas := rfl
@[simp] theorem setEng_mram (i : Nat) (v : Eng) : (s.setEng i v).mram = s.mram := rfl
@[simp] theorem setEng_lps (i : Nat) (v : Eng) : (s.setEng i v).lps = s.lps := rfl
@[simp] theorem setEng_lnk (i : Nat) (v : Eng) : (s.setEng i v).lnk = s.lnk := rfl
@[simp] theorem setEng_tbs (i : Nat) (v : Eng) : (s.setEng i v).tbs = s.tbs := rfl
@[simp] theorem setEng_thms (i : Nat) (v : Eng) : (s.setEng i v).thms = s.thms := rfl
@[simp] theorem setEng_cals (i : Nat) (v : Eng) : (s.setEng i v).cals = s.cals := rfl
@[simp] theorem setEng_irqSent (i : Nat) (v : Eng) : (s.setEng i v).irqSent = s.irqSent := rfl
@[simp] theorem setEng_irqLatch (i : Nat) (v : Eng) : (s.setEng i v).irqLatch = s.irqLatch := rfl
@[simp] theorem setEng_irqAt (i : Nat) (v : Eng) : (s.setEng i v).irqAt = s.irqAt := rfl
@[simp] theorem setEng_cfgAt (i : Nat) (v : Eng) : (s.setEng i v).cfgAt = s.cfgAt := rfl
@[simp] theorem setEng_holdLog (i : Nat) (v : Eng) : (s.setEng i v).holdLog = s.holdLog := rfl
@[simp] theorem setEng_dllLog (i : Nat) (v : Eng) : (s.setEng i v).dllLog = s.dllLog := rfl
@[simp] theorem setEng_jtag (i : Nat) (v : Eng) : (s.setEng i v).jtag = s.jtag := rfl
@[simp] theorem setEng_free (i : Nat) (v : Eng) : (s.setEng i v).free = s.free := rfl
@[simp] theorem setEng_outbox (i : Nat) (v : Eng) : (s.setEng i v).outbox = s.outbox := rfl
@[simp] theorem setEng_reg (i : Nat) (v : Eng) (y : Nat) : (s.setEng i v).reg y = s.reg y := rfl
@[simp] theorem setEng_rd (i : Nat) (v : Eng) (c : Nat) (g : Fld) : (s.setEng i v).rd c g = s.rd c g := rfl
@[simp] theorem setEng_stg (i : Nat) (v : Eng) (y : Nat) : (s.setEng i v).stg y = s.stg y := rfl
@[simp] theorem setEng_tw (i : Nat) (v : Eng) (y : Nat) : (s.setEng i v).tw y = s.tw y := rfl
@[simp] theorem setEng_chan (i : Nat) (v : Eng) (n : Nat) : (s.setEng i v).chan n = s.chan n := rfl
@[simp] theorem setEng_skein (i : Nat) (v : Eng) (n : Nat) : (s.setEng i v).skein n = s.skein n := rfl
@[simp] theorem setEng_slot (i : Nat) (v : Eng) (m n : Nat) : (s.setEng i v).slot m n = s.slot m n := rfl
@[simp] theorem setEng_vu (i : Nat) (v : Eng) (n : Nat) : (s.setEng i v).vu n = s.vu n := rfl
@[simp] theorem setEng_dom (i : Nat) (v : Eng) (n : Nat) : (s.setEng i v).dom n = s.dom n := rfl
@[simp] theorem setEng_strm (i : Nat) (v : Eng) (n : Nat) : (s.setEng i v).strm n = s.strm n := rfl
@[simp] theorem setEng_port (i : Nat) (v : Eng) (n : Nat) : (s.setEng i v).port n = s.port n := rfl
@[simp] theorem setEng_pchan (i : Nat) (v : Eng) (n : Nat) : (s.setEng i v).pchan n = s.pchan n := rfl
@[simp] theorem setEng_dma (i : Nat) (v : Eng) (n : Nat) : (s.setEng i v).dma n = s.dma n := rfl
@[simp] theorem setEng_hring (i : Nat) (v : Eng) (n : Nat) : (s.setEng i v).hring n = s.hring n := rfl
@[simp] theorem setEng_lp (i : Nat) (v : Eng) (n : Nat) : (s.setEng i v).lp n = s.lp n := rfl

@[simp] theorem updVu_phase (i : Nat) (f : VU → VU) : (s.updVu i f).phase = s.phase := rfl
@[simp] theorem updVu_pending (i : Nat) (f : VU → VU) : (s.updVu i f).pending = s.pending := rfl
@[simp] theorem updVu_cycle (i : Nat) (f : VU → VU) : (s.updVu i f).cycle = s.cycle := rfl
@[simp] theorem updVu_coarse (i : Nat) (f : VU → VU) : (s.updVu i f).coarse = s.coarse := rfl
@[simp] theorem updVu_regs (i : Nat) (f : VU → VU) : (s.updVu i f).regs = s.regs := rfl
@[simp] theorem updVu_regs0 (i : Nat) (f : VU → VU) : (s.updVu i f).regs0 = s.regs0 := rfl
@[simp] theorem updVu_raised (i : Nat) (f : VU → VU) : (s.updVu i f).raised = s.raised := rfl
@[simp] theorem updVu_viewOps (i : Nat) (f : VU → VU) : (s.updVu i f).viewOps = s.viewOps := rfl
@[simp] theorem updVu_staged (i : Nat) (f : VU → VU) : (s.updVu i f).staged = s.staged := rfl
@[simp] theorem updVu_staged0 (i : Nat) (f : VU → VU) : (s.updVu i f).staged0 = s.staged0 := rfl
@[simp] theorem updVu_lowBuf (i : Nat) (f : VU → VU) : (s.updVu i f).lowBuf = s.lowBuf := rfl
@[simp] theorem updVu_tables (i : Nat) (f : VU → VU) : (s.updVu i f).tables = s.tables := rfl
@[simp] theorem updVu_unlockAt (i : Nat) (f : VU → VU) : (s.updVu i f).unlockAt = s.unlockAt := rfl
@[simp] theorem updVu_onceDone (i : Nat) (f : VU → VU) : (s.updVu i f).onceDone = s.onceDone := rfl
@[simp] theorem updVu_commits (i : Nat) (f : VU → VU) : (s.updVu i f).commits = s.commits := rfl
@[simp] theorem updVu_chans (i : Nat) (f : VU → VU) : (s.updVu i f).chans = s.chans := rfl
@[simp] theorem updVu_skeins (i : Nat) (f : VU → VU) : (s.updVu i f).skeins = s.skeins := rfl
@[simp] theorem updVu_slots (i : Nat) (f : VU → VU) : (s.updVu i f).slots = s.slots := rfl
@[simp] theorem updVu_engs (i : Nat) (f : VU → VU) : (s.updVu i f).engs = s.engs := rfl
@[simp] theorem updVu_doms (i : Nat) (f : VU → VU) : (s.updVu i f).doms = s.doms := rfl
@[simp] theorem updVu_condCnt (i : Nat) (f : VU → VU) : (s.updVu i f).condCnt = s.condCnt := rfl
@[simp] theorem updVu_strms (i : Nat) (f : VU → VU) : (s.updVu i f).strms = s.strms := rfl
@[simp] theorem updVu_adcQ (i : Nat) (f : VU → VU) : (s.updVu i f).adcQ = s.adcQ := rfl
@[simp] theorem updVu_ports (i : Nat) (f : VU → VU) : (s.updVu i f).ports = s.ports := rfl
@[simp] theorem updVu_pcs (i : Nat) (f : VU → VU) : (s.updVu i f).pcs = s.pcs := rfl
@[simp] theorem updVu_hrings (i : Nat) (f : VU → VU) : (s.updVu i f).hrings = s.hrings := rfl
@[simp] theorem updVu_hbm (i : Nat) (f : VU → VU) : (s.updVu i f).hbm = s.hbm := rfl
@[simp] theorem updVu_memc (i : Nat) (f : VU → VU) : (s.updVu i f).memc = s.memc := rfl
@[simp] theorem updVu_dmas (i : Nat) (f : VU → VU) : (s.updVu i f).dmas = s.dmas := rfl
@[simp] theorem updVu_mram (i : Nat) (f : VU → VU) : (s.updVu i f).mram = s.mram := rfl
@[simp] theorem updVu_lps (i : Nat) (f : VU → VU) : (s.updVu i f).lps = s.lps := rfl
@[simp] theorem updVu_lnk (i : Nat) (f : VU → VU) : (s.updVu i f).lnk = s.lnk := rfl
@[simp] theorem updVu_tbs (i : Nat) (f : VU → VU) : (s.updVu i f).tbs = s.tbs := rfl
@[simp] theorem updVu_thms (i : Nat) (f : VU → VU) : (s.updVu i f).thms = s.thms := rfl
@[simp] theorem updVu_cals (i : Nat) (f : VU → VU) : (s.updVu i f).cals = s.cals := rfl
@[simp] theorem updVu_irqSent (i : Nat) (f : VU → VU) : (s.updVu i f).irqSent = s.irqSent := rfl
@[simp] theorem updVu_irqLatch (i : Nat) (f : VU → VU) : (s.updVu i f).irqLatch = s.irqLatch := rfl
@[simp] theorem updVu_irqAt (i : Nat) (f : VU → VU) : (s.updVu i f).irqAt = s.irqAt := rfl
@[simp] theorem updVu_cfgAt (i : Nat) (f : VU → VU) : (s.updVu i f).cfgAt = s.cfgAt := rfl
@[simp] theorem updVu_holdLog (i : Nat) (f : VU → VU) : (s.updVu i f).holdLog = s.holdLog := rfl
@[simp] theorem updVu_dllLog (i : Nat) (f : VU → VU) : (s.updVu i f).dllLog = s.dllLog := rfl
@[simp] theorem updVu_jtag (i : Nat) (f : VU → VU) : (s.updVu i f).jtag = s.jtag := rfl
@[simp] theorem updVu_free (i : Nat) (f : VU → VU) : (s.updVu i f).free = s.free := rfl
@[simp] theorem updVu_outbox (i : Nat) (f : VU → VU) : (s.updVu i f).outbox = s.outbox := rfl
@[simp] theorem updVu_reg (i : Nat) (f : VU → VU) (y : Nat) : (s.updVu i f).reg y = s.reg y := rfl
@[simp] theorem updVu_rd (i : Nat) (f : VU → VU) (c : Nat) (g : Fld) : (s.updVu i f).rd c g = s.rd c g := rfl
@[simp] theorem updVu_stg (i : Nat) (f : VU → VU) (y : Nat) : (s.updVu i f).stg y = s.stg y := rfl
@[simp] theorem updVu_tw (i : Nat) (f : VU → VU) (y : Nat) : (s.updVu i f).tw y = s.tw y := rfl
@[simp] theorem updVu_chan (i : Nat) (f : VU → VU) (n : Nat) : (s.updVu i f).chan n = s.chan n := rfl
@[simp] theorem updVu_skein (i : Nat) (f : VU → VU) (n : Nat) : (s.updVu i f).skein n = s.skein n := rfl
@[simp] theorem updVu_slot (i : Nat) (f : VU → VU) (m n : Nat) : (s.updVu i f).slot m n = s.slot m n := rfl
@[simp] theorem updVu_eng (i : Nat) (f : VU → VU) (n : Nat) : (s.updVu i f).eng n = s.eng n := rfl
@[simp] theorem updVu_dom (i : Nat) (f : VU → VU) (n : Nat) : (s.updVu i f).dom n = s.dom n := rfl
@[simp] theorem updVu_strm (i : Nat) (f : VU → VU) (n : Nat) : (s.updVu i f).strm n = s.strm n := rfl
@[simp] theorem updVu_port (i : Nat) (f : VU → VU) (n : Nat) : (s.updVu i f).port n = s.port n := rfl
@[simp] theorem updVu_pchan (i : Nat) (f : VU → VU) (n : Nat) : (s.updVu i f).pchan n = s.pchan n := rfl
@[simp] theorem updVu_dma (i : Nat) (f : VU → VU) (n : Nat) : (s.updVu i f).dma n = s.dma n := rfl
@[simp] theorem updVu_hring (i : Nat) (f : VU → VU) (n : Nat) : (s.updVu i f).hring n = s.hring n := rfl
@[simp] theorem updVu_lp (i : Nat) (f : VU → VU) (n : Nat) : (s.updVu i f).lp n = s.lp n := rfl

@[simp] theorem setVu_phase (i : Nat) (v : VU) : (s.setVu i v).phase = s.phase := rfl
@[simp] theorem setVu_pending (i : Nat) (v : VU) : (s.setVu i v).pending = s.pending := rfl
@[simp] theorem setVu_cycle (i : Nat) (v : VU) : (s.setVu i v).cycle = s.cycle := rfl
@[simp] theorem setVu_coarse (i : Nat) (v : VU) : (s.setVu i v).coarse = s.coarse := rfl
@[simp] theorem setVu_regs (i : Nat) (v : VU) : (s.setVu i v).regs = s.regs := rfl
@[simp] theorem setVu_regs0 (i : Nat) (v : VU) : (s.setVu i v).regs0 = s.regs0 := rfl
@[simp] theorem setVu_raised (i : Nat) (v : VU) : (s.setVu i v).raised = s.raised := rfl
@[simp] theorem setVu_viewOps (i : Nat) (v : VU) : (s.setVu i v).viewOps = s.viewOps := rfl
@[simp] theorem setVu_staged (i : Nat) (v : VU) : (s.setVu i v).staged = s.staged := rfl
@[simp] theorem setVu_staged0 (i : Nat) (v : VU) : (s.setVu i v).staged0 = s.staged0 := rfl
@[simp] theorem setVu_lowBuf (i : Nat) (v : VU) : (s.setVu i v).lowBuf = s.lowBuf := rfl
@[simp] theorem setVu_tables (i : Nat) (v : VU) : (s.setVu i v).tables = s.tables := rfl
@[simp] theorem setVu_unlockAt (i : Nat) (v : VU) : (s.setVu i v).unlockAt = s.unlockAt := rfl
@[simp] theorem setVu_onceDone (i : Nat) (v : VU) : (s.setVu i v).onceDone = s.onceDone := rfl
@[simp] theorem setVu_commits (i : Nat) (v : VU) : (s.setVu i v).commits = s.commits := rfl
@[simp] theorem setVu_chans (i : Nat) (v : VU) : (s.setVu i v).chans = s.chans := rfl
@[simp] theorem setVu_skeins (i : Nat) (v : VU) : (s.setVu i v).skeins = s.skeins := rfl
@[simp] theorem setVu_slots (i : Nat) (v : VU) : (s.setVu i v).slots = s.slots := rfl
@[simp] theorem setVu_engs (i : Nat) (v : VU) : (s.setVu i v).engs = s.engs := rfl
@[simp] theorem setVu_doms (i : Nat) (v : VU) : (s.setVu i v).doms = s.doms := rfl
@[simp] theorem setVu_condCnt (i : Nat) (v : VU) : (s.setVu i v).condCnt = s.condCnt := rfl
@[simp] theorem setVu_strms (i : Nat) (v : VU) : (s.setVu i v).strms = s.strms := rfl
@[simp] theorem setVu_adcQ (i : Nat) (v : VU) : (s.setVu i v).adcQ = s.adcQ := rfl
@[simp] theorem setVu_ports (i : Nat) (v : VU) : (s.setVu i v).ports = s.ports := rfl
@[simp] theorem setVu_pcs (i : Nat) (v : VU) : (s.setVu i v).pcs = s.pcs := rfl
@[simp] theorem setVu_hrings (i : Nat) (v : VU) : (s.setVu i v).hrings = s.hrings := rfl
@[simp] theorem setVu_hbm (i : Nat) (v : VU) : (s.setVu i v).hbm = s.hbm := rfl
@[simp] theorem setVu_memc (i : Nat) (v : VU) : (s.setVu i v).memc = s.memc := rfl
@[simp] theorem setVu_dmas (i : Nat) (v : VU) : (s.setVu i v).dmas = s.dmas := rfl
@[simp] theorem setVu_mram (i : Nat) (v : VU) : (s.setVu i v).mram = s.mram := rfl
@[simp] theorem setVu_lps (i : Nat) (v : VU) : (s.setVu i v).lps = s.lps := rfl
@[simp] theorem setVu_lnk (i : Nat) (v : VU) : (s.setVu i v).lnk = s.lnk := rfl
@[simp] theorem setVu_tbs (i : Nat) (v : VU) : (s.setVu i v).tbs = s.tbs := rfl
@[simp] theorem setVu_thms (i : Nat) (v : VU) : (s.setVu i v).thms = s.thms := rfl
@[simp] theorem setVu_cals (i : Nat) (v : VU) : (s.setVu i v).cals = s.cals := rfl
@[simp] theorem setVu_irqSent (i : Nat) (v : VU) : (s.setVu i v).irqSent = s.irqSent := rfl
@[simp] theorem setVu_irqLatch (i : Nat) (v : VU) : (s.setVu i v).irqLatch = s.irqLatch := rfl
@[simp] theorem setVu_irqAt (i : Nat) (v : VU) : (s.setVu i v).irqAt = s.irqAt := rfl
@[simp] theorem setVu_cfgAt (i : Nat) (v : VU) : (s.setVu i v).cfgAt = s.cfgAt := rfl
@[simp] theorem setVu_holdLog (i : Nat) (v : VU) : (s.setVu i v).holdLog = s.holdLog := rfl
@[simp] theorem setVu_dllLog (i : Nat) (v : VU) : (s.setVu i v).dllLog = s.dllLog := rfl
@[simp] theorem setVu_jtag (i : Nat) (v : VU) : (s.setVu i v).jtag = s.jtag := rfl
@[simp] theorem setVu_free (i : Nat) (v : VU) : (s.setVu i v).free = s.free := rfl
@[simp] theorem setVu_outbox (i : Nat) (v : VU) : (s.setVu i v).outbox = s.outbox := rfl
@[simp] theorem setVu_reg (i : Nat) (v : VU) (y : Nat) : (s.setVu i v).reg y = s.reg y := rfl
@[simp] theorem setVu_rd (i : Nat) (v : VU) (c : Nat) (g : Fld) : (s.setVu i v).rd c g = s.rd c g := rfl
@[simp] theorem setVu_stg (i : Nat) (v : VU) (y : Nat) : (s.setVu i v).stg y = s.stg y := rfl
@[simp] theorem setVu_tw (i : Nat) (v : VU) (y : Nat) : (s.setVu i v).tw y = s.tw y := rfl
@[simp] theorem setVu_chan (i : Nat) (v : VU) (n : Nat) : (s.setVu i v).chan n = s.chan n := rfl
@[simp] theorem setVu_skein (i : Nat) (v : VU) (n : Nat) : (s.setVu i v).skein n = s.skein n := rfl
@[simp] theorem setVu_slot (i : Nat) (v : VU) (m n : Nat) : (s.setVu i v).slot m n = s.slot m n := rfl
@[simp] theorem setVu_eng (i : Nat) (v : VU) (n : Nat) : (s.setVu i v).eng n = s.eng n := rfl
@[simp] theorem setVu_dom (i : Nat) (v : VU) (n : Nat) : (s.setVu i v).dom n = s.dom n := rfl
@[simp] theorem setVu_strm (i : Nat) (v : VU) (n : Nat) : (s.setVu i v).strm n = s.strm n := rfl
@[simp] theorem setVu_port (i : Nat) (v : VU) (n : Nat) : (s.setVu i v).port n = s.port n := rfl
@[simp] theorem setVu_pchan (i : Nat) (v : VU) (n : Nat) : (s.setVu i v).pchan n = s.pchan n := rfl
@[simp] theorem setVu_dma (i : Nat) (v : VU) (n : Nat) : (s.setVu i v).dma n = s.dma n := rfl
@[simp] theorem setVu_hring (i : Nat) (v : VU) (n : Nat) : (s.setVu i v).hring n = s.hring n := rfl
@[simp] theorem setVu_lp (i : Nat) (v : VU) (n : Nat) : (s.setVu i v).lp n = s.lp n := rfl

@[simp] theorem updDom_phase (i : Nat) (f : Dom → Dom) : (s.updDom i f).phase = s.phase := rfl
@[simp] theorem updDom_pending (i : Nat) (f : Dom → Dom) : (s.updDom i f).pending = s.pending := rfl
@[simp] theorem updDom_cycle (i : Nat) (f : Dom → Dom) : (s.updDom i f).cycle = s.cycle := rfl
@[simp] theorem updDom_coarse (i : Nat) (f : Dom → Dom) : (s.updDom i f).coarse = s.coarse := rfl
@[simp] theorem updDom_regs (i : Nat) (f : Dom → Dom) : (s.updDom i f).regs = s.regs := rfl
@[simp] theorem updDom_regs0 (i : Nat) (f : Dom → Dom) : (s.updDom i f).regs0 = s.regs0 := rfl
@[simp] theorem updDom_raised (i : Nat) (f : Dom → Dom) : (s.updDom i f).raised = s.raised := rfl
@[simp] theorem updDom_viewOps (i : Nat) (f : Dom → Dom) : (s.updDom i f).viewOps = s.viewOps := rfl
@[simp] theorem updDom_staged (i : Nat) (f : Dom → Dom) : (s.updDom i f).staged = s.staged := rfl
@[simp] theorem updDom_staged0 (i : Nat) (f : Dom → Dom) : (s.updDom i f).staged0 = s.staged0 := rfl
@[simp] theorem updDom_lowBuf (i : Nat) (f : Dom → Dom) : (s.updDom i f).lowBuf = s.lowBuf := rfl
@[simp] theorem updDom_tables (i : Nat) (f : Dom → Dom) : (s.updDom i f).tables = s.tables := rfl
@[simp] theorem updDom_unlockAt (i : Nat) (f : Dom → Dom) : (s.updDom i f).unlockAt = s.unlockAt := rfl
@[simp] theorem updDom_onceDone (i : Nat) (f : Dom → Dom) : (s.updDom i f).onceDone = s.onceDone := rfl
@[simp] theorem updDom_commits (i : Nat) (f : Dom → Dom) : (s.updDom i f).commits = s.commits := rfl
@[simp] theorem updDom_chans (i : Nat) (f : Dom → Dom) : (s.updDom i f).chans = s.chans := rfl
@[simp] theorem updDom_skeins (i : Nat) (f : Dom → Dom) : (s.updDom i f).skeins = s.skeins := rfl
@[simp] theorem updDom_slots (i : Nat) (f : Dom → Dom) : (s.updDom i f).slots = s.slots := rfl
@[simp] theorem updDom_engs (i : Nat) (f : Dom → Dom) : (s.updDom i f).engs = s.engs := rfl
@[simp] theorem updDom_vus (i : Nat) (f : Dom → Dom) : (s.updDom i f).vus = s.vus := rfl
@[simp] theorem updDom_condCnt (i : Nat) (f : Dom → Dom) : (s.updDom i f).condCnt = s.condCnt := rfl
@[simp] theorem updDom_strms (i : Nat) (f : Dom → Dom) : (s.updDom i f).strms = s.strms := rfl
@[simp] theorem updDom_adcQ (i : Nat) (f : Dom → Dom) : (s.updDom i f).adcQ = s.adcQ := rfl
@[simp] theorem updDom_ports (i : Nat) (f : Dom → Dom) : (s.updDom i f).ports = s.ports := rfl
@[simp] theorem updDom_pcs (i : Nat) (f : Dom → Dom) : (s.updDom i f).pcs = s.pcs := rfl
@[simp] theorem updDom_hrings (i : Nat) (f : Dom → Dom) : (s.updDom i f).hrings = s.hrings := rfl
@[simp] theorem updDom_hbm (i : Nat) (f : Dom → Dom) : (s.updDom i f).hbm = s.hbm := rfl
@[simp] theorem updDom_memc (i : Nat) (f : Dom → Dom) : (s.updDom i f).memc = s.memc := rfl
@[simp] theorem updDom_dmas (i : Nat) (f : Dom → Dom) : (s.updDom i f).dmas = s.dmas := rfl
@[simp] theorem updDom_mram (i : Nat) (f : Dom → Dom) : (s.updDom i f).mram = s.mram := rfl
@[simp] theorem updDom_lps (i : Nat) (f : Dom → Dom) : (s.updDom i f).lps = s.lps := rfl
@[simp] theorem updDom_lnk (i : Nat) (f : Dom → Dom) : (s.updDom i f).lnk = s.lnk := rfl
@[simp] theorem updDom_tbs (i : Nat) (f : Dom → Dom) : (s.updDom i f).tbs = s.tbs := rfl
@[simp] theorem updDom_thms (i : Nat) (f : Dom → Dom) : (s.updDom i f).thms = s.thms := rfl
@[simp] theorem updDom_cals (i : Nat) (f : Dom → Dom) : (s.updDom i f).cals = s.cals := rfl
@[simp] theorem updDom_irqSent (i : Nat) (f : Dom → Dom) : (s.updDom i f).irqSent = s.irqSent := rfl
@[simp] theorem updDom_irqLatch (i : Nat) (f : Dom → Dom) : (s.updDom i f).irqLatch = s.irqLatch := rfl
@[simp] theorem updDom_irqAt (i : Nat) (f : Dom → Dom) : (s.updDom i f).irqAt = s.irqAt := rfl
@[simp] theorem updDom_cfgAt (i : Nat) (f : Dom → Dom) : (s.updDom i f).cfgAt = s.cfgAt := rfl
@[simp] theorem updDom_holdLog (i : Nat) (f : Dom → Dom) : (s.updDom i f).holdLog = s.holdLog := rfl
@[simp] theorem updDom_dllLog (i : Nat) (f : Dom → Dom) : (s.updDom i f).dllLog = s.dllLog := rfl
@[simp] theorem updDom_jtag (i : Nat) (f : Dom → Dom) : (s.updDom i f).jtag = s.jtag := rfl
@[simp] theorem updDom_free (i : Nat) (f : Dom → Dom) : (s.updDom i f).free = s.free := rfl
@[simp] theorem updDom_outbox (i : Nat) (f : Dom → Dom) : (s.updDom i f).outbox = s.outbox := rfl
@[simp] theorem updDom_reg (i : Nat) (f : Dom → Dom) (y : Nat) : (s.updDom i f).reg y = s.reg y := rfl
@[simp] theorem updDom_rd (i : Nat) (f : Dom → Dom) (c : Nat) (g : Fld) : (s.updDom i f).rd c g = s.rd c g := rfl
@[simp] theorem updDom_stg (i : Nat) (f : Dom → Dom) (y : Nat) : (s.updDom i f).stg y = s.stg y := rfl
@[simp] theorem updDom_tw (i : Nat) (f : Dom → Dom) (y : Nat) : (s.updDom i f).tw y = s.tw y := rfl
@[simp] theorem updDom_chan (i : Nat) (f : Dom → Dom) (n : Nat) : (s.updDom i f).chan n = s.chan n := rfl
@[simp] theorem updDom_skein (i : Nat) (f : Dom → Dom) (n : Nat) : (s.updDom i f).skein n = s.skein n := rfl
@[simp] theorem updDom_slot (i : Nat) (f : Dom → Dom) (m n : Nat) : (s.updDom i f).slot m n = s.slot m n := rfl
@[simp] theorem updDom_eng (i : Nat) (f : Dom → Dom) (n : Nat) : (s.updDom i f).eng n = s.eng n := rfl
@[simp] theorem updDom_vu (i : Nat) (f : Dom → Dom) (n : Nat) : (s.updDom i f).vu n = s.vu n := rfl
@[simp] theorem updDom_strm (i : Nat) (f : Dom → Dom) (n : Nat) : (s.updDom i f).strm n = s.strm n := rfl
@[simp] theorem updDom_port (i : Nat) (f : Dom → Dom) (n : Nat) : (s.updDom i f).port n = s.port n := rfl
@[simp] theorem updDom_pchan (i : Nat) (f : Dom → Dom) (n : Nat) : (s.updDom i f).pchan n = s.pchan n := rfl
@[simp] theorem updDom_dma (i : Nat) (f : Dom → Dom) (n : Nat) : (s.updDom i f).dma n = s.dma n := rfl
@[simp] theorem updDom_hring (i : Nat) (f : Dom → Dom) (n : Nat) : (s.updDom i f).hring n = s.hring n := rfl
@[simp] theorem updDom_lp (i : Nat) (f : Dom → Dom) (n : Nat) : (s.updDom i f).lp n = s.lp n := rfl

@[simp] theorem setDom_phase (i : Nat) (v : Dom) : (s.setDom i v).phase = s.phase := rfl
@[simp] theorem setDom_pending (i : Nat) (v : Dom) : (s.setDom i v).pending = s.pending := rfl
@[simp] theorem setDom_cycle (i : Nat) (v : Dom) : (s.setDom i v).cycle = s.cycle := rfl
@[simp] theorem setDom_coarse (i : Nat) (v : Dom) : (s.setDom i v).coarse = s.coarse := rfl
@[simp] theorem setDom_regs (i : Nat) (v : Dom) : (s.setDom i v).regs = s.regs := rfl
@[simp] theorem setDom_regs0 (i : Nat) (v : Dom) : (s.setDom i v).regs0 = s.regs0 := rfl
@[simp] theorem setDom_raised (i : Nat) (v : Dom) : (s.setDom i v).raised = s.raised := rfl
@[simp] theorem setDom_viewOps (i : Nat) (v : Dom) : (s.setDom i v).viewOps = s.viewOps := rfl
@[simp] theorem setDom_staged (i : Nat) (v : Dom) : (s.setDom i v).staged = s.staged := rfl
@[simp] theorem setDom_staged0 (i : Nat) (v : Dom) : (s.setDom i v).staged0 = s.staged0 := rfl
@[simp] theorem setDom_lowBuf (i : Nat) (v : Dom) : (s.setDom i v).lowBuf = s.lowBuf := rfl
@[simp] theorem setDom_tables (i : Nat) (v : Dom) : (s.setDom i v).tables = s.tables := rfl
@[simp] theorem setDom_unlockAt (i : Nat) (v : Dom) : (s.setDom i v).unlockAt = s.unlockAt := rfl
@[simp] theorem setDom_onceDone (i : Nat) (v : Dom) : (s.setDom i v).onceDone = s.onceDone := rfl
@[simp] theorem setDom_commits (i : Nat) (v : Dom) : (s.setDom i v).commits = s.commits := rfl
@[simp] theorem setDom_chans (i : Nat) (v : Dom) : (s.setDom i v).chans = s.chans := rfl
@[simp] theorem setDom_skeins (i : Nat) (v : Dom) : (s.setDom i v).skeins = s.skeins := rfl
@[simp] theorem setDom_slots (i : Nat) (v : Dom) : (s.setDom i v).slots = s.slots := rfl
@[simp] theorem setDom_engs (i : Nat) (v : Dom) : (s.setDom i v).engs = s.engs := rfl
@[simp] theorem setDom_vus (i : Nat) (v : Dom) : (s.setDom i v).vus = s.vus := rfl
@[simp] theorem setDom_condCnt (i : Nat) (v : Dom) : (s.setDom i v).condCnt = s.condCnt := rfl
@[simp] theorem setDom_strms (i : Nat) (v : Dom) : (s.setDom i v).strms = s.strms := rfl
@[simp] theorem setDom_adcQ (i : Nat) (v : Dom) : (s.setDom i v).adcQ = s.adcQ := rfl
@[simp] theorem setDom_ports (i : Nat) (v : Dom) : (s.setDom i v).ports = s.ports := rfl
@[simp] theorem setDom_pcs (i : Nat) (v : Dom) : (s.setDom i v).pcs = s.pcs := rfl
@[simp] theorem setDom_hrings (i : Nat) (v : Dom) : (s.setDom i v).hrings = s.hrings := rfl
@[simp] theorem setDom_hbm (i : Nat) (v : Dom) : (s.setDom i v).hbm = s.hbm := rfl
@[simp] theorem setDom_memc (i : Nat) (v : Dom) : (s.setDom i v).memc = s.memc := rfl
@[simp] theorem setDom_dmas (i : Nat) (v : Dom) : (s.setDom i v).dmas = s.dmas := rfl
@[simp] theorem setDom_mram (i : Nat) (v : Dom) : (s.setDom i v).mram = s.mram := rfl
@[simp] theorem setDom_lps (i : Nat) (v : Dom) : (s.setDom i v).lps = s.lps := rfl
@[simp] theorem setDom_lnk (i : Nat) (v : Dom) : (s.setDom i v).lnk = s.lnk := rfl
@[simp] theorem setDom_tbs (i : Nat) (v : Dom) : (s.setDom i v).tbs = s.tbs := rfl
@[simp] theorem setDom_thms (i : Nat) (v : Dom) : (s.setDom i v).thms = s.thms := rfl
@[simp] theorem setDom_cals (i : Nat) (v : Dom) : (s.setDom i v).cals = s.cals := rfl
@[simp] theorem setDom_irqSent (i : Nat) (v : Dom) : (s.setDom i v).irqSent = s.irqSent := rfl
@[simp] theorem setDom_irqLatch (i : Nat) (v : Dom) : (s.setDom i v).irqLatch = s.irqLatch := rfl
@[simp] theorem setDom_irqAt (i : Nat) (v : Dom) : (s.setDom i v).irqAt = s.irqAt := rfl
@[simp] theorem setDom_cfgAt (i : Nat) (v : Dom) : (s.setDom i v).cfgAt = s.cfgAt := rfl
@[simp] theorem setDom_holdLog (i : Nat) (v : Dom) : (s.setDom i v).holdLog = s.holdLog := rfl
@[simp] theorem setDom_dllLog (i : Nat) (v : Dom) : (s.setDom i v).dllLog = s.dllLog := rfl
@[simp] theorem setDom_jtag (i : Nat) (v : Dom) : (s.setDom i v).jtag = s.jtag := rfl
@[simp] theorem setDom_free (i : Nat) (v : Dom) : (s.setDom i v).free = s.free := rfl
@[simp] theorem setDom_outbox (i : Nat) (v : Dom) : (s.setDom i v).outbox = s.outbox := rfl
@[simp] theorem setDom_reg (i : Nat) (v : Dom) (y : Nat) : (s.setDom i v).reg y = s.reg y := rfl
@[simp] theorem setDom_rd (i : Nat) (v : Dom) (c : Nat) (g : Fld) : (s.setDom i v).rd c g = s.rd c g := rfl
@[simp] theorem setDom_stg (i : Nat) (v : Dom) (y : Nat) : (s.setDom i v).stg y = s.stg y := rfl
@[simp] theorem setDom_tw (i : Nat) (v : Dom) (y : Nat) : (s.setDom i v).tw y = s.tw y := rfl
@[simp] theorem setDom_chan (i : Nat) (v : Dom) (n : Nat) : (s.setDom i v).chan n = s.chan n := rfl
@[simp] theorem setDom_skein (i : Nat) (v : Dom) (n : Nat) : (s.setDom i v).skein n = s.skein n := rfl
@[simp] theorem setDom_slot (i : Nat) (v : Dom) (m n : Nat) : (s.setDom i v).slot m n = s.slot m n := rfl
@[simp] theorem setDom_eng (i : Nat) (v : Dom) (n : Nat) : (s.setDom i v).eng n = s.eng n := rfl
@[simp] theorem setDom_vu (i : Nat) (v : Dom) (n : Nat) : (s.setDom i v).vu n = s.vu n := rfl
@[simp] theorem setDom_strm (i : Nat) (v : Dom) (n : Nat) : (s.setDom i v).strm n = s.strm n := rfl
@[simp] theorem setDom_port (i : Nat) (v : Dom) (n : Nat) : (s.setDom i v).port n = s.port n := rfl
@[simp] theorem setDom_pchan (i : Nat) (v : Dom) (n : Nat) : (s.setDom i v).pchan n = s.pchan n := rfl
@[simp] theorem setDom_dma (i : Nat) (v : Dom) (n : Nat) : (s.setDom i v).dma n = s.dma n := rfl
@[simp] theorem setDom_hring (i : Nat) (v : Dom) (n : Nat) : (s.setDom i v).hring n = s.hring n := rfl
@[simp] theorem setDom_lp (i : Nat) (v : Dom) (n : Nat) : (s.setDom i v).lp n = s.lp n := rfl

@[simp] theorem updStrm_phase (i : Nat) (f : Strm → Strm) : (s.updStrm i f).phase = s.phase := rfl
@[simp] theorem updStrm_pending (i : Nat) (f : Strm → Strm) : (s.updStrm i f).pending = s.pending := rfl
@[simp] theorem updStrm_cycle (i : Nat) (f : Strm → Strm) : (s.updStrm i f).cycle = s.cycle := rfl
@[simp] theorem updStrm_coarse (i : Nat) (f : Strm → Strm) : (s.updStrm i f).coarse = s.coarse := rfl
@[simp] theorem updStrm_regs (i : Nat) (f : Strm → Strm) : (s.updStrm i f).regs = s.regs := rfl
@[simp] theorem updStrm_regs0 (i : Nat) (f : Strm → Strm) : (s.updStrm i f).regs0 = s.regs0 := rfl
@[simp] theorem updStrm_raised (i : Nat) (f : Strm → Strm) : (s.updStrm i f).raised = s.raised := rfl
@[simp] theorem updStrm_viewOps (i : Nat) (f : Strm → Strm) : (s.updStrm i f).viewOps = s.viewOps := rfl
@[simp] theorem updStrm_staged (i : Nat) (f : Strm → Strm) : (s.updStrm i f).staged = s.staged := rfl
@[simp] theorem updStrm_staged0 (i : Nat) (f : Strm → Strm) : (s.updStrm i f).staged0 = s.staged0 := rfl
@[simp] theorem updStrm_lowBuf (i : Nat) (f : Strm → Strm) : (s.updStrm i f).lowBuf = s.lowBuf := rfl
@[simp] theorem updStrm_tables (i : Nat) (f : Strm → Strm) : (s.updStrm i f).tables = s.tables := rfl
@[simp] theorem updStrm_unlockAt (i : Nat) (f : Strm → Strm) : (s.updStrm i f).unlockAt = s.unlockAt := rfl
@[simp] theorem updStrm_onceDone (i : Nat) (f : Strm → Strm) : (s.updStrm i f).onceDone = s.onceDone := rfl
@[simp] theorem updStrm_commits (i : Nat) (f : Strm → Strm) : (s.updStrm i f).commits = s.commits := rfl
@[simp] theorem updStrm_chans (i : Nat) (f : Strm → Strm) : (s.updStrm i f).chans = s.chans := rfl
@[simp] theorem updStrm_skeins (i : Nat) (f : Strm → Strm) : (s.updStrm i f).skeins = s.skeins := rfl
@[simp] theorem updStrm_slots (i : Nat) (f : Strm → Strm) : (s.updStrm i f).slots = s.slots := rfl
@[simp] theorem updStrm_engs (i : Nat) (f : Strm → Strm) : (s.updStrm i f).engs = s.engs := rfl
@[simp] theorem updStrm_vus (i : Nat) (f : Strm → Strm) : (s.updStrm i f).vus = s.vus := rfl
@[simp] theorem updStrm_doms (i : Nat) (f : Strm → Strm) : (s.updStrm i f).doms = s.doms := rfl
@[simp] theorem updStrm_condCnt (i : Nat) (f : Strm → Strm) : (s.updStrm i f).condCnt = s.condCnt := rfl
@[simp] theorem updStrm_adcQ (i : Nat) (f : Strm → Strm) : (s.updStrm i f).adcQ = s.adcQ := rfl
@[simp] theorem updStrm_ports (i : Nat) (f : Strm → Strm) : (s.updStrm i f).ports = s.ports := rfl
@[simp] theorem updStrm_pcs (i : Nat) (f : Strm → Strm) : (s.updStrm i f).pcs = s.pcs := rfl
@[simp] theorem updStrm_hrings (i : Nat) (f : Strm → Strm) : (s.updStrm i f).hrings = s.hrings := rfl
@[simp] theorem updStrm_hbm (i : Nat) (f : Strm → Strm) : (s.updStrm i f).hbm = s.hbm := rfl
@[simp] theorem updStrm_memc (i : Nat) (f : Strm → Strm) : (s.updStrm i f).memc = s.memc := rfl
@[simp] theorem updStrm_dmas (i : Nat) (f : Strm → Strm) : (s.updStrm i f).dmas = s.dmas := rfl
@[simp] theorem updStrm_mram (i : Nat) (f : Strm → Strm) : (s.updStrm i f).mram = s.mram := rfl
@[simp] theorem updStrm_lps (i : Nat) (f : Strm → Strm) : (s.updStrm i f).lps = s.lps := rfl
@[simp] theorem updStrm_lnk (i : Nat) (f : Strm → Strm) : (s.updStrm i f).lnk = s.lnk := rfl
@[simp] theorem updStrm_tbs (i : Nat) (f : Strm → Strm) : (s.updStrm i f).tbs = s.tbs := rfl
@[simp] theorem updStrm_thms (i : Nat) (f : Strm → Strm) : (s.updStrm i f).thms = s.thms := rfl
@[simp] theorem updStrm_cals (i : Nat) (f : Strm → Strm) : (s.updStrm i f).cals = s.cals := rfl
@[simp] theorem updStrm_irqSent (i : Nat) (f : Strm → Strm) : (s.updStrm i f).irqSent = s.irqSent := rfl
@[simp] theorem updStrm_irqLatch (i : Nat) (f : Strm → Strm) : (s.updStrm i f).irqLatch = s.irqLatch := rfl
@[simp] theorem updStrm_irqAt (i : Nat) (f : Strm → Strm) : (s.updStrm i f).irqAt = s.irqAt := rfl
@[simp] theorem updStrm_cfgAt (i : Nat) (f : Strm → Strm) : (s.updStrm i f).cfgAt = s.cfgAt := rfl
@[simp] theorem updStrm_holdLog (i : Nat) (f : Strm → Strm) : (s.updStrm i f).holdLog = s.holdLog := rfl
@[simp] theorem updStrm_dllLog (i : Nat) (f : Strm → Strm) : (s.updStrm i f).dllLog = s.dllLog := rfl
@[simp] theorem updStrm_jtag (i : Nat) (f : Strm → Strm) : (s.updStrm i f).jtag = s.jtag := rfl
@[simp] theorem updStrm_free (i : Nat) (f : Strm → Strm) : (s.updStrm i f).free = s.free := rfl
@[simp] theorem updStrm_outbox (i : Nat) (f : Strm → Strm) : (s.updStrm i f).outbox = s.outbox := rfl
@[simp] theorem updStrm_reg (i : Nat) (f : Strm → Strm) (y : Nat) : (s.updStrm i f).reg y = s.reg y := rfl
@[simp] theorem updStrm_rd (i : Nat) (f : Strm → Strm) (c : Nat) (g : Fld) : (s.updStrm i f).rd c g = s.rd c g := rfl
@[simp] theorem updStrm_stg (i : Nat) (f : Strm → Strm) (y : Nat) : (s.updStrm i f).stg y = s.stg y := rfl
@[simp] theorem updStrm_tw (i : Nat) (f : Strm → Strm) (y : Nat) : (s.updStrm i f).tw y = s.tw y := rfl
@[simp] theorem updStrm_chan (i : Nat) (f : Strm → Strm) (n : Nat) : (s.updStrm i f).chan n = s.chan n := rfl
@[simp] theorem updStrm_skein (i : Nat) (f : Strm → Strm) (n : Nat) : (s.updStrm i f).skein n = s.skein n := rfl
@[simp] theorem updStrm_slot (i : Nat) (f : Strm → Strm) (m n : Nat) : (s.updStrm i f).slot m n = s.slot m n := rfl
@[simp] theorem updStrm_eng (i : Nat) (f : Strm → Strm) (n : Nat) : (s.updStrm i f).eng n = s.eng n := rfl
@[simp] theorem updStrm_vu (i : Nat) (f : Strm → Strm) (n : Nat) : (s.updStrm i f).vu n = s.vu n := rfl
@[simp] theorem updStrm_dom (i : Nat) (f : Strm → Strm) (n : Nat) : (s.updStrm i f).dom n = s.dom n := rfl
@[simp] theorem updStrm_port (i : Nat) (f : Strm → Strm) (n : Nat) : (s.updStrm i f).port n = s.port n := rfl
@[simp] theorem updStrm_pchan (i : Nat) (f : Strm → Strm) (n : Nat) : (s.updStrm i f).pchan n = s.pchan n := rfl
@[simp] theorem updStrm_dma (i : Nat) (f : Strm → Strm) (n : Nat) : (s.updStrm i f).dma n = s.dma n := rfl
@[simp] theorem updStrm_hring (i : Nat) (f : Strm → Strm) (n : Nat) : (s.updStrm i f).hring n = s.hring n := rfl
@[simp] theorem updStrm_lp (i : Nat) (f : Strm → Strm) (n : Nat) : (s.updStrm i f).lp n = s.lp n := rfl

@[simp] theorem setStrm_phase (i : Nat) (v : Strm) : (s.setStrm i v).phase = s.phase := rfl
@[simp] theorem setStrm_pending (i : Nat) (v : Strm) : (s.setStrm i v).pending = s.pending := rfl
@[simp] theorem setStrm_cycle (i : Nat) (v : Strm) : (s.setStrm i v).cycle = s.cycle := rfl
@[simp] theorem setStrm_coarse (i : Nat) (v : Strm) : (s.setStrm i v).coarse = s.coarse := rfl
@[simp] theorem setStrm_regs (i : Nat) (v : Strm) : (s.setStrm i v).regs = s.regs := rfl
@[simp] theorem setStrm_regs0 (i : Nat) (v : Strm) : (s.setStrm i v).regs0 = s.regs0 := rfl
@[simp] theorem setStrm_raised (i : Nat) (v : Strm) : (s.setStrm i v).raised = s.raised := rfl
@[simp] theorem setStrm_viewOps (i : Nat) (v : Strm) : (s.setStrm i v).viewOps = s.viewOps := rfl
@[simp] theorem setStrm_staged (i : Nat) (v : Strm) : (s.setStrm i v).staged = s.staged := rfl
@[simp] theorem setStrm_staged0 (i : Nat) (v : Strm) : (s.setStrm i v).staged0 = s.staged0 := rfl
@[simp] theorem setStrm_lowBuf (i : Nat) (v : Strm) : (s.setStrm i v).lowBuf = s.lowBuf := rfl
@[simp] theorem setStrm_tables (i : Nat) (v : Strm) : (s.setStrm i v).tables = s.tables := rfl
@[simp] theorem setStrm_unlockAt (i : Nat) (v : Strm) : (s.setStrm i v).unlockAt = s.unlockAt := rfl
@[simp] theorem setStrm_onceDone (i : Nat) (v : Strm) : (s.setStrm i v).onceDone = s.onceDone := rfl
@[simp] theorem setStrm_commits (i : Nat) (v : Strm) : (s.setStrm i v).commits = s.commits := rfl
@[simp] theorem setStrm_chans (i : Nat) (v : Strm) : (s.setStrm i v).chans = s.chans := rfl
@[simp] theorem setStrm_skeins (i : Nat) (v : Strm) : (s.setStrm i v).skeins = s.skeins := rfl
@[simp] theorem setStrm_slots (i : Nat) (v : Strm) : (s.setStrm i v).slots = s.slots := rfl
@[simp] theorem setStrm_engs (i : Nat) (v : Strm) : (s.setStrm i v).engs = s.engs := rfl
@[simp] theorem setStrm_vus (i : Nat) (v : Strm) : (s.setStrm i v).vus = s.vus := rfl
@[simp] theorem setStrm_doms (i : Nat) (v : Strm) : (s.setStrm i v).doms = s.doms := rfl
@[simp] theorem setStrm_condCnt (i : Nat) (v : Strm) : (s.setStrm i v).condCnt = s.condCnt := rfl
@[simp] theorem setStrm_adcQ (i : Nat) (v : Strm) : (s.setStrm i v).adcQ = s.adcQ := rfl
@[simp] theorem setStrm_ports (i : Nat) (v : Strm) : (s.setStrm i v).ports = s.ports := rfl
@[simp] theorem setStrm_pcs (i : Nat) (v : Strm) : (s.setStrm i v).pcs = s.pcs := rfl
@[simp] theorem setStrm_hrings (i : Nat) (v : Strm) : (s.setStrm i v).hrings = s.hrings := rfl
@[simp] theorem setStrm_hbm (i : Nat) (v : Strm) : (s.setStrm i v).hbm = s.hbm := rfl
@[simp] theorem setStrm_memc (i : Nat) (v : Strm) : (s.setStrm i v).memc = s.memc := rfl
@[simp] theorem setStrm_dmas (i : Nat) (v : Strm) : (s.setStrm i v).dmas = s.dmas := rfl
@[simp] theorem setStrm_mram (i : Nat) (v : Strm) : (s.setStrm i v).mram = s.mram := rfl
@[simp] theorem setStrm_lps (i : Nat) (v : Strm) : (s.setStrm i v).lps = s.lps := rfl
@[simp] theorem setStrm_lnk (i : Nat) (v : Strm) : (s.setStrm i v).lnk = s.lnk := rfl
@[simp] theorem setStrm_tbs (i : Nat) (v : Strm) : (s.setStrm i v).tbs = s.tbs := rfl
@[simp] theorem setStrm_thms (i : Nat) (v : Strm) : (s.setStrm i v).thms = s.thms := rfl
@[simp] theorem setStrm_cals (i : Nat) (v : Strm) : (s.setStrm i v).cals = s.cals := rfl
@[simp] theorem setStrm_irqSent (i : Nat) (v : Strm) : (s.setStrm i v).irqSent = s.irqSent := rfl
@[simp] theorem setStrm_irqLatch (i : Nat) (v : Strm) : (s.setStrm i v).irqLatch = s.irqLatch := rfl
@[simp] theorem setStrm_irqAt (i : Nat) (v : Strm) : (s.setStrm i v).irqAt = s.irqAt := rfl
@[simp] theorem setStrm_cfgAt (i : Nat) (v : Strm) : (s.setStrm i v).cfgAt = s.cfgAt := rfl
@[simp] theorem setStrm_holdLog (i : Nat) (v : Strm) : (s.setStrm i v).holdLog = s.holdLog := rfl
@[simp] theorem setStrm_dllLog (i : Nat) (v : Strm) : (s.setStrm i v).dllLog = s.dllLog := rfl
@[simp] theorem setStrm_jtag (i : Nat) (v : Strm) : (s.setStrm i v).jtag = s.jtag := rfl
@[simp] theorem setStrm_free (i : Nat) (v : Strm) : (s.setStrm i v).free = s.free := rfl
@[simp] theorem setStrm_outbox (i : Nat) (v : Strm) : (s.setStrm i v).outbox = s.outbox := rfl
@[simp] theorem setStrm_reg (i : Nat) (v : Strm) (y : Nat) : (s.setStrm i v).reg y = s.reg y := rfl
@[simp] theorem setStrm_rd (i : Nat) (v : Strm) (c : Nat) (g : Fld) : (s.setStrm i v).rd c g = s.rd c g := rfl
@[simp] theorem setStrm_stg (i : Nat) (v : Strm) (y : Nat) : (s.setStrm i v).stg y = s.stg y := rfl
@[simp] theorem setStrm_tw (i : Nat) (v : Strm) (y : Nat) : (s.setStrm i v).tw y = s.tw y := rfl
@[simp] theorem setStrm_chan (i : Nat) (v : Strm) (n : Nat) : (s.setStrm i v).chan n = s.chan n := rfl
@[simp] theorem setStrm_skein (i : Nat) (v : Strm) (n : Nat) : (s.setStrm i v).skein n = s.skein n := rfl
@[simp] theorem setStrm_slot (i : Nat) (v : Strm) (m n : Nat) : (s.setStrm i v).slot m n = s.slot m n := rfl
@[simp] theorem setStrm_eng (i : Nat) (v : Strm) (n : Nat) : (s.setStrm i v).eng n = s.eng n := rfl
@[simp] theorem setStrm_vu (i : Nat) (v : Strm) (n : Nat) : (s.setStrm i v).vu n = s.vu n := rfl
@[simp] theorem setStrm_dom (i : Nat) (v : Strm) (n : Nat) : (s.setStrm i v).dom n = s.dom n := rfl
@[simp] theorem setStrm_port (i : Nat) (v : Strm) (n : Nat) : (s.setStrm i v).port n = s.port n := rfl
@[simp] theorem setStrm_pchan (i : Nat) (v : Strm) (n : Nat) : (s.setStrm i v).pchan n = s.pchan n := rfl
@[simp] theorem setStrm_dma (i : Nat) (v : Strm) (n : Nat) : (s.setStrm i v).dma n = s.dma n := rfl
@[simp] theorem setStrm_hring (i : Nat) (v : Strm) (n : Nat) : (s.setStrm i v).hring n = s.hring n := rfl
@[simp] theorem setStrm_lp (i : Nat) (v : Strm) (n : Nat) : (s.setStrm i v).lp n = s.lp n := rfl

@[simp] theorem updSlot_phase (k j : Nat) (f : Slot → Slot) : (s.updSlot k j f).phase = s.phase := rfl
@[simp] theorem updSlot_pending (k j : Nat) (f : Slot → Slot) : (s.updSlot k j f).pending = s.pending := rfl
@[simp] theorem updSlot_cycle (k j : Nat) (f : Slot → Slot) : (s.updSlot k j f).cycle = s.cycle := rfl
@[simp] theorem updSlot_coarse (k j : Nat) (f : Slot → Slot) : (s.updSlot k j f).coarse = s.coarse := rfl
@[simp] theorem updSlot_regs (k j : Nat) (f : Slot → Slot) : (s.updSlot k j f).regs = s.regs := rfl
@[simp] theorem updSlot_regs0 (k j : Nat) (f : Slot → Slot) : (s.updSlot k j f).regs0 = s.regs0 := rfl
@[simp] theorem updSlot_raised (k j : Nat) (f : Slot → Slot) : (s.updSlot k j f).raised = s.raised := rfl
@[simp] theorem updSlot_viewOps (k j : Nat) (f : Slot → Slot) : (s.updSlot k j f).viewOps = s.viewOps := rfl
@[simp] theorem updSlot_staged (k j : Nat) (f : Slot → Slot) : (s.updSlot k j f).staged = s.staged := rfl
@[simp] theorem updSlot_staged0 (k j : Nat) (f : Slot → Slot) : (s.updSlot k j f).staged0 = s.staged0 := rfl
@[simp] theorem updSlot_lowBuf (k j : Nat) (f : Slot → Slot) : (s.updSlot k j f).lowBuf = s.lowBuf := rfl
@[simp] theorem updSlot_tables (k j : Nat) (f : Slot → Slot) : (s.updSlot k j f).tables = s.tables := rfl
@[simp] theorem updSlot_unlockAt (k j : Nat) (f : Slot → Slot) : (s.updSlot k j f).unlockAt = s.unlockAt := rfl
@[simp] theorem updSlot_onceDone (k j : Nat) (f : Slot → Slot) : (s.updSlot k j f).onceDone = s.onceDone := rfl
@[simp] theorem updSlot_commits (k j : Nat) (f : Slot → Slot) : (s.updSlot k j f).commits = s.commits := rfl
@[simp] theorem updSlot_chans (k j : Nat) (f : Slot → Slot) : (s.updSlot k j f).chans = s.chans := rfl
@[simp] theorem updSlot_skeins (k j : Nat) (f : Slot → Slot) : (s.updSlot k j f).skeins = s.skeins := rfl
@[simp] theorem updSlot_engs (k j : Nat) (f : Slot → Slot) : (s.updSlot k j f).engs = s.engs := rfl
@[simp] theorem updSlot_vus (k j : Nat) (f : Slot → Slot) : (s.updSlot k j f).vus = s.vus := rfl
@[simp] theorem updSlot_doms (k j : Nat) (f : Slot → Slot) : (s.updSlot k j f).doms = s.doms := rfl
@[simp] theorem updSlot_condCnt (k j : Nat) (f : Slot → Slot) : (s.updSlot k j f).condCnt = s.condCnt := rfl
@[simp] theorem updSlot_strms (k j : Nat) (f : Slot → Slot) : (s.updSlot k j f).strms = s.strms := rfl
@[simp] theorem updSlot_adcQ (k j : Nat) (f : Slot → Slot) : (s.updSlot k j f).adcQ = s.adcQ := rfl
@[simp] theorem updSlot_ports (k j : Nat) (f : Slot → Slot) : (s.updSlot k j f).ports = s.ports := rfl
@[simp] theorem updSlot_pcs (k j : Nat) (f : Slot → Slot) : (s.updSlot k j f).pcs = s.pcs := rfl
@[simp] theorem updSlot_hrings (k j : Nat) (f : Slot → Slot) : (s.updSlot k j f).hrings = s.hrings := rfl
@[simp] theorem updSlot_hbm (k j : Nat) (f : Slot → Slot) : (s.updSlot k j f).hbm = s.hbm := rfl
@[simp] theorem updSlot_memc (k j : Nat) (f : Slot → Slot) : (s.updSlot k j f).memc = s.memc := rfl
@[simp] theorem updSlot_dmas (k j : Nat) (f : Slot → Slot) : (s.updSlot k j f).dmas = s.dmas := rfl
@[simp] theorem updSlot_mram (k j : Nat) (f : Slot → Slot) : (s.updSlot k j f).mram = s.mram := rfl
@[simp] theorem updSlot_lps (k j : Nat) (f : Slot → Slot) : (s.updSlot k j f).lps = s.lps := rfl
@[simp] theorem updSlot_lnk (k j : Nat) (f : Slot → Slot) : (s.updSlot k j f).lnk = s.lnk := rfl
@[simp] theorem updSlot_tbs (k j : Nat) (f : Slot → Slot) : (s.updSlot k j f).tbs = s.tbs := rfl
@[simp] theorem updSlot_thms (k j : Nat) (f : Slot → Slot) : (s.updSlot k j f).thms = s.thms := rfl
@[simp] theorem updSlot_cals (k j : Nat) (f : Slot → Slot) : (s.updSlot k j f).cals = s.cals := rfl
@[simp] theorem updSlot_irqSent (k j : Nat) (f : Slot → Slot) : (s.updSlot k j f).irqSent = s.irqSent := rfl
@[simp] theorem updSlot_irqLatch (k j : Nat) (f : Slot → Slot) : (s.updSlot k j f).irqLatch = s.irqLatch := rfl
@[simp] theorem updSlot_irqAt (k j : Nat) (f : Slot → Slot) : (s.updSlot k j f).irqAt = s.irqAt := rfl
@[simp] theorem updSlot_cfgAt (k j : Nat) (f : Slot → Slot) : (s.updSlot k j f).cfgAt = s.cfgAt := rfl
@[simp] theorem updSlot_holdLog (k j : Nat) (f : Slot → Slot) : (s.updSlot k j f).holdLog = s.holdLog := rfl
@[simp] theorem updSlot_dllLog (k j : Nat) (f : Slot → Slot) : (s.updSlot k j f).dllLog = s.dllLog := rfl
@[simp] theorem updSlot_jtag (k j : Nat) (f : Slot → Slot) : (s.updSlot k j f).jtag = s.jtag := rfl
@[simp] theorem updSlot_free (k j : Nat) (f : Slot → Slot) : (s.updSlot k j f).free = s.free := rfl
@[simp] theorem updSlot_outbox (k j : Nat) (f : Slot → Slot) : (s.updSlot k j f).outbox = s.outbox := rfl
@[simp] theorem updSlot_reg (k j : Nat) (f : Slot → Slot) (y : Nat) : (s.updSlot k j f).reg y = s.reg y := rfl
@[simp] theorem updSlot_rd (k j : Nat) (f : Slot → Slot) (c : Nat) (g : Fld) : (s.updSlot k j f).rd c g = s.rd c g := rfl
@[simp] theorem updSlot_stg (k j : Nat) (f : Slot → Slot) (y : Nat) : (s.updSlot k j f).stg y = s.stg y := rfl
@[simp] theorem updSlot_tw (k j : Nat) (f : Slot → Slot) (y : Nat) : (s.updSlot k j f).tw y = s.tw y := rfl
@[simp] theorem updSlot_chan (k j : Nat) (f : Slot → Slot) (n : Nat) : (s.updSlot k j f).chan n = s.chan n := rfl
@[simp] theorem updSlot_skein (k j : Nat) (f : Slot → Slot) (n : Nat) : (s.updSlot k j f).skein n = s.skein n := rfl
@[simp] theorem updSlot_eng (k j : Nat) (f : Slot → Slot) (n : Nat) : (s.updSlot k j f).eng n = s.eng n := rfl
@[simp] theorem updSlot_vu (k j : Nat) (f : Slot → Slot) (n : Nat) : (s.updSlot k j f).vu n = s.vu n := rfl
@[simp] theorem updSlot_dom (k j : Nat) (f : Slot → Slot) (n : Nat) : (s.updSlot k j f).dom n = s.dom n := rfl
@[simp] theorem updSlot_strm (k j : Nat) (f : Slot → Slot) (n : Nat) : (s.updSlot k j f).strm n = s.strm n := rfl
@[simp] theorem updSlot_port (k j : Nat) (f : Slot → Slot) (n : Nat) : (s.updSlot k j f).port n = s.port n := rfl
@[simp] theorem updSlot_pchan (k j : Nat) (f : Slot → Slot) (n : Nat) : (s.updSlot k j f).pchan n = s.pchan n := rfl
@[simp] theorem updSlot_dma (k j : Nat) (f : Slot → Slot) (n : Nat) : (s.updSlot k j f).dma n = s.dma n := rfl
@[simp] theorem updSlot_hring (k j : Nat) (f : Slot → Slot) (n : Nat) : (s.updSlot k j f).hring n = s.hring n := rfl
@[simp] theorem updSlot_lp (k j : Nat) (f : Slot → Slot) (n : Nat) : (s.updSlot k j f).lp n = s.lp n := rfl

@[simp] theorem setSlot_phase (k j : Nat) (v : Slot) : (s.setSlot k j v).phase = s.phase := rfl
@[simp] theorem setSlot_pending (k j : Nat) (v : Slot) : (s.setSlot k j v).pending = s.pending := rfl
@[simp] theorem setSlot_cycle (k j : Nat) (v : Slot) : (s.setSlot k j v).cycle = s.cycle := rfl
@[simp] theorem setSlot_coarse (k j : Nat) (v : Slot) : (s.setSlot k j v).coarse = s.coarse := rfl
@[simp] theorem setSlot_regs (k j : Nat) (v : Slot) : (s.setSlot k j v).regs = s.regs := rfl
@[simp] theorem setSlot_regs0 (k j : Nat) (v : Slot) : (s.setSlot k j v).regs0 = s.regs0 := rfl
@[simp] theorem setSlot_raised (k j : Nat) (v : Slot) : (s.setSlot k j v).raised = s.raised := rfl
@[simp] theorem setSlot_viewOps (k j : Nat) (v : Slot) : (s.setSlot k j v).viewOps = s.viewOps := rfl
@[simp] theorem setSlot_staged (k j : Nat) (v : Slot) : (s.setSlot k j v).staged = s.staged := rfl
@[simp] theorem setSlot_staged0 (k j : Nat) (v : Slot) : (s.setSlot k j v).staged0 = s.staged0 := rfl
@[simp] theorem setSlot_lowBuf (k j : Nat) (v : Slot) : (s.setSlot k j v).lowBuf = s.lowBuf := rfl
@[simp] theorem setSlot_tables (k j : Nat) (v : Slot) : (s.setSlot k j v).tables = s.tables := rfl
@[simp] theorem setSlot_unlockAt (k j : Nat) (v : Slot) : (s.setSlot k j v).unlockAt = s.unlockAt := rfl
@[simp] theorem setSlot_onceDone (k j : Nat) (v : Slot) : (s.setSlot k j v).onceDone = s.onceDone := rfl
@[simp] theorem setSlot_commits (k j : Nat) (v : Slot) : (s.setSlot k j v).commits = s.commits := rfl
@[simp] theorem setSlot_chans (k j : Nat) (v : Slot) : (s.setSlot k j v).chans = s.chans := rfl
@[simp] theorem setSlot_skeins (k j : Nat) (v : Slot) : (s.setSlot k j v).skeins = s.skeins := rfl
@[simp] theorem setSlot_engs (k j : Nat) (v : Slot) : (s.setSlot k j v).engs = s.engs := rfl
@[simp] theorem setSlot_vus (k j : Nat) (v : Slot) : (s.setSlot k j v).vus = s.vus := rfl
@[simp] theorem setSlot_doms (k j : Nat) (v : Slot) : (s.setSlot k j v).doms = s.doms := rfl
@[simp] theorem setSlot_condCnt (k j : Nat) (v : Slot) : (s.setSlot k j v).condCnt = s.condCnt := rfl
@[simp] theorem setSlot_strms (k j : Nat) (v : Slot) : (s.setSlot k j v).strms = s.strms := rfl
@[simp] theorem setSlot_adcQ (k j : Nat) (v : Slot) : (s.setSlot k j v).adcQ = s.adcQ := rfl
@[simp] theorem setSlot_ports (k j : Nat) (v : Slot) : (s.setSlot k j v).ports = s.ports := rfl
@[simp] theorem setSlot_pcs (k j : Nat) (v : Slot) : (s.setSlot k j v).pcs = s.pcs := rfl
@[simp] theorem setSlot_hrings (k j : Nat) (v : Slot) : (s.setSlot k j v).hrings = s.hrings := rfl
@[simp] theorem setSlot_hbm (k j : Nat) (v : Slot) : (s.setSlot k j v).hbm = s.hbm := rfl
@[simp] theorem setSlot_memc (k j : Nat) (v : Slot) : (s.setSlot k j v).memc = s.memc := rfl
@[simp] theorem setSlot_dmas (k j : Nat) (v : Slot) : (s.setSlot k j v).dmas = s.dmas := rfl
@[simp] theorem setSlot_mram (k j : Nat) (v : Slot) : (s.setSlot k j v).mram = s.mram := rfl
@[simp] theorem setSlot_lps (k j : Nat) (v : Slot) : (s.setSlot k j v).lps = s.lps := rfl
@[simp] theorem setSlot_lnk (k j : Nat) (v : Slot) : (s.setSlot k j v).lnk = s.lnk := rfl
@[simp] theorem setSlot_tbs (k j : Nat) (v : Slot) : (s.setSlot k j v).tbs = s.tbs := rfl
@[simp] theorem setSlot_thms (k j : Nat) (v : Slot) : (s.setSlot k j v).thms = s.thms := rfl
@[simp] theorem setSlot_cals (k j : Nat) (v : Slot) : (s.setSlot k j v).cals = s.cals := rfl
@[simp] theorem setSlot_irqSent (k j : Nat) (v : Slot) : (s.setSlot k j v).irqSent = s.irqSent := rfl
@[simp] theorem setSlot_irqLatch (k j : Nat) (v : Slot) : (s.setSlot k j v).irqLatch = s.irqLatch := rfl
@[simp] theorem setSlot_irqAt (k j : Nat) (v : Slot) : (s.setSlot k j v).irqAt = s.irqAt := rfl
@[simp] theorem setSlot_cfgAt (k j : Nat) (v : Slot) : (s.setSlot k j v).cfgAt = s.cfgAt := rfl
@[simp] theorem setSlot_holdLog (k j : Nat) (v : Slot) : (s.setSlot k j v).holdLog = s.holdLog := rfl
@[simp] theorem setSlot_dllLog (k j : Nat) (v : Slot) : (s.setSlot k j v).dllLog = s.dllLog := rfl
@[simp] theorem setSlot_jtag (k j : Nat) (v : Slot) : (s.setSlot k j v).jtag = s.jtag := rfl
@[simp] theorem setSlot_free (k j : Nat) (v : Slot) : (s.setSlot k j v).free = s.free := rfl
@[simp] theorem setSlot_outbox (k j : Nat) (v : Slot) : (s.setSlot k j v).outbox = s.outbox := rfl
@[simp] theorem setSlot_reg (k j : Nat) (v : Slot) (y : Nat) : (s.setSlot k j v).reg y = s.reg y := rfl
@[simp] theorem setSlot_rd (k j : Nat) (v : Slot) (c : Nat) (g : Fld) : (s.setSlot k j v).rd c g = s.rd c g := rfl
@[simp] theorem setSlot_stg (k j : Nat) (v : Slot) (y : Nat) : (s.setSlot k j v).stg y = s.stg y := rfl
@[simp] theorem setSlot_tw (k j : Nat) (v : Slot) (y : Nat) : (s.setSlot k j v).tw y = s.tw y := rfl
@[simp] theorem setSlot_chan (k j : Nat) (v : Slot) (n : Nat) : (s.setSlot k j v).chan n = s.chan n := rfl
@[simp] theorem setSlot_skein (k j : Nat) (v : Slot) (n : Nat) : (s.setSlot k j v).skein n = s.skein n := rfl
@[simp] theorem setSlot_eng (k j : Nat) (v : Slot) (n : Nat) : (s.setSlot k j v).eng n = s.eng n := rfl
@[simp] theorem setSlot_vu (k j : Nat) (v : Slot) (n : Nat) : (s.setSlot k j v).vu n = s.vu n := rfl
@[simp] theorem setSlot_dom (k j : Nat) (v : Slot) (n : Nat) : (s.setSlot k j v).dom n = s.dom n := rfl
@[simp] theorem setSlot_strm (k j : Nat) (v : Slot) (n : Nat) : (s.setSlot k j v).strm n = s.strm n := rfl
@[simp] theorem setSlot_port (k j : Nat) (v : Slot) (n : Nat) : (s.setSlot k j v).port n = s.port n := rfl
@[simp] theorem setSlot_pchan (k j : Nat) (v : Slot) (n : Nat) : (s.setSlot k j v).pchan n = s.pchan n := rfl
@[simp] theorem setSlot_dma (k j : Nat) (v : Slot) (n : Nat) : (s.setSlot k j v).dma n = s.dma n := rfl
@[simp] theorem setSlot_hring (k j : Nat) (v : Slot) (n : Nat) : (s.setSlot k j v).hring n = s.hring n := rfl
@[simp] theorem setSlot_lp (k j : Nat) (v : Slot) (n : Nat) : (s.setSlot k j v).lp n = s.lp n := rfl

@[simp] theorem updPort_phase (i : Nat) (f : MPort → MPort) : (s.updPort i f).phase = s.phase := rfl
@[simp] theorem updPort_pending (i : Nat) (f : MPort → MPort) : (s.updPort i f).pending = s.pending := rfl
@[simp] theorem updPort_cycle (i : Nat) (f : MPort → MPort) : (s.updPort i f).cycle = s.cycle := rfl
@[simp] theorem updPort_coarse (i : Nat) (f : MPort → MPort) : (s.updPort i f).coarse = s.coarse := rfl
@[simp] theorem updPort_regs (i : Nat) (f : MPort → MPort) : (s.updPort i f).regs = s.regs := rfl
@[simp] theorem updPort_regs0 (i : Nat) (f : MPort → MPort) : (s.updPort i f).regs0 = s.regs0 := rfl
@[simp] theorem updPort_raised (i : Nat) (f : MPort → MPort) : (s.updPort i f).raised = s.raised := rfl
@[simp] theorem updPort_viewOps (i : Nat) (f : MPort → MPort) : (s.updPort i f).viewOps = s.viewOps := rfl
@[simp] theorem updPort_staged (i : Nat) (f : MPort → MPort) : (s.updPort i f).staged = s.staged := rfl
@[simp] theorem updPort_staged0 (i : Nat) (f : MPort → MPort) : (s.updPort i f).staged0 = s.staged0 := rfl
@[simp] theorem updPort_lowBuf (i : Nat) (f : MPort → MPort) : (s.updPort i f).lowBuf = s.lowBuf := rfl
@[simp] theorem updPort_tables (i : Nat) (f : MPort → MPort) : (s.updPort i f).tables = s.tables := rfl
@[simp] theorem updPort_unlockAt (i : Nat) (f : MPort → MPort) : (s.updPort i f).unlockAt = s.unlockAt := rfl
@[simp] theorem updPort_onceDone (i : Nat) (f : MPort → MPort) : (s.updPort i f).onceDone = s.onceDone := rfl
@[simp] theorem updPort_commits (i : Nat) (f : MPort → MPort) : (s.updPort i f).commits = s.commits := rfl
@[simp] theorem updPort_chans (i : Nat) (f : MPort → MPort) : (s.updPort i f).chans = s.chans := rfl
@[simp] theorem updPort_skeins (i : Nat) (f : MPort → MPort) : (s.updPort i f).skeins = s.skeins := rfl
@[simp] theorem updPort_slots (i : Nat) (f : MPort → MPort) : (s.updPort i f).slots = s.slots := rfl
@[simp] theorem updPort_engs (i : Nat) (f : MPort → MPort) : (s.updPort i f).engs = s.engs := rfl
@[simp] theorem updPort_vus (i : Nat) (f : MPort → MPort) : (s.updPort i f).vus = s.vus := rfl
@[simp] theorem updPort_doms (i : Nat) (f : MPort → MPort) : (s.updPort i f).doms = s.doms := rfl
@[simp] theorem updPort_condCnt (i : Nat) (f : MPort → MPort) : (s.updPort i f).condCnt = s.condCnt := rfl
@[simp] theorem updPort_strms (i : Nat) (f : MPort → MPort) : (s.updPort i f).strms = s.strms := rfl
@[simp] theorem updPort_adcQ (i : Nat) (f : MPort → MPort) : (s.updPort i f).adcQ = s.adcQ := rfl
@[simp] theorem updPort_pcs (i : Nat) (f : MPort → MPort) : (s.updPort i f).pcs = s.pcs := rfl
@[simp] theorem updPort_hrings (i : Nat) (f : MPort → MPort) : (s.updPort i f).hrings = s.hrings := rfl
@[simp] theorem updPort_hbm (i : Nat) (f : MPort → MPort) : (s.updPort i f).hbm = s.hbm := rfl
@[simp] theorem updPort_memc (i : Nat) (f : MPort → MPort) : (s.updPort i f).memc = s.memc := rfl
@[simp] theorem updPort_dmas (i : Nat) (f : MPort → MPort) : (s.updPort i f).dmas = s.dmas := rfl
@[simp] theorem updPort_mram (i : Nat) (f : MPort → MPort) : (s.updPort i f).mram = s.mram := rfl
@[simp] theorem updPort_lps (i : Nat) (f : MPort → MPort) : (s.updPort i f).lps = s.lps := rfl
@[simp] theorem updPort_lnk (i : Nat) (f : MPort → MPort) : (s.updPort i f).lnk = s.lnk := rfl
@[simp] theorem updPort_tbs (i : Nat) (f : MPort → MPort) : (s.updPort i f).tbs = s.tbs := rfl
@[simp] theorem updPort_thms (i : Nat) (f : MPort → MPort) : (s.updPort i f).thms = s.thms := rfl
@[simp] theorem updPort_cals (i : Nat) (f : MPort → MPort) : (s.updPort i f).cals = s.cals := rfl
@[simp] theorem updPort_irqSent (i : Nat) (f : MPort → MPort) : (s.updPort i f).irqSent = s.irqSent := rfl
@[simp] theorem updPort_irqLatch (i : Nat) (f : MPort → MPort) : (s.updPort i f).irqLatch = s.irqLatch := rfl
@[simp] theorem updPort_irqAt (i : Nat) (f : MPort → MPort) : (s.updPort i f).irqAt = s.irqAt := rfl
@[simp] theorem updPort_cfgAt (i : Nat) (f : MPort → MPort) : (s.updPort i f).cfgAt = s.cfgAt := rfl
@[simp] theorem updPort_holdLog (i : Nat) (f : MPort → MPort) : (s.updPort i f).holdLog = s.holdLog := rfl
@[simp] theorem updPort_dllLog (i : Nat) (f : MPort → MPort) : (s.updPort i f).dllLog = s.dllLog := rfl
@[simp] theorem updPort_jtag (i : Nat) (f : MPort → MPort) : (s.updPort i f).jtag = s.jtag := rfl
@[simp] theorem updPort_free (i : Nat) (f : MPort → MPort) : (s.updPort i f).free = s.free := rfl
@[simp] theorem updPort_outbox (i : Nat) (f : MPort → MPort) : (s.updPort i f).outbox = s.outbox := rfl
@[simp] theorem updPort_reg (i : Nat) (f : MPort → MPort) (y : Nat) : (s.updPort i f).reg y = s.reg y := rfl
@[simp] theorem updPort_rd (i : Nat) (f : MPort → MPort) (c : Nat) (g : Fld) : (s.updPort i f).rd c g = s.rd c g := rfl
@[simp] theorem updPort_stg (i : Nat) (f : MPort → MPort) (y : Nat) : (s.updPort i f).stg y = s.stg y := rfl
@[simp] theorem updPort_tw (i : Nat) (f : MPort → MPort) (y : Nat) : (s.updPort i f).tw y = s.tw y := rfl
@[simp] theorem updPort_chan (i : Nat) (f : MPort → MPort) (n : Nat) : (s.updPort i f).chan n = s.chan n := rfl
@[simp] theorem updPort_skein (i : Nat) (f : MPort → MPort) (n : Nat) : (s.updPort i f).skein n = s.skein n := rfl
@[simp] theorem updPort_slot (i : Nat) (f : MPort → MPort) (m n : Nat) : (s.updPort i f).slot m n = s.slot m n := rfl
@[simp] theorem updPort_eng (i : Nat) (f : MPort → MPort) (n : Nat) : (s.updPort i f).eng n = s.eng n := rfl
@[simp] theorem updPort_vu (i : Nat) (f : MPort → MPort) (n : Nat) : (s.updPort i f).vu n = s.vu n := rfl
@[simp] theorem updPort_dom (i : Nat) (f : MPort → MPort) (n : Nat) : (s.updPort i f).dom n = s.dom n := rfl
@[simp] theorem updPort_strm (i : Nat) (f : MPort → MPort) (n : Nat) : (s.updPort i f).strm n = s.strm n := rfl
@[simp] theorem updPort_pchan (i : Nat) (f : MPort → MPort) (n : Nat) : (s.updPort i f).pchan n = s.pchan n := rfl
@[simp] theorem updPort_dma (i : Nat) (f : MPort → MPort) (n : Nat) : (s.updPort i f).dma n = s.dma n := rfl
@[simp] theorem updPort_hring (i : Nat) (f : MPort → MPort) (n : Nat) : (s.updPort i f).hring n = s.hring n := rfl
@[simp] theorem updPort_lp (i : Nat) (f : MPort → MPort) (n : Nat) : (s.updPort i f).lp n = s.lp n := rfl

@[simp] theorem updPc_phase (i : Nat) (f : PChan → PChan) : (s.updPc i f).phase = s.phase := rfl
@[simp] theorem updPc_pending (i : Nat) (f : PChan → PChan) : (s.updPc i f).pending = s.pending := rfl
@[simp] theorem updPc_cycle (i : Nat) (f : PChan → PChan) : (s.updPc i f).cycle = s.cycle := rfl
@[simp] theorem updPc_coarse (i : Nat) (f : PChan → PChan) : (s.updPc i f).coarse = s.coarse := rfl
@[simp] theorem updPc_regs (i : Nat) (f : PChan → PChan) : (s.updPc i f).regs = s.regs := rfl
@[simp] theorem updPc_regs0 (i : Nat) (f : PChan → PChan) : (s.updPc i f).regs0 = s.regs0 := rfl
@[simp] theorem updPc_raised (i : Nat) (f : PChan → PChan) : (s.updPc i f).raised = s.raised := rfl
@[simp] theorem updPc_viewOps (i : Nat) (f : PChan → PChan) : (s.updPc i f).viewOps = s.viewOps := rfl
@[simp] theorem updPc_staged (i : Nat) (f : PChan → PChan) : (s.updPc i f).staged = s.staged := rfl
@[simp] theorem updPc_staged0 (i : Nat) (f : PChan → PChan) : (s.updPc i f).staged0 = s.staged0 := rfl
@[simp] theorem updPc_lowBuf (i : Nat) (f : PChan → PChan) : (s.updPc i f).lowBuf = s.lowBuf := rfl
@[simp] theorem updPc_tables (i : Nat) (f : PChan → PChan) : (s.updPc i f).tables = s.tables := rfl
@[simp] theorem updPc_unlockAt (i : Nat) (f : PChan → PChan) : (s.updPc i f).unlockAt = s.unlockAt := rfl
@[simp] theorem updPc_onceDone (i : Nat) (f : PChan → PChan) : (s.updPc i f).onceDone = s.onceDone := rfl
@[simp] theorem updPc_commits (i : Nat) (f : PChan → PChan) : (s.updPc i f).commits = s.commits := rfl
@[simp] theorem updPc_chans (i : Nat) (f : PChan → PChan) : (s.updPc i f).chans = s.chans := rfl
@[simp] theorem updPc_skeins (i : Nat) (f : PChan → PChan) : (s.updPc i f).skeins = s.skeins := rfl
@[simp] theorem updPc_slots (i : Nat) (f : PChan → PChan) : (s.updPc i f).slots = s.slots := rfl
@[simp] theorem updPc_engs (i : Nat) (f : PChan → PChan) : (s.updPc i f).engs = s.engs := rfl
@[simp] theorem updPc_vus (i : Nat) (f : PChan → PChan) : (s.updPc i f).vus = s.vus := rfl
@[simp] theorem updPc_doms (i : Nat) (f : PChan → PChan) : (s.updPc i f).doms = s.doms := rfl
@[simp] theorem updPc_condCnt (i : Nat) (f : PChan → PChan) : (s.updPc i f).condCnt = s.condCnt := rfl
@[simp] theorem updPc_strms (i : Nat) (f : PChan → PChan) : (s.updPc i f).strms = s.strms := rfl
@[simp] theorem updPc_adcQ (i : Nat) (f : PChan → PChan) : (s.updPc i f).adcQ = s.adcQ := rfl
@[simp] theorem updPc_ports (i : Nat) (f : PChan → PChan) : (s.updPc i f).ports = s.ports := rfl
@[simp] theorem updPc_hrings (i : Nat) (f : PChan → PChan) : (s.updPc i f).hrings = s.hrings := rfl
@[simp] theorem updPc_hbm (i : Nat) (f : PChan → PChan) : (s.updPc i f).hbm = s.hbm := rfl
@[simp] theorem updPc_memc (i : Nat) (f : PChan → PChan) : (s.updPc i f).memc = s.memc := rfl
@[simp] theorem updPc_dmas (i : Nat) (f : PChan → PChan) : (s.updPc i f).dmas = s.dmas := rfl
@[simp] theorem updPc_mram (i : Nat) (f : PChan → PChan) : (s.updPc i f).mram = s.mram := rfl
@[simp] theorem updPc_lps (i : Nat) (f : PChan → PChan) : (s.updPc i f).lps = s.lps := rfl
@[simp] theorem updPc_lnk (i : Nat) (f : PChan → PChan) : (s.updPc i f).lnk = s.lnk := rfl
@[simp] theorem updPc_tbs (i : Nat) (f : PChan → PChan) : (s.updPc i f).tbs = s.tbs := rfl
@[simp] theorem updPc_thms (i : Nat) (f : PChan → PChan) : (s.updPc i f).thms = s.thms := rfl
@[simp] theorem updPc_cals (i : Nat) (f : PChan → PChan) : (s.updPc i f).cals = s.cals := rfl
@[simp] theorem updPc_irqSent (i : Nat) (f : PChan → PChan) : (s.updPc i f).irqSent = s.irqSent := rfl
@[simp] theorem updPc_irqLatch (i : Nat) (f : PChan → PChan) : (s.updPc i f).irqLatch = s.irqLatch := rfl
@[simp] theorem updPc_irqAt (i : Nat) (f : PChan → PChan) : (s.updPc i f).irqAt = s.irqAt := rfl
@[simp] theorem updPc_cfgAt (i : Nat) (f : PChan → PChan) : (s.updPc i f).cfgAt = s.cfgAt := rfl
@[simp] theorem updPc_holdLog (i : Nat) (f : PChan → PChan) : (s.updPc i f).holdLog = s.holdLog := rfl
@[simp] theorem updPc_dllLog (i : Nat) (f : PChan → PChan) : (s.updPc i f).dllLog = s.dllLog := rfl
@[simp] theorem updPc_jtag (i : Nat) (f : PChan → PChan) : (s.updPc i f).jtag = s.jtag := rfl
@[simp] theorem updPc_free (i : Nat) (f : PChan → PChan) : (s.updPc i f).free = s.free := rfl
@[simp] theorem updPc_outbox (i : Nat) (f : PChan → PChan) : (s.updPc i f).outbox = s.outbox := rfl
@[simp] theorem updPc_reg (i : Nat) (f : PChan → PChan) (y : Nat) : (s.updPc i f).reg y = s.reg y := rfl
@[simp] theorem updPc_rd (i : Nat) (f : PChan → PChan) (c : Nat) (g : Fld) : (s.updPc i f).rd c g = s.rd c g := rfl
@[simp] theorem updPc_stg (i : Nat) (f : PChan → PChan) (y : Nat) : (s.updPc i f).stg y = s.stg y := rfl
@[simp] theorem updPc_tw (i : Nat) (f : PChan → PChan) (y : Nat) : (s.updPc i f).tw y = s.tw y := rfl
@[simp] theorem updPc_chan (i : Nat) (f : PChan → PChan) (n : Nat) : (s.updPc i f).chan n = s.chan n := rfl
@[simp] theorem updPc_skein (i : Nat) (f : PChan → PChan) (n : Nat) : (s.updPc i f).skein n = s.skein n := rfl
@[simp] theorem updPc_slot (i : Nat) (f : PChan → PChan) (m n : Nat) : (s.updPc i f).slot m n = s.slot m n := rfl
@[simp] theorem updPc_eng (i : Nat) (f : PChan → PChan) (n : Nat) : (s.updPc i f).eng n = s.eng n := rfl
@[simp] theorem updPc_vu (i : Nat) (f : PChan → PChan) (n : Nat) : (s.updPc i f).vu n = s.vu n := rfl
@[simp] theorem updPc_dom (i : Nat) (f : PChan → PChan) (n : Nat) : (s.updPc i f).dom n = s.dom n := rfl
@[simp] theorem updPc_strm (i : Nat) (f : PChan → PChan) (n : Nat) : (s.updPc i f).strm n = s.strm n := rfl
@[simp] theorem updPc_port (i : Nat) (f : PChan → PChan) (n : Nat) : (s.updPc i f).port n = s.port n := rfl
@[simp] theorem updPc_dma (i : Nat) (f : PChan → PChan) (n : Nat) : (s.updPc i f).dma n = s.dma n := rfl
@[simp] theorem updPc_hring (i : Nat) (f : PChan → PChan) (n : Nat) : (s.updPc i f).hring n = s.hring n := rfl
@[simp] theorem updPc_lp (i : Nat) (f : PChan → PChan) (n : Nat) : (s.updPc i f).lp n = s.lp n := rfl

@[simp] theorem updDma_phase (i : Nat) (f : Dma → Dma) : (s.updDma i f).phase = s.phase := rfl
@[simp] theorem updDma_pending (i : Nat) (f : Dma → Dma) : (s.updDma i f).pending = s.pending := rfl
@[simp] theorem updDma_cycle (i : Nat) (f : Dma → Dma) : (s.updDma i f).cycle = s.cycle := rfl
@[simp] theorem updDma_coarse (i : Nat) (f : Dma → Dma) : (s.updDma i f).coarse = s.coarse := rfl
@[simp] theorem updDma_regs (i : Nat) (f : Dma → Dma) : (s.updDma i f).regs = s.regs := rfl
@[simp] theorem updDma_regs0 (i : Nat) (f : Dma → Dma) : (s.updDma i f).regs0 = s.regs0 := rfl
@[simp] theorem updDma_raised (i : Nat) (f : Dma → Dma) : (s.updDma i f).raised = s.raised := rfl
@[simp] theorem updDma_viewOps (i : Nat) (f : Dma → Dma) : (s.updDma i f).viewOps = s.viewOps := rfl
@[simp] theorem updDma_staged (i : Nat) (f : Dma → Dma) : (s.updDma i f).staged = s.staged := rfl
@[simp] theorem updDma_staged0 (i : Nat) (f : Dma → Dma) : (s.updDma i f).staged0 = s.staged0 := rfl
@[simp] theorem updDma_lowBuf (i : Nat) (f : Dma → Dma) : (s.updDma i f).lowBuf = s.lowBuf := rfl
@[simp] theorem updDma_tables (i : Nat) (f : Dma → Dma) : (s.updDma i f).tables = s.tables := rfl
@[simp] theorem updDma_unlockAt (i : Nat) (f : Dma → Dma) : (s.updDma i f).unlockAt = s.unlockAt := rfl
@[simp] theorem updDma_onceDone (i : Nat) (f : Dma → Dma) : (s.updDma i f).onceDone = s.onceDone := rfl
@[simp] theorem updDma_commits (i : Nat) (f : Dma → Dma) : (s.updDma i f).commits = s.commits := rfl
@[simp] theorem updDma_chans (i : Nat) (f : Dma → Dma) : (s.updDma i f).chans = s.chans := rfl
@[simp] theorem updDma_skeins (i : Nat) (f : Dma → Dma) : (s.updDma i f).skeins = s.skeins := rfl
@[simp] theorem updDma_slots (i : Nat) (f : Dma → Dma) : (s.updDma i f).slots = s.slots := rfl
@[simp] theorem updDma_engs (i : Nat) (f : Dma → Dma) : (s.updDma i f).engs = s.engs := rfl
@[simp] theorem updDma_vus (i : Nat) (f : Dma → Dma) : (s.updDma i f).vus = s.vus := rfl
@[simp] theorem updDma_doms (i : Nat) (f : Dma → Dma) : (s.updDma i f).doms = s.doms := rfl
@[simp] theorem updDma_condCnt (i : Nat) (f : Dma → Dma) : (s.updDma i f).condCnt = s.condCnt := rfl
@[simp] theorem updDma_strms (i : Nat) (f : Dma → Dma) : (s.updDma i f).strms = s.strms := rfl
@[simp] theorem updDma_adcQ (i : Nat) (f : Dma → Dma) : (s.updDma i f).adcQ = s.adcQ := rfl
@[simp] theorem updDma_ports (i : Nat) (f : Dma → Dma) : (s.updDma i f).ports = s.ports := rfl
@[simp] theorem updDma_pcs (i : Nat) (f : Dma → Dma) : (s.updDma i f).pcs = s.pcs := rfl
@[simp] theorem updDma_hrings (i : Nat) (f : Dma → Dma) : (s.updDma i f).hrings = s.hrings := rfl
@[simp] theorem updDma_hbm (i : Nat) (f : Dma → Dma) : (s.updDma i f).hbm = s.hbm := rfl
@[simp] theorem updDma_memc (i : Nat) (f : Dma → Dma) : (s.updDma i f).memc = s.memc := rfl
@[simp] theorem updDma_mram (i : Nat) (f : Dma → Dma) : (s.updDma i f).mram = s.mram := rfl
@[simp] theorem updDma_lps (i : Nat) (f : Dma → Dma) : (s.updDma i f).lps = s.lps := rfl
@[simp] theorem updDma_lnk (i : Nat) (f : Dma → Dma) : (s.updDma i f).lnk = s.lnk := rfl
@[simp] theorem updDma_tbs (i : Nat) (f : Dma → Dma) : (s.updDma i f).tbs = s.tbs := rfl
@[simp] theorem updDma_thms (i : Nat) (f : Dma → Dma) : (s.updDma i f).thms = s.thms := rfl
@[simp] theorem updDma_cals (i : Nat) (f : Dma → Dma) : (s.updDma i f).cals = s.cals := rfl
@[simp] theorem updDma_irqSent (i : Nat) (f : Dma → Dma) : (s.updDma i f).irqSent = s.irqSent := rfl
@[simp] theorem updDma_irqLatch (i : Nat) (f : Dma → Dma) : (s.updDma i f).irqLatch = s.irqLatch := rfl
@[simp] theorem updDma_irqAt (i : Nat) (f : Dma → Dma) : (s.updDma i f).irqAt = s.irqAt := rfl
@[simp] theorem updDma_cfgAt (i : Nat) (f : Dma → Dma) : (s.updDma i f).cfgAt = s.cfgAt := rfl
@[simp] theorem updDma_holdLog (i : Nat) (f : Dma → Dma) : (s.updDma i f).holdLog = s.holdLog := rfl
@[simp] theorem updDma_dllLog (i : Nat) (f : Dma → Dma) : (s.updDma i f).dllLog = s.dllLog := rfl
@[simp] theorem updDma_jtag (i : Nat) (f : Dma → Dma) : (s.updDma i f).jtag = s.jtag := rfl
@[simp] theorem updDma_free (i : Nat) (f : Dma → Dma) : (s.updDma i f).free = s.free := rfl
@[simp] theorem updDma_outbox (i : Nat) (f : Dma → Dma) : (s.updDma i f).outbox = s.outbox := rfl
@[simp] theorem updDma_reg (i : Nat) (f : Dma → Dma) (y : Nat) : (s.updDma i f).reg y = s.reg y := rfl
@[simp] theorem updDma_rd (i : Nat) (f : Dma → Dma) (c : Nat) (g : Fld) : (s.updDma i f).rd c g = s.rd c g := rfl
@[simp] theorem updDma_stg (i : Nat) (f : Dma → Dma) (y : Nat) : (s.updDma i f).stg y = s.stg y := rfl
@[simp] theorem updDma_tw (i : Nat) (f : Dma → Dma) (y : Nat) : (s.updDma i f).tw y = s.tw y := rfl
@[simp] theorem updDma_chan (i : Nat) (f : Dma → Dma) (n : Nat) : (s.updDma i f).chan n = s.chan n := rfl
@[simp] theorem updDma_skein (i : Nat) (f : Dma → Dma) (n : Nat) : (s.updDma i f).skein n = s.skein n := rfl
@[simp] theorem updDma_slot (i : Nat) (f : Dma → Dma) (m n : Nat) : (s.updDma i f).slot m n = s.slot m n := rfl
@[simp] theorem updDma_eng (i : Nat) (f : Dma → Dma) (n : Nat) : (s.updDma i f).eng n = s.eng n := rfl
@[simp] theorem updDma_vu (i : Nat) (f : Dma → Dma) (n : Nat) : (s.updDma i f).vu n = s.vu n := rfl
@[simp] theorem updDma_dom (i : Nat) (f : Dma → Dma) (n : Nat) : (s.updDma i f).dom n = s.dom n := rfl
@[simp] theorem updDma_strm (i : Nat) (f : Dma → Dma) (n : Nat) : (s.updDma i f).strm n = s.strm n := rfl
@[simp] theorem updDma_port (i : Nat) (f : Dma → Dma) (n : Nat) : (s.updDma i f).port n = s.port n := rfl
@[simp] theorem updDma_pchan (i : Nat) (f : Dma → Dma) (n : Nat) : (s.updDma i f).pchan n = s.pchan n := rfl
@[simp] theorem updDma_hring (i : Nat) (f : Dma → Dma) (n : Nat) : (s.updDma i f).hring n = s.hring n := rfl
@[simp] theorem updDma_lp (i : Nat) (f : Dma → Dma) (n : Nat) : (s.updDma i f).lp n = s.lp n := rfl

@[simp] theorem updHring_phase (i : Nat) (f : HRing → HRing) : (s.updHring i f).phase = s.phase := rfl
@[simp] theorem updHring_pending (i : Nat) (f : HRing → HRing) : (s.updHring i f).pending = s.pending := rfl
@[simp] theorem updHring_cycle (i : Nat) (f : HRing → HRing) : (s.updHring i f).cycle = s.cycle := rfl
@[simp] theorem updHring_coarse (i : Nat) (f : HRing → HRing) : (s.updHring i f).coarse = s.coarse := rfl
@[simp] theorem updHring_regs (i : Nat) (f : HRing → HRing) : (s.updHring i f).regs = s.regs := rfl
@[simp] theorem updHring_regs0 (i : Nat) (f : HRing → HRing) : (s.updHring i f).regs0 = s.regs0 := rfl
@[simp] theorem updHring_raised (i : Nat) (f : HRing → HRing) : (s.updHring i f).raised = s.raised := rfl
@[simp] theorem updHring_viewOps (i : Nat) (f : HRing → HRing) : (s.updHring i f).viewOps = s.viewOps := rfl
@[simp] theorem updHring_staged (i : Nat) (f : HRing → HRing) : (s.updHring i f).staged = s.staged := rfl
@[simp] theorem updHring_staged0 (i : Nat) (f : HRing → HRing) : (s.updHring i f).staged0 = s.staged0 := rfl
@[simp] theorem updHring_lowBuf (i : Nat) (f : HRing → HRing) : (s.updHring i f).lowBuf = s.lowBuf := rfl
@[simp] theorem updHring_tables (i : Nat) (f : HRing → HRing) : (s.updHring i f).tables = s.tables := rfl
@[simp] theorem updHring_unlockAt (i : Nat) (f : HRing → HRing) : (s.updHring i f).unlockAt = s.unlockAt := rfl
@[simp] theorem updHring_onceDone (i : Nat) (f : HRing → HRing) : (s.updHring i f).onceDone = s.onceDone := rfl
@[simp] theorem updHring_commits (i : Nat) (f : HRing → HRing) : (s.updHring i f).commits = s.commits := rfl
@[simp] theorem updHring_chans (i : Nat) (f : HRing → HRing) : (s.updHring i f).chans = s.chans := rfl
@[simp] theorem updHring_skeins (i : Nat) (f : HRing → HRing) : (s.updHring i f).skeins = s.skeins := rfl
@[simp] theorem updHring_slots (i : Nat) (f : HRing → HRing) : (s.updHring i f).slots = s.slots := rfl
@[simp] theorem updHring_engs (i : Nat) (f : HRing → HRing) : (s.updHring i f).engs = s.engs := rfl
@[simp] theorem updHring_vus (i : Nat) (f : HRing → HRing) : (s.updHring i f).vus = s.vus := rfl
@[simp] theorem updHring_doms (i : Nat) (f : HRing → HRing) : (s.updHring i f).doms = s.doms := rfl
@[simp] theorem updHring_condCnt (i : Nat) (f : HRing → HRing) : (s.updHring i f).condCnt = s.condCnt := rfl
@[simp] theorem updHring_strms (i : Nat) (f : HRing → HRing) : (s.updHring i f).strms = s.strms := rfl
@[simp] theorem updHring_adcQ (i : Nat) (f : HRing → HRing) : (s.updHring i f).adcQ = s.adcQ := rfl
@[simp] theorem updHring_ports (i : Nat) (f : HRing → HRing) : (s.updHring i f).ports = s.ports := rfl
@[simp] theorem updHring_pcs (i : Nat) (f : HRing → HRing) : (s.updHring i f).pcs = s.pcs := rfl
@[simp] theorem updHring_hbm (i : Nat) (f : HRing → HRing) : (s.updHring i f).hbm = s.hbm := rfl
@[simp] theorem updHring_memc (i : Nat) (f : HRing → HRing) : (s.updHring i f).memc = s.memc := rfl
@[simp] theorem updHring_dmas (i : Nat) (f : HRing → HRing) : (s.updHring i f).dmas = s.dmas := rfl
@[simp] theorem updHring_mram (i : Nat) (f : HRing → HRing) : (s.updHring i f).mram = s.mram := rfl
@[simp] theorem updHring_lps (i : Nat) (f : HRing → HRing) : (s.updHring i f).lps = s.lps := rfl
@[simp] theorem updHring_lnk (i : Nat) (f : HRing → HRing) : (s.updHring i f).lnk = s.lnk := rfl
@[simp] theorem updHring_tbs (i : Nat) (f : HRing → HRing) : (s.updHring i f).tbs = s.tbs := rfl
@[simp] theorem updHring_thms (i : Nat) (f : HRing → HRing) : (s.updHring i f).thms = s.thms := rfl
@[simp] theorem updHring_cals (i : Nat) (f : HRing → HRing) : (s.updHring i f).cals = s.cals := rfl
@[simp] theorem updHring_irqSent (i : Nat) (f : HRing → HRing) : (s.updHring i f).irqSent = s.irqSent := rfl
@[simp] theorem updHring_irqLatch (i : Nat) (f : HRing → HRing) : (s.updHring i f).irqLatch = s.irqLatch := rfl
@[simp] theorem updHring_irqAt (i : Nat) (f : HRing → HRing) : (s.updHring i f).irqAt = s.irqAt := rfl
@[simp] theorem updHring_cfgAt (i : Nat) (f : HRing → HRing) : (s.updHring i f).cfgAt = s.cfgAt := rfl
@[simp] theorem updHring_holdLog (i : Nat) (f : HRing → HRing) : (s.updHring i f).holdLog = s.holdLog := rfl
@[simp] theorem updHring_dllLog (i : Nat) (f : HRing → HRing) : (s.updHring i f).dllLog = s.dllLog := rfl
@[simp] theorem updHring_jtag (i : Nat) (f : HRing → HRing) : (s.updHring i f).jtag = s.jtag := rfl
@[simp] theorem updHring_free (i : Nat) (f : HRing → HRing) : (s.updHring i f).free = s.free := rfl
@[simp] theorem updHring_outbox (i : Nat) (f : HRing → HRing) : (s.updHring i f).outbox = s.outbox := rfl
@[simp] theorem updHring_reg (i : Nat) (f : HRing → HRing) (y : Nat) : (s.updHring i f).reg y = s.reg y := rfl
@[simp] theorem updHring_rd (i : Nat) (f : HRing → HRing) (c : Nat) (g : Fld) : (s.updHring i f).rd c g = s.rd c g := rfl
@[simp] theorem updHring_stg (i : Nat) (f : HRing → HRing) (y : Nat) : (s.updHring i f).stg y = s.stg y := rfl
@[simp] theorem updHring_tw (i : Nat) (f : HRing → HRing) (y : Nat) : (s.updHring i f).tw y = s.tw y := rfl
@[simp] theorem updHring_chan (i : Nat) (f : HRing → HRing) (n : Nat) : (s.updHring i f).chan n = s.chan n := rfl
@[simp] theorem updHring_skein (i : Nat) (f : HRing → HRing) (n : Nat) : (s.updHring i f).skein n = s.skein n := rfl
@[simp] theorem updHring_slot (i : Nat) (f : HRing → HRing) (m n : Nat) : (s.updHring i f).slot m n = s.slot m n := rfl
@[simp] theorem updHring_eng (i : Nat) (f : HRing → HRing) (n : Nat) : (s.updHring i f).eng n = s.eng n := rfl
@[simp] theorem updHring_vu (i : Nat) (f : HRing → HRing) (n : Nat) : (s.updHring i f).vu n = s.vu n := rfl
@[simp] theorem updHring_dom (i : Nat) (f : HRing → HRing) (n : Nat) : (s.updHring i f).dom n = s.dom n := rfl
@[simp] theorem updHring_strm (i : Nat) (f : HRing → HRing) (n : Nat) : (s.updHring i f).strm n = s.strm n := rfl
@[simp] theorem updHring_port (i : Nat) (f : HRing → HRing) (n : Nat) : (s.updHring i f).port n = s.port n := rfl
@[simp] theorem updHring_pchan (i : Nat) (f : HRing → HRing) (n : Nat) : (s.updHring i f).pchan n = s.pchan n := rfl
@[simp] theorem updHring_dma (i : Nat) (f : HRing → HRing) (n : Nat) : (s.updHring i f).dma n = s.dma n := rfl
@[simp] theorem updHring_lp (i : Nat) (f : HRing → HRing) (n : Nat) : (s.updHring i f).lp n = s.lp n := rfl

@[simp] theorem updLp_phase (i : Nat) (f : LPort → LPort) : (s.updLp i f).phase = s.phase := rfl
@[simp] theorem updLp_pending (i : Nat) (f : LPort → LPort) : (s.updLp i f).pending = s.pending := rfl
@[simp] theorem updLp_cycle (i : Nat) (f : LPort → LPort) : (s.updLp i f).cycle = s.cycle := rfl
@[simp] theorem updLp_coarse (i : Nat) (f : LPort → LPort) : (s.updLp i f).coarse = s.coarse := rfl
@[simp] theorem updLp_regs (i : Nat) (f : LPort → LPort) : (s.updLp i f).regs = s.regs := rfl
@[simp] theorem updLp_regs0 (i : Nat) (f : LPort → LPort) : (s.updLp i f).regs0 = s.regs0 := rfl
@[simp] theorem updLp_raised (i : Nat) (f : LPort → LPort) : (s.updLp i f).raised = s.raised := rfl
@[simp] theorem updLp_viewOps (i : Nat) (f : LPort → LPort) : (s.updLp i f).viewOps = s.viewOps := rfl
@[simp] theorem updLp_staged (i : Nat) (f : LPort → LPort) : (s.updLp i f).staged = s.staged := rfl
@[simp] theorem updLp_staged0 (i : Nat) (f : LPort → LPort) : (s.updLp i f).staged0 = s.staged0 := rfl
@[simp] theorem updLp_lowBuf (i : Nat) (f : LPort → LPort) : (s.updLp i f).lowBuf = s.lowBuf := rfl
@[simp] theorem updLp_tables (i : Nat) (f : LPort → LPort) : (s.updLp i f).tables = s.tables := rfl
@[simp] theorem updLp_unlockAt (i : Nat) (f : LPort → LPort) : (s.updLp i f).unlockAt = s.unlockAt := rfl
@[simp] theorem updLp_onceDone (i : Nat) (f : LPort → LPort) : (s.updLp i f).onceDone = s.onceDone := rfl
@[simp] theorem updLp_commits (i : Nat) (f : LPort → LPort) : (s.updLp i f).commits = s.commits := rfl
@[simp] theorem updLp_chans (i : Nat) (f : LPort → LPort) : (s.updLp i f).chans = s.chans := rfl
@[simp] theorem updLp_skeins (i : Nat) (f : LPort → LPort) : (s.updLp i f).skeins = s.skeins := rfl
@[simp] theorem updLp_slots (i : Nat) (f : LPort → LPort) : (s.updLp i f).slots = s.slots := rfl
@[simp] theorem updLp_engs (i : Nat) (f : LPort → LPort) : (s.updLp i f).engs = s.engs := rfl
@[simp] theorem updLp_vus (i : Nat) (f : LPort → LPort) : (s.updLp i f).vus = s.vus := rfl
@[simp] theorem updLp_doms (i : Nat) (f : LPort → LPort) : (s.updLp i f).doms = s.doms := rfl
@[simp] theorem updLp_condCnt (i : Nat) (f : LPort → LPort) : (s.updLp i f).condCnt = s.condCnt := rfl
@[simp] theorem updLp_strms (i : Nat) (f : LPort → LPort) : (s.updLp i f).strms = s.strms := rfl
@[simp] theorem updLp_adcQ (i : Nat) (f : LPort → LPort) : (s.updLp i f).adcQ = s.adcQ := rfl
@[simp] theorem updLp_ports (i : Nat) (f : LPort → LPort) : (s.updLp i f).ports = s.ports := rfl
@[simp] theorem updLp_pcs (i : Nat) (f : LPort → LPort) : (s.updLp i f).pcs = s.pcs := rfl
@[simp] theorem updLp_hrings (i : Nat) (f : LPort → LPort) : (s.updLp i f).hrings = s.hrings := rfl
@[simp] theorem updLp_hbm (i : Nat) (f : LPort → LPort) : (s.updLp i f).hbm = s.hbm := rfl
@[simp] theorem updLp_memc (i : Nat) (f : LPort → LPort) : (s.updLp i f).memc = s.memc := rfl
@[simp] theorem updLp_dmas (i : Nat) (f : LPort → LPort) : (s.updLp i f).dmas = s.dmas := rfl
@[simp] theorem updLp_mram (i : Nat) (f : LPort → LPort) : (s.updLp i f).mram = s.mram := rfl
@[simp] theorem updLp_lnk (i : Nat) (f : LPort → LPort) : (s.updLp i f).lnk = s.lnk := rfl
@[simp] theorem updLp_tbs (i : Nat) (f : LPort → LPort) : (s.updLp i f).tbs = s.tbs := rfl
@[simp] theorem updLp_thms (i : Nat) (f : LPort → LPort) : (s.updLp i f).thms = s.thms := rfl
@[simp] theorem updLp_cals (i : Nat) (f : LPort → LPort) : (s.updLp i f).cals = s.cals := rfl
@[simp] theorem updLp_irqSent (i : Nat) (f : LPort → LPort) : (s.updLp i f).irqSent = s.irqSent := rfl
@[simp] theorem updLp_irqLatch (i : Nat) (f : LPort → LPort) : (s.updLp i f).irqLatch = s.irqLatch := rfl
@[simp] theorem updLp_irqAt (i : Nat) (f : LPort → LPort) : (s.updLp i f).irqAt = s.irqAt := rfl
@[simp] theorem updLp_cfgAt (i : Nat) (f : LPort → LPort) : (s.updLp i f).cfgAt = s.cfgAt := rfl
@[simp] theorem updLp_holdLog (i : Nat) (f : LPort → LPort) : (s.updLp i f).holdLog = s.holdLog := rfl
@[simp] theorem updLp_dllLog (i : Nat) (f : LPort → LPort) : (s.updLp i f).dllLog = s.dllLog := rfl
@[simp] theorem updLp_jtag (i : Nat) (f : LPort → LPort) : (s.updLp i f).jtag = s.jtag := rfl
@[simp] theorem updLp_free (i : Nat) (f : LPort → LPort) : (s.updLp i f).free = s.free := rfl
@[simp] theorem updLp_outbox (i : Nat) (f : LPort → LPort) : (s.updLp i f).outbox = s.outbox := rfl
@[simp] theorem updLp_reg (i : Nat) (f : LPort → LPort) (y : Nat) : (s.updLp i f).reg y = s.reg y := rfl
@[simp] theorem updLp_rd (i : Nat) (f : LPort → LPort) (c : Nat) (g : Fld) : (s.updLp i f).rd c g = s.rd c g := rfl
@[simp] theorem updLp_stg (i : Nat) (f : LPort → LPort) (y : Nat) : (s.updLp i f).stg y = s.stg y := rfl
@[simp] theorem updLp_tw (i : Nat) (f : LPort → LPort) (y : Nat) : (s.updLp i f).tw y = s.tw y := rfl
@[simp] theorem updLp_chan (i : Nat) (f : LPort → LPort) (n : Nat) : (s.updLp i f).chan n = s.chan n := rfl
@[simp] theorem updLp_skein (i : Nat) (f : LPort → LPort) (n : Nat) : (s.updLp i f).skein n = s.skein n := rfl
@[simp] theorem updLp_slot (i : Nat) (f : LPort → LPort) (m n : Nat) : (s.updLp i f).slot m n = s.slot m n := rfl
@[simp] theorem updLp_eng (i : Nat) (f : LPort → LPort) (n : Nat) : (s.updLp i f).eng n = s.eng n := rfl
@[simp] theorem updLp_vu (i : Nat) (f : LPort → LPort) (n : Nat) : (s.updLp i f).vu n = s.vu n := rfl
@[simp] theorem updLp_dom (i : Nat) (f : LPort → LPort) (n : Nat) : (s.updLp i f).dom n = s.dom n := rfl
@[simp] theorem updLp_strm (i : Nat) (f : LPort → LPort) (n : Nat) : (s.updLp i f).strm n = s.strm n := rfl
@[simp] theorem updLp_port (i : Nat) (f : LPort → LPort) (n : Nat) : (s.updLp i f).port n = s.port n := rfl
@[simp] theorem updLp_pchan (i : Nat) (f : LPort → LPort) (n : Nat) : (s.updLp i f).pchan n = s.pchan n := rfl
@[simp] theorem updLp_dma (i : Nat) (f : LPort → LPort) (n : Nat) : (s.updLp i f).dma n = s.dma n := rfl
@[simp] theorem updLp_hring (i : Nat) (f : LPort → LPort) (n : Nat) : (s.updLp i f).hring n = s.hring n := rfl

@[simp] theorem updTbs_phase (f : Tbs → Tbs) : (s.updTbs f).phase = s.phase := rfl
@[simp] theorem updTbs_pending (f : Tbs → Tbs) : (s.updTbs f).pending = s.pending := rfl
@[simp] theorem updTbs_cycle (f : Tbs → Tbs) : (s.updTbs f).cycle = s.cycle := rfl
@[simp] theorem updTbs_coarse (f : Tbs → Tbs) : (s.updTbs f).coarse = s.coarse := rfl
@[simp] theorem updTbs_regs (f : Tbs → Tbs) : (s.updTbs f).regs = s.regs := rfl
@[simp] theorem updTbs_regs0 (f : Tbs → Tbs) : (s.updTbs f).regs0 = s.regs0 := rfl
@[simp] theorem updTbs_raised (f : Tbs → Tbs) : (s.updTbs f).raised = s.raised := rfl
@[simp] theorem updTbs_viewOps (f : Tbs → Tbs) : (s.updTbs f).viewOps = s.viewOps := rfl
@[simp] theorem updTbs_staged (f : Tbs → Tbs) : (s.updTbs f).staged = s.staged := rfl
@[simp] theorem updTbs_staged0 (f : Tbs → Tbs) : (s.updTbs f).staged0 = s.staged0 := rfl
@[simp] theorem updTbs_lowBuf (f : Tbs → Tbs) : (s.updTbs f).lowBuf = s.lowBuf := rfl
@[simp] theorem updTbs_tables (f : Tbs → Tbs) : (s.updTbs f).tables = s.tables := rfl
@[simp] theorem updTbs_unlockAt (f : Tbs → Tbs) : (s.updTbs f).unlockAt = s.unlockAt := rfl
@[simp] theorem updTbs_onceDone (f : Tbs → Tbs) : (s.updTbs f).onceDone = s.onceDone := rfl
@[simp] theorem updTbs_commits (f : Tbs → Tbs) : (s.updTbs f).commits = s.commits := rfl
@[simp] theorem updTbs_chans (f : Tbs → Tbs) : (s.updTbs f).chans = s.chans := rfl
@[simp] theorem updTbs_skeins (f : Tbs → Tbs) : (s.updTbs f).skeins = s.skeins := rfl
@[simp] theorem updTbs_slots (f : Tbs → Tbs) : (s.updTbs f).slots = s.slots := rfl
@[simp] theorem updTbs_engs (f : Tbs → Tbs) : (s.updTbs f).engs = s.engs := rfl
@[simp] theorem updTbs_vus (f : Tbs → Tbs) : (s.updTbs f).vus = s.vus := rfl
@[simp] theorem updTbs_doms (f : Tbs → Tbs) : (s.updTbs f).doms = s.doms := rfl
@[simp] theorem updTbs_condCnt (f : Tbs → Tbs) : (s.updTbs f).condCnt = s.condCnt := rfl
@[simp] theorem updTbs_strms (f : Tbs → Tbs) : (s.updTbs f).strms = s.strms := rfl
@[simp] theorem updTbs_adcQ (f : Tbs → Tbs) : (s.updTbs f).adcQ = s.adcQ := rfl
@[simp] theorem updTbs_ports (f : Tbs → Tbs) : (s.updTbs f).ports = s.ports := rfl
@[simp] theorem updTbs_pcs (f : Tbs → Tbs) : (s.updTbs f).pcs = s.pcs := rfl
@[simp] theorem updTbs_hrings (f : Tbs → Tbs) : (s.updTbs f).hrings = s.hrings := rfl
@[simp] theorem updTbs_hbm (f : Tbs → Tbs) : (s.updTbs f).hbm = s.hbm := rfl
@[simp] theorem updTbs_memc (f : Tbs → Tbs) : (s.updTbs f).memc = s.memc := rfl
@[simp] theorem updTbs_dmas (f : Tbs → Tbs) : (s.updTbs f).dmas = s.dmas := rfl
@[simp] theorem updTbs_mram (f : Tbs → Tbs) : (s.updTbs f).mram = s.mram := rfl
@[simp] theorem updTbs_lps (f : Tbs → Tbs) : (s.updTbs f).lps = s.lps := rfl
@[simp] theorem updTbs_lnk (f : Tbs → Tbs) : (s.updTbs f).lnk = s.lnk := rfl
@[simp] theorem updTbs_thms (f : Tbs → Tbs) : (s.updTbs f).thms = s.thms := rfl
@[simp] theorem updTbs_cals (f : Tbs → Tbs) : (s.updTbs f).cals = s.cals := rfl
@[simp] theorem updTbs_irqSent (f : Tbs → Tbs) : (s.updTbs f).irqSent = s.irqSent := rfl
@[simp] theorem updTbs_irqLatch (f : Tbs → Tbs) : (s.updTbs f).irqLatch = s.irqLatch := rfl
@[simp] theorem updTbs_irqAt (f : Tbs → Tbs) : (s.updTbs f).irqAt = s.irqAt := rfl
@[simp] theorem updTbs_cfgAt (f : Tbs → Tbs) : (s.updTbs f).cfgAt = s.cfgAt := rfl
@[simp] theorem updTbs_holdLog (f : Tbs → Tbs) : (s.updTbs f).holdLog = s.holdLog := rfl
@[simp] theorem updTbs_dllLog (f : Tbs → Tbs) : (s.updTbs f).dllLog = s.dllLog := rfl
@[simp] theorem updTbs_jtag (f : Tbs → Tbs) : (s.updTbs f).jtag = s.jtag := rfl
@[simp] theorem updTbs_free (f : Tbs → Tbs) : (s.updTbs f).free = s.free := rfl
@[simp] theorem updTbs_outbox (f : Tbs → Tbs) : (s.updTbs f).outbox = s.outbox := rfl
@[simp] theorem updTbs_reg (f : Tbs → Tbs) (y : Nat) : (s.updTbs f).reg y = s.reg y := rfl
@[simp] theorem updTbs_rd (f : Tbs → Tbs) (c : Nat) (g : Fld) : (s.updTbs f).rd c g = s.rd c g := rfl
@[simp] theorem updTbs_stg (f : Tbs → Tbs) (y : Nat) : (s.updTbs f).stg y = s.stg y := rfl
@[simp] theorem updTbs_tw (f : Tbs → Tbs) (y : Nat) : (s.updTbs f).tw y = s.tw y := rfl
@[simp] theorem updTbs_chan (f : Tbs → Tbs) (n : Nat) : (s.updTbs f).chan n = s.chan n := rfl
@[simp] theorem updTbs_skein (f : Tbs → Tbs) (n : Nat) : (s.updTbs f).skein n = s.skein n := rfl
@[simp] theorem updTbs_slot (f : Tbs → Tbs) (m n : Nat) : (s.updTbs f).slot m n = s.slot m n := rfl
@[simp] theorem updTbs_eng (f : Tbs → Tbs) (n : Nat) : (s.updTbs f).eng n = s.eng n := rfl
@[simp] theorem updTbs_vu (f : Tbs → Tbs) (n : Nat) : (s.updTbs f).vu n = s.vu n := rfl
@[simp] theorem updTbs_dom (f : Tbs → Tbs) (n : Nat) : (s.updTbs f).dom n = s.dom n := rfl
@[simp] theorem updTbs_strm (f : Tbs → Tbs) (n : Nat) : (s.updTbs f).strm n = s.strm n := rfl
@[simp] theorem updTbs_port (f : Tbs → Tbs) (n : Nat) : (s.updTbs f).port n = s.port n := rfl
@[simp] theorem updTbs_pchan (f : Tbs → Tbs) (n : Nat) : (s.updTbs f).pchan n = s.pchan n := rfl
@[simp] theorem updTbs_dma (f : Tbs → Tbs) (n : Nat) : (s.updTbs f).dma n = s.dma n := rfl
@[simp] theorem updTbs_hring (f : Tbs → Tbs) (n : Nat) : (s.updTbs f).hring n = s.hring n := rfl
@[simp] theorem updTbs_lp (f : Tbs → Tbs) (n : Nat) : (s.updTbs f).lp n = s.lp n := rfl

@[simp] theorem updThms_phase (f : Thms → Thms) : (s.updThms f).phase = s.phase := rfl
@[simp] theorem updThms_pending (f : Thms → Thms) : (s.updThms f).pending = s.pending := rfl
@[simp] theorem updThms_cycle (f : Thms → Thms) : (s.updThms f).cycle = s.cycle := rfl
@[simp] theorem updThms_coarse (f : Thms → Thms) : (s.updThms f).coarse = s.coarse := rfl
@[simp] theorem updThms_regs (f : Thms → Thms) : (s.updThms f).regs = s.regs := rfl
@[simp] theorem updThms_regs0 (f : Thms → Thms) : (s.updThms f).regs0 = s.regs0 := rfl
@[simp] theorem updThms_raised (f : Thms → Thms) : (s.updThms f).raised = s.raised := rfl
@[simp] theorem updThms_viewOps (f : Thms → Thms) : (s.updThms f).viewOps = s.viewOps := rfl
@[simp] theorem updThms_staged (f : Thms → Thms) : (s.updThms f).staged = s.staged := rfl
@[simp] theorem updThms_staged0 (f : Thms → Thms) : (s.updThms f).staged0 = s.staged0 := rfl
@[simp] theorem updThms_lowBuf (f : Thms → Thms) : (s.updThms f).lowBuf = s.lowBuf := rfl
@[simp] theorem updThms_tables (f : Thms → Thms) : (s.updThms f).tables = s.tables := rfl
@[simp] theorem updThms_unlockAt (f : Thms → Thms) : (s.updThms f).unlockAt = s.unlockAt := rfl
@[simp] theorem updThms_onceDone (f : Thms → Thms) : (s.updThms f).onceDone = s.onceDone := rfl
@[simp] theorem updThms_commits (f : Thms → Thms) : (s.updThms f).commits = s.commits := rfl
@[simp] theorem updThms_chans (f : Thms → Thms) : (s.updThms f).chans = s.chans := rfl
@[simp] theorem updThms_skeins (f : Thms → Thms) : (s.updThms f).skeins = s.skeins := rfl
@[simp] theorem updThms_slots (f : Thms → Thms) : (s.updThms f).slots = s.slots := rfl
@[simp] theorem updThms_engs (f : Thms → Thms) : (s.updThms f).engs = s.engs := rfl
@[simp] theorem updThms_vus (f : Thms → Thms) : (s.updThms f).vus = s.vus := rfl
@[simp] theorem updThms_doms (f : Thms → Thms) : (s.updThms f).doms = s.doms := rfl
@[simp] theorem updThms_condCnt (f : Thms → Thms) : (s.updThms f).condCnt = s.condCnt := rfl
@[simp] theorem updThms_strms (f : Thms → Thms) : (s.updThms f).strms = s.strms := rfl
@[simp] theorem updThms_adcQ (f : Thms → Thms) : (s.updThms f).adcQ = s.adcQ := rfl
@[simp] theorem updThms_ports (f : Thms → Thms) : (s.updThms f).ports = s.ports := rfl
@[simp] theorem updThms_pcs (f : Thms → Thms) : (s.updThms f).pcs = s.pcs := rfl
@[simp] theorem updThms_hrings (f : Thms → Thms) : (s.updThms f).hrings = s.hrings := rfl
@[simp] theorem updThms_hbm (f : Thms → Thms) : (s.updThms f).hbm = s.hbm := rfl
@[simp] theorem updThms_memc (f : Thms → Thms) : (s.updThms f).memc = s.memc := rfl
@[simp] theorem updThms_dmas (f : Thms → Thms) : (s.updThms f).dmas = s.dmas := rfl
@[simp] theorem updThms_mram (f : Thms → Thms) : (s.updThms f).mram = s.mram := rfl
@[simp] theorem updThms_lps (f : Thms → Thms) : (s.updThms f).lps = s.lps := rfl
@[simp] theorem updThms_lnk (f : Thms → Thms) : (s.updThms f).lnk = s.lnk := rfl
@[simp] theorem updThms_tbs (f : Thms → Thms) : (s.updThms f).tbs = s.tbs := rfl
@[simp] theorem updThms_cals (f : Thms → Thms) : (s.updThms f).cals = s.cals := rfl
@[simp] theorem updThms_irqSent (f : Thms → Thms) : (s.updThms f).irqSent = s.irqSent := rfl
@[simp] theorem updThms_irqLatch (f : Thms → Thms) : (s.updThms f).irqLatch = s.irqLatch := rfl
@[simp] theorem updThms_irqAt (f : Thms → Thms) : (s.updThms f).irqAt = s.irqAt := rfl
@[simp] theorem updThms_cfgAt (f : Thms → Thms) : (s.updThms f).cfgAt = s.cfgAt := rfl
@[simp] theorem updThms_holdLog (f : Thms → Thms) : (s.updThms f).holdLog = s.holdLog := rfl
@[simp] theorem updThms_dllLog (f : Thms → Thms) : (s.updThms f).dllLog = s.dllLog := rfl
@[simp] theorem updThms_jtag (f : Thms → Thms) : (s.updThms f).jtag = s.jtag := rfl
@[simp] theorem updThms_free (f : Thms → Thms) : (s.updThms f).free = s.free := rfl
@[simp] theorem updThms_outbox (f : Thms → Thms) : (s.updThms f).outbox = s.outbox := rfl
@[simp] theorem updThms_reg (f : Thms → Thms) (y : Nat) : (s.updThms f).reg y = s.reg y := rfl
@[simp] theorem updThms_rd (f : Thms → Thms) (c : Nat) (g : Fld) : (s.updThms f).rd c g = s.rd c g := rfl
@[simp] theorem updThms_stg (f : Thms → Thms) (y : Nat) : (s.updThms f).stg y = s.stg y := rfl
@[simp] theorem updThms_tw (f : Thms → Thms) (y : Nat) : (s.updThms f).tw y = s.tw y := rfl
@[simp] theorem updThms_chan (f : Thms → Thms) (n : Nat) : (s.updThms f).chan n = s.chan n := rfl
@[simp] theorem updThms_skein (f : Thms → Thms) (n : Nat) : (s.updThms f).skein n = s.skein n := rfl
@[simp] theorem updThms_slot (f : Thms → Thms) (m n : Nat) : (s.updThms f).slot m n = s.slot m n := rfl
@[simp] theorem updThms_eng (f : Thms → Thms) (n : Nat) : (s.updThms f).eng n = s.eng n := rfl
@[simp] theorem updThms_vu (f : Thms → Thms) (n : Nat) : (s.updThms f).vu n = s.vu n := rfl
@[simp] theorem updThms_dom (f : Thms → Thms) (n : Nat) : (s.updThms f).dom n = s.dom n := rfl
@[simp] theorem updThms_strm (f : Thms → Thms) (n : Nat) : (s.updThms f).strm n = s.strm n := rfl
@[simp] theorem updThms_port (f : Thms → Thms) (n : Nat) : (s.updThms f).port n = s.port n := rfl
@[simp] theorem updThms_pchan (f : Thms → Thms) (n : Nat) : (s.updThms f).pchan n = s.pchan n := rfl
@[simp] theorem updThms_dma (f : Thms → Thms) (n : Nat) : (s.updThms f).dma n = s.dma n := rfl
@[simp] theorem updThms_hring (f : Thms → Thms) (n : Nat) : (s.updThms f).hring n = s.hring n := rfl
@[simp] theorem updThms_lp (f : Thms → Thms) (n : Nat) : (s.updThms f).lp n = s.lp n := rfl

@[simp] theorem updCals_phase (f : Cals → Cals) : (s.updCals f).phase = s.phase := rfl
@[simp] theorem updCals_pending (f : Cals → Cals) : (s.updCals f).pending = s.pending := rfl
@[simp] theorem updCals_cycle (f : Cals → Cals) : (s.updCals f).cycle = s.cycle := rfl
@[simp] theorem updCals_coarse (f : Cals → Cals) : (s.updCals f).coarse = s.coarse := rfl
@[simp] theorem updCals_regs (f : Cals → Cals) : (s.updCals f).regs = s.regs := rfl
@[simp] theorem updCals_regs0 (f : Cals → Cals) : (s.updCals f).regs0 = s.regs0 := rfl
@[simp] theorem updCals_raised (f : Cals → Cals) : (s.updCals f).raised = s.raised := rfl
@[simp] theorem updCals_viewOps (f : Cals → Cals) : (s.updCals f).viewOps = s.viewOps := rfl
@[simp] theorem updCals_staged (f : Cals → Cals) : (s.updCals f).staged = s.staged := rfl
@[simp] theorem updCals_staged0 (f : Cals → Cals) : (s.updCals f).staged0 = s.staged0 := rfl
@[simp] theorem updCals_lowBuf (f : Cals → Cals) : (s.updCals f).lowBuf = s.lowBuf := rfl
@[simp] theorem updCals_tables (f : Cals → Cals) : (s.updCals f).tables = s.tables := rfl
@[simp] theorem updCals_unlockAt (f : Cals → Cals) : (s.updCals f).unlockAt = s.unlockAt := rfl
@[simp] theorem updCals_onceDone (f : Cals → Cals) : (s.updCals f).onceDone = s.onceDone := rfl
@[simp] theorem updCals_commits (f : Cals → Cals) : (s.updCals f).commits = s.commits := rfl
@[simp] theorem updCals_chans (f : Cals → Cals) : (s.updCals f).chans = s.chans := rfl
@[simp] theorem updCals_skeins (f : Cals → Cals) : (s.updCals f).skeins = s.skeins := rfl
@[simp] theorem updCals_slots (f : Cals → Cals) : (s.updCals f).slots = s.slots := rfl
@[simp] theorem updCals_engs (f : Cals → Cals) : (s.updCals f).engs = s.engs := rfl
@[simp] theorem updCals_vus (f : Cals → Cals) : (s.updCals f).vus = s.vus := rfl
@[simp] theorem updCals_doms (f : Cals → Cals) : (s.updCals f).doms = s.doms := rfl
@[simp] theorem updCals_condCnt (f : Cals → Cals) : (s.updCals f).condCnt = s.condCnt := rfl
@[simp] theorem updCals_strms (f : Cals → Cals) : (s.updCals f).strms = s.strms := rfl
@[simp] theorem updCals_adcQ (f : Cals → Cals) : (s.updCals f).adcQ = s.adcQ := rfl
@[simp] theorem updCals_ports (f : Cals → Cals) : (s.updCals f).ports = s.ports := rfl
@[simp] theorem updCals_pcs (f : Cals → Cals) : (s.updCals f).pcs = s.pcs := rfl
@[simp] theorem updCals_hrings (f : Cals → Cals) : (s.updCals f).hrings = s.hrings := rfl
@[simp] theorem updCals_hbm (f : Cals → Cals) : (s.updCals f).hbm = s.hbm := rfl
@[simp] theorem updCals_memc (f : Cals → Cals) : (s.updCals f).memc = s.memc := rfl
@[simp] theorem updCals_dmas (f : Cals → Cals) : (s.updCals f).dmas = s.dmas := rfl
@[simp] theorem updCals_mram (f : Cals → Cals) : (s.updCals f).mram = s.mram := rfl
@[simp] theorem updCals_lps (f : Cals → Cals) : (s.updCals f).lps = s.lps := rfl
@[simp] theorem updCals_lnk (f : Cals → Cals) : (s.updCals f).lnk = s.lnk := rfl
@[simp] theorem updCals_tbs (f : Cals → Cals) : (s.updCals f).tbs = s.tbs := rfl
@[simp] theorem updCals_thms (f : Cals → Cals) : (s.updCals f).thms = s.thms := rfl
@[simp] theorem updCals_irqSent (f : Cals → Cals) : (s.updCals f).irqSent = s.irqSent := rfl
@[simp] theorem updCals_irqLatch (f : Cals → Cals) : (s.updCals f).irqLatch = s.irqLatch := rfl
@[simp] theorem updCals_irqAt (f : Cals → Cals) : (s.updCals f).irqAt = s.irqAt := rfl
@[simp] theorem updCals_cfgAt (f : Cals → Cals) : (s.updCals f).cfgAt = s.cfgAt := rfl
@[simp] theorem updCals_holdLog (f : Cals → Cals) : (s.updCals f).holdLog = s.holdLog := rfl
@[simp] theorem updCals_dllLog (f : Cals → Cals) : (s.updCals f).dllLog = s.dllLog := rfl
@[simp] theorem updCals_jtag (f : Cals → Cals) : (s.updCals f).jtag = s.jtag := rfl
@[simp] theorem updCals_free (f : Cals → Cals) : (s.updCals f).free = s.free := rfl
@[simp] theorem updCals_outbox (f : Cals → Cals) : (s.updCals f).outbox = s.outbox := rfl
@[simp] theorem updCals_reg (f : Cals → Cals) (y : Nat) : (s.updCals f).reg y = s.reg y := rfl
@[simp] theorem updCals_rd (f : Cals → Cals) (c : Nat) (g : Fld) : (s.updCals f).rd c g = s.rd c g := rfl
@[simp] theorem updCals_stg (f : Cals → Cals) (y : Nat) : (s.updCals f).stg y = s.stg y := rfl
@[simp] theorem updCals_tw (f : Cals → Cals) (y : Nat) : (s.updCals f).tw y = s.tw y := rfl
@[simp] theorem updCals_chan (f : Cals → Cals) (n : Nat) : (s.updCals f).chan n = s.chan n := rfl
@[simp] theorem updCals_skein (f : Cals → Cals) (n : Nat) : (s.updCals f).skein n = s.skein n := rfl
@[simp] theorem updCals_slot (f : Cals → Cals) (m n : Nat) : (s.updCals f).slot m n = s.slot m n := rfl
@[simp] theorem updCals_eng (f : Cals → Cals) (n : Nat) : (s.updCals f).eng n = s.eng n := rfl
@[simp] theorem updCals_vu (f : Cals → Cals) (n : Nat) : (s.updCals f).vu n = s.vu n := rfl
@[simp] theorem updCals_dom (f : Cals → Cals) (n : Nat) : (s.updCals f).dom n = s.dom n := rfl
@[simp] theorem updCals_strm (f : Cals → Cals) (n : Nat) : (s.updCals f).strm n = s.strm n := rfl
@[simp] theorem updCals_port (f : Cals → Cals) (n : Nat) : (s.updCals f).port n = s.port n := rfl
@[simp] theorem updCals_pchan (f : Cals → Cals) (n : Nat) : (s.updCals f).pchan n = s.pchan n := rfl
@[simp] theorem updCals_dma (f : Cals → Cals) (n : Nat) : (s.updCals f).dma n = s.dma n := rfl
@[simp] theorem updCals_hring (f : Cals → Cals) (n : Nat) : (s.updCals f).hring n = s.hring n := rfl
@[simp] theorem updCals_lp (f : Cals → Cals) (n : Nat) : (s.updCals f).lp n = s.lp n := rfl

@[simp] theorem updMemc_phase (f : MemC → MemC) : (s.updMemc f).phase = s.phase := rfl
@[simp] theorem updMemc_pending (f : MemC → MemC) : (s.updMemc f).pending = s.pending := rfl
@[simp] theorem updMemc_cycle (f : MemC → MemC) : (s.updMemc f).cycle = s.cycle := rfl
@[simp] theorem updMemc_coarse (f : MemC → MemC) : (s.updMemc f).coarse = s.coarse := rfl
@[simp] theorem updMemc_regs (f : MemC → MemC) : (s.updMemc f).regs = s.regs := rfl
@[simp] theorem updMemc_regs0 (f : MemC → MemC) : (s.updMemc f).regs0 = s.regs0 := rfl
@[simp] theorem updMemc_raised (f : MemC → MemC) : (s.updMemc f).raised = s.raised := rfl
@[simp] theorem updMemc_viewOps (f : MemC → MemC) : (s.updMemc f).viewOps = s.viewOps := rfl
@[simp] theorem updMemc_staged (f : MemC → MemC) : (s.updMemc f).staged = s.staged := rfl
@[simp] theorem updMemc_staged0 (f : MemC → MemC) : (s.updMemc f).staged0 = s.staged0 := rfl
@[simp] theorem updMemc_lowBuf (f : MemC → MemC) : (s.updMemc f).lowBuf = s.lowBuf := rfl
@[simp] theorem updMemc_tables (f : MemC → MemC) : (s.updMemc f).tables = s.tables := rfl
@[simp] theorem updMemc_unlockAt (f : MemC → MemC) : (s.updMemc f).unlockAt = s.unlockAt := rfl
@[simp] theorem updMemc_onceDone (f : MemC → MemC) : (s.updMemc f).onceDone = s.onceDone := rfl
@[simp] theorem updMemc_commits (f : MemC → MemC) : (s.updMemc f).commits = s.commits := rfl
@[simp] theorem updMemc_chans (f : MemC → MemC) : (s.updMemc f).chans = s.chans := rfl
@[simp] theorem updMemc_skeins (f : MemC → MemC) : (s.updMemc f).skeins = s.skeins := rfl
@[simp] theorem updMemc_slots (f : MemC → MemC) : (s.updMemc f).slots = s.slots := rfl
@[simp] theorem updMemc_engs (f : MemC → MemC) : (s.updMemc f).engs = s.engs := rfl
@[simp] theorem updMemc_vus (f : MemC → MemC) : (s.updMemc f).vus = s.vus := rfl
@[simp] theorem updMemc_doms (f : MemC → MemC) : (s.updMemc f).doms = s.doms := rfl
@[simp] theorem updMemc_condCnt (f : MemC → MemC) : (s.updMemc f).condCnt = s.condCnt := rfl
@[simp] theorem updMemc_strms (f : MemC → MemC) : (s.updMemc f).strms = s.strms := rfl
@[simp] theorem updMemc_adcQ (f : MemC → MemC) : (s.updMemc f).adcQ = s.adcQ := rfl
@[simp] theorem updMemc_ports (f : MemC → MemC) : (s.updMemc f).ports = s.ports := rfl
@[simp] theorem updMemc_pcs (f : MemC → MemC) : (s.updMemc f).pcs = s.pcs := rfl
@[simp] theorem updMemc_hrings (f : MemC → MemC) : (s.updMemc f).hrings = s.hrings := rfl
@[simp] theorem updMemc_hbm (f : MemC → MemC) : (s.updMemc f).hbm = s.hbm := rfl
@[simp] theorem updMemc_dmas (f : MemC → MemC) : (s.updMemc f).dmas = s.dmas := rfl
@[simp] theorem updMemc_mram (f : MemC → MemC) : (s.updMemc f).mram = s.mram := rfl
@[simp] theorem updMemc_lps (f : MemC → MemC) : (s.updMemc f).lps = s.lps := rfl
@[simp] theorem updMemc_lnk (f : MemC → MemC) : (s.updMemc f).lnk = s.lnk := rfl
@[simp] theorem updMemc_tbs (f : MemC → MemC) : (s.updMemc f).tbs = s.tbs := rfl
@[simp] theorem updMemc_thms (f : MemC → MemC) : (s.updMemc f).thms = s.thms := rfl
@[simp] theorem updMemc_cals (f : MemC → MemC) : (s.updMemc f).cals = s.cals := rfl
@[simp] theorem updMemc_irqSent (f : MemC → MemC) : (s.updMemc f).irqSent = s.irqSent := rfl
@[simp] theorem updMemc_irqLatch (f : MemC → MemC) : (s.updMemc f).irqLatch = s.irqLatch := rfl
@[simp] theorem updMemc_irqAt (f : MemC → MemC) : (s.updMemc f).irqAt = s.irqAt := rfl
@[simp] theorem updMemc_cfgAt (f : MemC → MemC) : (s.updMemc f).cfgAt = s.cfgAt := rfl
@[simp] theorem updMemc_holdLog (f : MemC → MemC) : (s.updMemc f).holdLog = s.holdLog := rfl
@[simp] theorem updMemc_dllLog (f : MemC → MemC) : (s.updMemc f).dllLog = s.dllLog := rfl
@[simp] theorem updMemc_jtag (f : MemC → MemC) : (s.updMemc f).jtag = s.jtag := rfl
@[simp] theorem updMemc_free (f : MemC → MemC) : (s.updMemc f).free = s.free := rfl
@[simp] theorem updMemc_outbox (f : MemC → MemC) : (s.updMemc f).outbox = s.outbox := rfl
@[simp] theorem updMemc_reg (f : MemC → MemC) (y : Nat) : (s.updMemc f).reg y = s.reg y := rfl
@[simp] theorem updMemc_rd (f : MemC → MemC) (c : Nat) (g : Fld) : (s.updMemc f).rd c g = s.rd c g := rfl
@[simp] theorem updMemc_stg (f : MemC → MemC) (y : Nat) : (s.updMemc f).stg y = s.stg y := rfl
@[simp] theorem updMemc_tw (f : MemC → MemC) (y : Nat) : (s.updMemc f).tw y = s.tw y := rfl
@[simp] theorem updMemc_chan (f : MemC → MemC) (n : Nat) : (s.updMemc f).chan n = s.chan n := rfl
@[simp] theorem updMemc_skein (f : MemC → MemC) (n : Nat) : (s.updMemc f).skein n = s.skein n := rfl
@[simp] theorem updMemc_slot (f : MemC → MemC) (m n : Nat) : (s.updMemc f).slot m n = s.slot m n := rfl
@[simp] theorem updMemc_eng (f : MemC → MemC) (n : Nat) : (s.updMemc f).eng n = s.eng n := rfl
@[simp] theorem updMemc_vu (f : MemC → MemC) (n : Nat) : (s.updMemc f).vu n = s.vu n := rfl
@[simp] theorem updMemc_dom (f : MemC → MemC) (n : Nat) : (s.updMemc f).dom n = s.dom n := rfl
@[simp] theorem updMemc_strm (f : MemC → MemC) (n : Nat) : (s.updMemc f).strm n = s.strm n := rfl
@[simp] theorem updMemc_port (f : MemC → MemC) (n : Nat) : (s.updMemc f).port n = s.port n := rfl
@[simp] theorem updMemc_pchan (f : MemC → MemC) (n : Nat) : (s.updMemc f).pchan n = s.pchan n := rfl
@[simp] theorem updMemc_dma (f : MemC → MemC) (n : Nat) : (s.updMemc f).dma n = s.dma n := rfl
@[simp] theorem updMemc_hring (f : MemC → MemC) (n : Nat) : (s.updMemc f).hring n = s.hring n := rfl
@[simp] theorem updMemc_lp (f : MemC → MemC) (n : Nat) : (s.updMemc f).lp n = s.lp n := rfl

@[simp] theorem updLnk_phase (f : Lnk → Lnk) : (s.updLnk f).phase = s.phase := rfl
@[simp] theorem updLnk_pending (f : Lnk → Lnk) : (s.updLnk f).pending = s.pending := rfl
@[simp] theorem updLnk_cycle (f : Lnk → Lnk) : (s.updLnk f).cycle = s.cycle := rfl
@[simp] theorem updLnk_coarse (f : Lnk → Lnk) : (s.updLnk f).coarse = s.coarse := rfl
@[simp] theorem updLnk_regs (f : Lnk → Lnk) : (s.updLnk f).regs = s.regs := rfl
@[simp] theorem updLnk_regs0 (f : Lnk → Lnk) : (s.updLnk f).regs0 = s.regs0 := rfl
@[simp] theorem updLnk_raised (f : Lnk → Lnk) : (s.updLnk f).raised = s.raised := rfl
@[simp] theorem updLnk_viewOps (f : Lnk → Lnk) : (s.updLnk f).viewOps = s.viewOps := rfl
@[simp] theorem updLnk_staged (f : Lnk → Lnk) : (s.updLnk f).staged = s.staged := rfl
@[simp] theorem updLnk_staged0 (f : Lnk → Lnk) : (s.updLnk f).staged0 = s.staged0 := rfl
@[simp] theorem updLnk_lowBuf (f : Lnk → Lnk) : (s.updLnk f).lowBuf = s.lowBuf := rfl
@[simp] theorem updLnk_tables (f : Lnk → Lnk) : (s.updLnk f).tables = s.tables := rfl
@[simp] theorem updLnk_unlockAt (f : Lnk → Lnk) : (s.updLnk f).unlockAt = s.unlockAt := rfl
@[simp] theorem updLnk_onceDone (f : Lnk → Lnk) : (s.updLnk f).onceDone = s.onceDone := rfl
@[simp] theorem updLnk_commits (f : Lnk → Lnk) : (s.updLnk f).commits = s.commits := rfl
@[simp] theorem updLnk_chans (f : Lnk → Lnk) : (s.updLnk f).chans = s.chans := rfl
@[simp] theorem updLnk_skeins (f : Lnk → Lnk) : (s.updLnk f).skeins = s.skeins := rfl
@[simp] theorem updLnk_slots (f : Lnk → Lnk) : (s.updLnk f).slots = s.slots := rfl
@[simp] theorem updLnk_engs (f : Lnk → Lnk) : (s.updLnk f).engs = s.engs := rfl
@[simp] theorem updLnk_vus (f : Lnk → Lnk) : (s.updLnk f).vus = s.vus := rfl
@[simp] theorem updLnk_doms (f : Lnk → Lnk) : (s.updLnk f).doms = s.doms := rfl
@[simp] theorem updLnk_condCnt (f : Lnk → Lnk) : (s.updLnk f).condCnt = s.condCnt := rfl
@[simp] theorem updLnk_strms (f : Lnk → Lnk) : (s.updLnk f).strms = s.strms := rfl
@[simp] theorem updLnk_adcQ (f : Lnk → Lnk) : (s.updLnk f).adcQ = s.adcQ := rfl
@[simp] theorem updLnk_ports (f : Lnk → Lnk) : (s.updLnk f).ports = s.ports := rfl
@[simp] theorem updLnk_pcs (f : Lnk → Lnk) : (s.updLnk f).pcs = s.pcs := rfl
@[simp] theorem updLnk_hrings (f : Lnk → Lnk) : (s.updLnk f).hrings = s.hrings := rfl
@[simp] theorem updLnk_hbm (f : Lnk → Lnk) : (s.updLnk f).hbm = s.hbm := rfl
@[simp] theorem updLnk_memc (f : Lnk → Lnk) : (s.updLnk f).memc = s.memc := rfl
@[simp] theorem updLnk_dmas (f : Lnk → Lnk) : (s.updLnk f).dmas = s.dmas := rfl
@[simp] theorem updLnk_mram (f : Lnk → Lnk) : (s.updLnk f).mram = s.mram := rfl
@[simp] theorem updLnk_lps (f : Lnk → Lnk) : (s.updLnk f).lps = s.lps := rfl
@[simp] theorem updLnk_tbs (f : Lnk → Lnk) : (s.updLnk f).tbs = s.tbs := rfl
@[simp] theorem updLnk_thms (f : Lnk → Lnk) : (s.updLnk f).thms = s.thms := rfl
@[simp] theorem updLnk_cals (f : Lnk → Lnk) : (s.updLnk f).cals = s.cals := rfl
@[simp] theorem updLnk_irqSent (f : Lnk → Lnk) : (s.updLnk f).irqSent = s.irqSent := rfl
@[simp] theorem updLnk_irqLatch (f : Lnk → Lnk) : (s.updLnk f).irqLatch = s.irqLatch := rfl
@[simp] theorem updLnk_irqAt (f : Lnk → Lnk) : (s.updLnk f).irqAt = s.irqAt := rfl
@[simp] theorem updLnk_cfgAt (f : Lnk → Lnk) : (s.updLnk f).cfgAt = s.cfgAt := rfl
@[simp] theorem updLnk_holdLog (f : Lnk → Lnk) : (s.updLnk f).holdLog = s.holdLog := rfl
@[simp] theorem updLnk_dllLog (f : Lnk → Lnk) : (s.updLnk f).dllLog = s.dllLog := rfl
@[simp] theorem updLnk_jtag (f : Lnk → Lnk) : (s.updLnk f).jtag = s.jtag := rfl
@[simp] theorem updLnk_free (f : Lnk → Lnk) : (s.updLnk f).free = s.free := rfl
@[simp] theorem updLnk_outbox (f : Lnk → Lnk) : (s.updLnk f).outbox = s.outbox := rfl
@[simp] theorem updLnk_reg (f : Lnk → Lnk) (y : Nat) : (s.updLnk f).reg y = s.reg y := rfl
@[simp] theorem updLnk_rd (f : Lnk → Lnk) (c : Nat) (g : Fld) : (s.updLnk f).rd c g = s.rd c g := rfl
@[simp] theorem updLnk_stg (f : Lnk → Lnk) (y : Nat) : (s.updLnk f).stg y = s.stg y := rfl
@[simp] theorem updLnk_tw (f : Lnk → Lnk) (y : Nat) : (s.updLnk f).tw y = s.tw y := rfl
@[simp] theorem updLnk_chan (f : Lnk → Lnk) (n : Nat) : (s.updLnk f).chan n = s.chan n := rfl
@[simp] theorem updLnk_skein (f : Lnk → Lnk) (n : Nat) : (s.updLnk f).skein n = s.skein n := rfl
@[simp] theorem updLnk_slot (f : Lnk → Lnk) (m n : Nat) : (s.updLnk f).slot m n = s.slot m n := rfl
@[simp] theorem updLnk_eng (f : Lnk → Lnk) (n : Nat) : (s.updLnk f).eng n = s.eng n := rfl
@[simp] theorem updLnk_vu (f : Lnk → Lnk) (n : Nat) : (s.updLnk f).vu n = s.vu n := rfl
@[simp] theorem updLnk_dom (f : Lnk → Lnk) (n : Nat) : (s.updLnk f).dom n = s.dom n := rfl
@[simp] theorem updLnk_strm (f : Lnk → Lnk) (n : Nat) : (s.updLnk f).strm n = s.strm n := rfl
@[simp] theorem updLnk_port (f : Lnk → Lnk) (n : Nat) : (s.updLnk f).port n = s.port n := rfl
@[simp] theorem updLnk_pchan (f : Lnk → Lnk) (n : Nat) : (s.updLnk f).pchan n = s.pchan n := rfl
@[simp] theorem updLnk_dma (f : Lnk → Lnk) (n : Nat) : (s.updLnk f).dma n = s.dma n := rfl
@[simp] theorem updLnk_hring (f : Lnk → Lnk) (n : Nat) : (s.updLnk f).hring n = s.hring n := rfl
@[simp] theorem updLnk_lp (f : Lnk → Lnk) (n : Nat) : (s.updLnk f).lp n = s.lp n := rfl

@[simp] theorem fresh_phase : (s.fresh).phase = s.phase := rfl
@[simp] theorem fresh_pending : (s.fresh).pending = s.pending := rfl
@[simp] theorem fresh_cycle : (s.fresh).cycle = s.cycle := rfl
@[simp] theorem fresh_coarse : (s.fresh).coarse = s.coarse := rfl
@[simp] theorem fresh_regs : (s.fresh).regs = s.regs := rfl
@[simp] theorem fresh_regs0 : (s.fresh).regs0 = s.regs0 := rfl
@[simp] theorem fresh_raised : (s.fresh).raised = s.raised := rfl
@[simp] theorem fresh_viewOps : (s.fresh).viewOps = s.viewOps := rfl
@[simp] theorem fresh_staged : (s.fresh).staged = s.staged := rfl
@[simp] theorem fresh_staged0 : (s.fresh).staged0 = s.staged0 := rfl
@[simp] theorem fresh_lowBuf : (s.fresh).lowBuf = s.lowBuf := rfl
@[simp] theorem fresh_tables : (s.fresh).tables = s.tables := rfl
@[simp] theorem fresh_unlockAt : (s.fresh).unlockAt = s.unlockAt := rfl
@[simp] theorem fresh_onceDone : (s.fresh).onceDone = s.onceDone := rfl
@[simp] theorem fresh_commits : (s.fresh).commits = s.commits := rfl
@[simp] theorem fresh_chans : (s.fresh).chans = s.chans := rfl
@[simp] theorem fresh_skeins : (s.fresh).skeins = s.skeins := rfl
@[simp] theorem fresh_slots : (s.fresh).slots = s.slots := rfl
@[simp] theorem fresh_engs : (s.fresh).engs = s.engs := rfl
@[simp] theorem fresh_vus : (s.fresh).vus = s.vus := rfl
@[simp] theorem fresh_doms : (s.fresh).doms = s.doms := rfl
@[simp] theorem fresh_condCnt : (s.fresh).condCnt = s.condCnt := rfl
@[simp] theorem fresh_strms : (s.fresh).strms = s.strms := rfl
@[simp] theorem fresh_adcQ : (s.fresh).adcQ = s.adcQ := rfl
@[simp] theorem fresh_ports : (s.fresh).ports = s.ports := rfl
@[simp] theorem fresh_pcs : (s.fresh).pcs = s.pcs := rfl
@[simp] theorem fresh_hrings : (s.fresh).hrings = s.hrings := rfl
@[simp] theorem fresh_hbm : (s.fresh).hbm = s.hbm := rfl
@[simp] theorem fresh_memc : (s.fresh).memc = s.memc := rfl
@[simp] theorem fresh_dmas : (s.fresh).dmas = s.dmas := rfl
@[simp] theorem fresh_mram : (s.fresh).mram = s.mram := rfl
@[simp] theorem fresh_lps : (s.fresh).lps = s.lps := rfl
@[simp] theorem fresh_lnk : (s.fresh).lnk = s.lnk := rfl
@[simp] theorem fresh_tbs : (s.fresh).tbs = s.tbs := rfl
@[simp] theorem fresh_thms : (s.fresh).thms = s.thms := rfl
@[simp] theorem fresh_cals : (s.fresh).cals = s.cals := rfl
@[simp] theorem fresh_irqSent : (s.fresh).irqSent = s.irqSent := rfl
@[simp] theorem fresh_irqLatch : (s.fresh).irqLatch = s.irqLatch := rfl
@[simp] theorem fresh_irqAt : (s.fresh).irqAt = s.irqAt := rfl
@[simp] theorem fresh_cfgAt : (s.fresh).cfgAt = s.cfgAt := rfl
@[simp] theorem fresh_holdLog : (s.fresh).holdLog = s.holdLog := rfl
@[simp] theorem fresh_dllLog : (s.fresh).dllLog = s.dllLog := rfl
@[simp] theorem fresh_jtag : (s.fresh).jtag = s.jtag := rfl
@[simp] theorem fresh_outbox : (s.fresh).outbox = s.outbox := rfl
@[simp] theorem fresh_reg (y : Nat) : (s.fresh).reg y = s.reg y := rfl
@[simp] theorem fresh_rd (c : Nat) (g : Fld) : (s.fresh).rd c g = s.rd c g := rfl
@[simp] theorem fresh_stg (y : Nat) : (s.fresh).stg y = s.stg y := rfl
@[simp] theorem fresh_tw (y : Nat) : (s.fresh).tw y = s.tw y := rfl
@[simp] theorem fresh_chan (n : Nat) : (s.fresh).chan n = s.chan n := rfl
@[simp] theorem fresh_skein (n : Nat) : (s.fresh).skein n = s.skein n := rfl
@[simp] theorem fresh_slot (m n : Nat) : (s.fresh).slot m n = s.slot m n := rfl
@[simp] theorem fresh_eng (n : Nat) : (s.fresh).eng n = s.eng n := rfl
@[simp] theorem fresh_vu (n : Nat) : (s.fresh).vu n = s.vu n := rfl
@[simp] theorem fresh_dom (n : Nat) : (s.fresh).dom n = s.dom n := rfl
@[simp] theorem fresh_strm (n : Nat) : (s.fresh).strm n = s.strm n := rfl
@[simp] theorem fresh_port (n : Nat) : (s.fresh).port n = s.port n := rfl
@[simp] theorem fresh_pchan (n : Nat) : (s.fresh).pchan n = s.pchan n := rfl
@[simp] theorem fresh_dma (n : Nat) : (s.fresh).dma n = s.dma n := rfl
@[simp] theorem fresh_hring (n : Nat) : (s.fresh).hring n = s.hring n := rfl
@[simp] theorem fresh_lp (n : Nat) : (s.fresh).lp n = s.lp n := rfl

@[simp] theorem out_phase (o : Out) : (s.out o).phase = s.phase := rfl
@[simp] theorem out_pending (o : Out) : (s.out o).pending = s.pending := rfl
@[simp] theorem out_cycle (o : Out) : (s.out o).cycle = s.cycle := rfl
@[simp] theorem out_coarse (o : Out) : (s.out o).coarse = s.coarse := rfl
@[simp] theorem out_regs (o : Out) : (s.out o).regs = s.regs := rfl
@[simp] theorem out_regs0 (o : Out) : (s.out o).regs0 = s.regs0 := rfl
@[simp] theorem out_raised (o : Out) : (s.out o).raised = s.raised := rfl
@[simp] theorem out_viewOps (o : Out) : (s.out o).viewOps = s.viewOps := rfl
@[simp] theorem out_staged (o : Out) : (s.out o).staged = s.staged := rfl
@[simp] theorem out_staged0 (o : Out) : (s.out o).staged0 = s.staged0 := rfl
@[simp] theorem out_lowBuf (o : Out) : (s.out o).lowBuf = s.lowBuf := rfl
@[simp] theorem out_tables (o : Out) : (s.out o).tables = s.tables := rfl
@[simp] theorem out_unlockAt (o : Out) : (s.out o).unlockAt = s.unlockAt := rfl
@[simp] theorem out_onceDone (o : Out) : (s.out o).onceDone = s.onceDone := rfl
@[simp] theorem out_commits (o : Out) : (s.out o).commits = s.commits := rfl
@[simp] theorem out_chans (o : Out) : (s.out o).chans = s.chans := rfl
@[simp] theorem out_skeins (o : Out) : (s.out o).skeins = s.skeins := rfl
@[simp] theorem out_slots (o : Out) : (s.out o).slots = s.slots := rfl
@[simp] theorem out_engs (o : Out) : (s.out o).engs = s.engs := rfl
@[simp] theorem out_vus (o : Out) : (s.out o).vus = s.vus := rfl
@[simp] theorem out_doms (o : Out) : (s.out o).doms = s.doms := rfl
@[simp] theorem out_condCnt (o : Out) : (s.out o).condCnt = s.condCnt := rfl
@[simp] theorem out_strms (o : Out) : (s.out o).strms = s.strms := rfl
@[simp] theorem out_adcQ (o : Out) : (s.out o).adcQ = s.adcQ := rfl
@[simp] theorem out_ports (o : Out) : (s.out o).ports = s.ports := rfl
@[simp] theorem out_pcs (o : Out) : (s.out o).pcs = s.pcs := rfl
@[simp] theorem out_hrings (o : Out) : (s.out o).hrings = s.hrings := rfl
@[simp] theorem out_hbm (o : Out) : (s.out o).hbm = s.hbm := rfl
@[simp] theorem out_memc (o : Out) : (s.out o).memc = s.memc := rfl
@[simp] theorem out_dmas (o : Out) : (s.out o).dmas = s.dmas := rfl
@[simp] theorem out_mram (o : Out) : (s.out o).mram = s.mram := rfl
@[simp] theorem out_lps (o : Out) : (s.out o).lps = s.lps := rfl
@[simp] theorem out_lnk (o : Out) : (s.out o).lnk = s.lnk := rfl
@[simp] theorem out_tbs (o : Out) : (s.out o).tbs = s.tbs := rfl
@[simp] theorem out_thms (o : Out) : (s.out o).thms = s.thms := rfl
@[simp] theorem out_cals (o : Out) : (s.out o).cals = s.cals := rfl
@[simp] theorem out_irqSent (o : Out) : (s.out o).irqSent = s.irqSent := rfl
@[simp] theorem out_irqLatch (o : Out) : (s.out o).irqLatch = s.irqLatch := rfl
@[simp] theorem out_irqAt (o : Out) : (s.out o).irqAt = s.irqAt := rfl
@[simp] theorem out_cfgAt (o : Out) : (s.out o).cfgAt = s.cfgAt := rfl
@[simp] theorem out_holdLog (o : Out) : (s.out o).holdLog = s.holdLog := rfl
@[simp] theorem out_dllLog (o : Out) : (s.out o).dllLog = s.dllLog := rfl
@[simp] theorem out_jtag (o : Out) : (s.out o).jtag = s.jtag := rfl
@[simp] theorem out_free (o : Out) : (s.out o).free = s.free := rfl
@[simp] theorem out_reg (o : Out) (y : Nat) : (s.out o).reg y = s.reg y := rfl
@[simp] theorem out_rd (o : Out) (c : Nat) (g : Fld) : (s.out o).rd c g = s.rd c g := rfl
@[simp] theorem out_stg (o : Out) (y : Nat) : (s.out o).stg y = s.stg y := rfl
@[simp] theorem out_tw (o : Out) (y : Nat) : (s.out o).tw y = s.tw y := rfl
@[simp] theorem out_chan (o : Out) (n : Nat) : (s.out o).chan n = s.chan n := rfl
@[simp] theorem out_skein (o : Out) (n : Nat) : (s.out o).skein n = s.skein n := rfl
@[simp] theorem out_slot (o : Out) (m n : Nat) : (s.out o).slot m n = s.slot m n := rfl
@[simp] theorem out_eng (o : Out) (n : Nat) : (s.out o).eng n = s.eng n := rfl
@[simp] theorem out_vu (o : Out) (n : Nat) : (s.out o).vu n = s.vu n := rfl
@[simp] theorem out_dom (o : Out) (n : Nat) : (s.out o).dom n = s.dom n := rfl
@[simp] theorem out_strm (o : Out) (n : Nat) : (s.out o).strm n = s.strm n := rfl
@[simp] theorem out_port (o : Out) (n : Nat) : (s.out o).port n = s.port n := rfl
@[simp] theorem out_pchan (o : Out) (n : Nat) : (s.out o).pchan n = s.pchan n := rfl
@[simp] theorem out_dma (o : Out) (n : Nat) : (s.out o).dma n = s.dma n := rfl
@[simp] theorem out_hring (o : Out) (n : Nat) : (s.out o).hring n = s.hring n := rfl
@[simp] theorem out_lp (o : Out) (n : Nat) : (s.out o).lp n = s.lp n := rfl

@[simp] theorem setUnlock_phase (b : Nat) (e : Option Nat) : (s.setUnlock b e).phase = s.phase := rfl
@[simp] theorem setUnlock_pending (b : Nat) (e : Option Nat) : (s.setUnlock b e).pending = s.pending := rfl
@[simp] theorem setUnlock_cycle (b : Nat) (e : Option Nat) : (s.setUnlock b e).cycle = s.cycle := rfl
@[simp] theorem setUnlock_coarse (b : Nat) (e : Option Nat) : (s.setUnlock b e).coarse = s.coarse := rfl
@[simp] theorem setUnlock_regs (b : Nat) (e : Option Nat) : (s.setUnlock b e).regs = s.regs := rfl
@[simp] theorem setUnlock_regs0 (b : Nat) (e : Option Nat) : (s.setUnlock b e).regs0 = s.regs0 := rfl
@[simp] theorem setUnlock_raised (b : Nat) (e : Option Nat) : (s.setUnlock b e).raised = s.raised := rfl
@[simp] theorem setUnlock_viewOps (b : Nat) (e : Option Nat) : (s.setUnlock b e).viewOps = s.viewOps := rfl
@[simp] theorem setUnlock_staged (b : Nat) (e : Option Nat) : (s.setUnlock b e).staged = s.staged := rfl
@[simp] theorem setUnlock_staged0 (b : Nat) (e : Option Nat) : (s.setUnlock b e).staged0 = s.staged0 := rfl
@[simp] theorem setUnlock_lowBuf (b : Nat) (e : Option Nat) : (s.setUnlock b e).lowBuf = s.lowBuf := rfl
@[simp] theorem setUnlock_tables (b : Nat) (e : Option Nat) : (s.setUnlock b e).tables = s.tables := rfl
@[simp] theorem setUnlock_onceDone (b : Nat) (e : Option Nat) : (s.setUnlock b e).onceDone = s.onceDone := rfl
@[simp] theorem setUnlock_commits (b : Nat) (e : Option Nat) : (s.setUnlock b e).commits = s.commits := rfl
@[simp] theorem setUnlock_chans (b : Nat) (e : Option Nat) : (s.setUnlock b e).chans = s.chans := rfl
@[simp] theorem setUnlock_skeins (b : Nat) (e : Option Nat) : (s.setUnlock b e).skeins = s.skeins := rfl
@[simp] theorem setUnlock_slots (b : Nat) (e : Option Nat) : (s.setUnlock b e).slots = s.slots := rfl
@[simp] theorem setUnlock_engs (b : Nat) (e : Option Nat) : (s.setUnlock b e).engs = s.engs := rfl
@[simp] theorem setUnlock_vus (b : Nat) (e : Option Nat) : (s.setUnlock b e).vus = s.vus := rfl
@[simp] theorem setUnlock_doms (b : Nat) (e : Option Nat) : (s.setUnlock b e).doms = s.doms := rfl
@[simp] theorem setUnlock_condCnt (b : Nat) (e : Option Nat) : (s.setUnlock b e).condCnt = s.condCnt := rfl
@[simp] theorem setUnlock_strms (b : Nat) (e : Option Nat) : (s.setUnlock b e).strms = s.strms := rfl
@[simp] theorem setUnlock_adcQ (b : Nat) (e : Option Nat) : (s.setUnlock b e).adcQ = s.adcQ := rfl
@[simp] theorem setUnlock_ports (b : Nat) (e : Option Nat) : (s.setUnlock b e).ports = s.ports := rfl
@[simp] theorem setUnlock_pcs (b : Nat) (e : Option Nat) : (s.setUnlock b e).pcs = s.pcs := rfl
@[simp] theorem setUnlock_hrings (b : Nat) (e : Option Nat) : (s.setUnlock b e).hrings = s.hrings := rfl
@[simp] theorem setUnlock_hbm (b : Nat) (e : Option Nat) : (s.setUnlock b e).hbm = s.hbm := rfl
@[simp] theorem setUnlock_memc (b : Nat) (e : Option Nat) : (s.setUnlock b e).memc = s.memc := rfl
@[simp] theorem setUnlock_dmas (b : Nat) (e : Option Nat) : (s.setUnlock b e).dmas = s.dmas := rfl
@[simp] theorem setUnlock_mram (b : Nat) (e : Option Nat) : (s.setUnlock b e).mram = s.mram := rfl
@[simp] theorem setUnlock_lps (b : Nat) (e : Option Nat) : (s.setUnlock b e).lps = s.lps := rfl
@[simp] theorem setUnlock_lnk (b : Nat) (e : Option Nat) : (s.setUnlock b e).lnk = s.lnk := rfl
@[simp] theorem setUnlock_tbs (b : Nat) (e : Option Nat) : (s.setUnlock b e).tbs = s.tbs := rfl
@[simp] theorem setUnlock_thms (b : Nat) (e : Option Nat) : (s.setUnlock b e).thms = s.thms := rfl
@[simp] theorem setUnlock_cals (b : Nat) (e : Option Nat) : (s.setUnlock b e).cals = s.cals := rfl
@[simp] theorem setUnlock_irqSent (b : Nat) (e : Option Nat) : (s.setUnlock b e).irqSent = s.irqSent := rfl
@[simp] theorem setUnlock_irqLatch (b : Nat) (e : Option Nat) : (s.setUnlock b e).irqLatch = s.irqLatch := rfl
@[simp] theorem setUnlock_irqAt (b : Nat) (e : Option Nat) : (s.setUnlock b e).irqAt = s.irqAt := rfl
@[simp] theorem setUnlock_cfgAt (b : Nat) (e : Option Nat) : (s.setUnlock b e).cfgAt = s.cfgAt := rfl
@[simp] theorem setUnlock_holdLog (b : Nat) (e : Option Nat) : (s.setUnlock b e).holdLog = s.holdLog := rfl
@[simp] theorem setUnlock_dllLog (b : Nat) (e : Option Nat) : (s.setUnlock b e).dllLog = s.dllLog := rfl
@[simp] theorem setUnlock_jtag (b : Nat) (e : Option Nat) : (s.setUnlock b e).jtag = s.jtag := rfl
@[simp] theorem setUnlock_free (b : Nat) (e : Option Nat) : (s.setUnlock b e).free = s.free := rfl
@[simp] theorem setUnlock_outbox (b : Nat) (e : Option Nat) : (s.setUnlock b e).outbox = s.outbox := rfl
@[simp] theorem setUnlock_reg (b : Nat) (e : Option Nat) (y : Nat) : (s.setUnlock b e).reg y = s.reg y := rfl
@[simp] theorem setUnlock_rd (b : Nat) (e : Option Nat) (c : Nat) (g : Fld) : (s.setUnlock b e).rd c g = s.rd c g := rfl
@[simp] theorem setUnlock_stg (b : Nat) (e : Option Nat) (y : Nat) : (s.setUnlock b e).stg y = s.stg y := rfl
@[simp] theorem setUnlock_tw (b : Nat) (e : Option Nat) (y : Nat) : (s.setUnlock b e).tw y = s.tw y := rfl
@[simp] theorem setUnlock_chan (b : Nat) (e : Option Nat) (n : Nat) : (s.setUnlock b e).chan n = s.chan n := rfl
@[simp] theorem setUnlock_skein (b : Nat) (e : Option Nat) (n : Nat) : (s.setUnlock b e).skein n = s.skein n := rfl
@[simp] theorem setUnlock_slot (b : Nat) (e : Option Nat) (m n : Nat) : (s.setUnlock b e).slot m n = s.slot m n := rfl
@[simp] theorem setUnlock_eng (b : Nat) (e : Option Nat) (n : Nat) : (s.setUnlock b e).eng n = s.eng n := rfl
@[simp] theorem setUnlock_vu (b : Nat) (e : Option Nat) (n : Nat) : (s.setUnlock b e).vu n = s.vu n := rfl
@[simp] theorem setUnlock_dom (b : Nat) (e : Option Nat) (n : Nat) : (s.setUnlock b e).dom n = s.dom n := rfl
@[simp] theorem setUnlock_strm (b : Nat) (e : Option Nat) (n : Nat) : (s.setUnlock b e).strm n = s.strm n := rfl
@[simp] theorem setUnlock_port (b : Nat) (e : Option Nat) (n : Nat) : (s.setUnlock b e).port n = s.port n := rfl
@[simp] theorem setUnlock_pchan (b : Nat) (e : Option Nat) (n : Nat) : (s.setUnlock b e).pchan n = s.pchan n := rfl
@[simp] theorem setUnlock_dma (b : Nat) (e : Option Nat) (n : Nat) : (s.setUnlock b e).dma n = s.dma n := rfl
@[simp] theorem setUnlock_hring (b : Nat) (e : Option Nat) (n : Nat) : (s.setUnlock b e).hring n = s.hring n := rfl
@[simp] theorem setUnlock_lp (b : Nat) (e : Option Nat) (n : Nat) : (s.setUnlock b e).lp n = s.lp n := rfl

@[simp] theorem setLow_phase (b : Nat) (v : Option (Nat × BitVec 32)) : (s.setLow b v).phase = s.phase := rfl
@[simp] theorem setLow_pending (b : Nat) (v : Option (Nat × BitVec 32)) : (s.setLow b v).pending = s.pending := rfl
@[simp] theorem setLow_cycle (b : Nat) (v : Option (Nat × BitVec 32)) : (s.setLow b v).cycle = s.cycle := rfl
@[simp] theorem setLow_coarse (b : Nat) (v : Option (Nat × BitVec 32)) : (s.setLow b v).coarse = s.coarse := rfl
@[simp] theorem setLow_regs (b : Nat) (v : Option (Nat × BitVec 32)) : (s.setLow b v).regs = s.regs := rfl
@[simp] theorem setLow_regs0 (b : Nat) (v : Option (Nat × BitVec 32)) : (s.setLow b v).regs0 = s.regs0 := rfl
@[simp] theorem setLow_raised (b : Nat) (v : Option (Nat × BitVec 32)) : (s.setLow b v).raised = s.raised := rfl
@[simp] theorem setLow_viewOps (b : Nat) (v : Option (Nat × BitVec 32)) : (s.setLow b v).viewOps = s.viewOps := rfl
@[simp] theorem setLow_staged (b : Nat) (v : Option (Nat × BitVec 32)) : (s.setLow b v).staged = s.staged := rfl
@[simp] theorem setLow_staged0 (b : Nat) (v : Option (Nat × BitVec 32)) : (s.setLow b v).staged0 = s.staged0 := rfl
@[simp] theorem setLow_tables (b : Nat) (v : Option (Nat × BitVec 32)) : (s.setLow b v).tables = s.tables := rfl
@[simp] theorem setLow_unlockAt (b : Nat) (v : Option (Nat × BitVec 32)) : (s.setLow b v).unlockAt = s.unlockAt := rfl
@[simp] theorem setLow_onceDone (b : Nat) (v : Option (Nat × BitVec 32)) : (s.setLow b v).onceDone = s.onceDone := rfl
@[simp] theorem setLow_commits (b : Nat) (v : Option (Nat × BitVec 32)) : (s.setLow b v).commits = s.commits := rfl
@[simp] theorem setLow_chans (b : Nat) (v : Option (Nat × BitVec 32)) : (s.setLow b v).chans = s.chans := rfl
@[simp] theorem setLow_skeins (b : Nat) (v : Option (Nat × BitVec 32)) : (s.setLow b v).skeins = s.skeins := rfl
@[simp] theorem setLow_slots (b : Nat) (v : Option (Nat × BitVec 32)) : (s.setLow b v).slots = s.slots := rfl
@[simp] theorem setLow_engs (b : Nat) (v : Option (Nat × BitVec 32)) : (s.setLow b v).engs = s.engs := rfl
@[simp] theorem setLow_vus (b : Nat) (v : Option (Nat × BitVec 32)) : (s.setLow b v).vus = s.vus := rfl
@[simp] theorem setLow_doms (b : Nat) (v : Option (Nat × BitVec 32)) : (s.setLow b v).doms = s.doms := rfl
@[simp] theorem setLow_condCnt (b : Nat) (v : Option (Nat × BitVec 32)) : (s.setLow b v).condCnt = s.condCnt := rfl
@[simp] theorem setLow_strms (b : Nat) (v : Option (Nat × BitVec 32)) : (s.setLow b v).strms = s.strms := rfl
@[simp] theorem setLow_adcQ (b : Nat) (v : Option (Nat × BitVec 32)) : (s.setLow b v).adcQ = s.adcQ := rfl
@[simp] theorem setLow_ports (b : Nat) (v : Option (Nat × BitVec 32)) : (s.setLow b v).ports = s.ports := rfl
@[simp] theorem setLow_pcs (b : Nat) (v : Option (Nat × BitVec 32)) : (s.setLow b v).pcs = s.pcs := rfl
@[simp] theorem setLow_hrings (b : Nat) (v : Option (Nat × BitVec 32)) : (s.setLow b v).hrings = s.hrings := rfl
@[simp] theorem setLow_hbm (b : Nat) (v : Option (Nat × BitVec 32)) : (s.setLow b v).hbm = s.hbm := rfl
@[simp] theorem setLow_memc (b : Nat) (v : Option (Nat × BitVec 32)) : (s.setLow b v).memc = s.memc := rfl
@[simp] theorem setLow_dmas (b : Nat) (v : Option (Nat × BitVec 32)) : (s.setLow b v).dmas = s.dmas := rfl
@[simp] theorem setLow_mram (b : Nat) (v : Option (Nat × BitVec 32)) : (s.setLow b v).mram = s.mram := rfl
@[simp] theorem setLow_lps (b : Nat) (v : Option (Nat × BitVec 32)) : (s.setLow b v).lps = s.lps := rfl
@[simp] theorem setLow_lnk (b : Nat) (v : Option (Nat × BitVec 32)) : (s.setLow b v).lnk = s.lnk := rfl
@[simp] theorem setLow_tbs (b : Nat) (v : Option (Nat × BitVec 32)) : (s.setLow b v).tbs = s.tbs := rfl
@[simp] theorem setLow_thms (b : Nat) (v : Option (Nat × BitVec 32)) : (s.setLow b v).thms = s.thms := rfl
@[simp] theorem setLow_cals (b : Nat) (v : Option (Nat × BitVec 32)) : (s.setLow b v).cals = s.cals := rfl
@[simp] theorem setLow_irqSent (b : Nat) (v : Option (Nat × BitVec 32)) : (s.setLow b v).irqSent = s.irqSent := rfl
@[simp] theorem setLow_irqLatch (b : Nat) (v : Option (Nat × BitVec 32)) : (s.setLow b v).irqLatch = s.irqLatch := rfl
@[simp] theorem setLow_irqAt (b : Nat) (v : Option (Nat × BitVec 32)) : (s.setLow b v).irqAt = s.irqAt := rfl
@[simp] theorem setLow_cfgAt (b : Nat) (v : Option (Nat × BitVec 32)) : (s.setLow b v).cfgAt = s.cfgAt := rfl
@[simp] theorem setLow_holdLog (b : Nat) (v : Option (Nat × BitVec 32)) : (s.setLow b v).holdLog = s.holdLog := rfl
@[simp] theorem setLow_dllLog (b : Nat) (v : Option (Nat × BitVec 32)) : (s.setLow b v).dllLog = s.dllLog := rfl
@[simp] theorem setLow_jtag (b : Nat) (v : Option (Nat × BitVec 32)) : (s.setLow b v).jtag = s.jtag := rfl
@[simp] theorem setLow_free (b : Nat) (v : Option (Nat × BitVec 32)) : (s.setLow b v).free = s.free := rfl
@[simp] theorem setLow_outbox (b : Nat) (v : Option (Nat × BitVec 32)) : (s.setLow b v).outbox = s.outbox := rfl
@[simp] theorem setLow_reg (b : Nat) (v : Option (Nat × BitVec 32)) (y : Nat) : (s.setLow b v).reg y = s.reg y := rfl
@[simp] theorem setLow_rd (b : Nat) (v : Option (Nat × BitVec 32)) (c : Nat) (g : Fld) : (s.setLow b v).rd c g = s.rd c g := rfl
@[simp] theorem setLow_stg (b : Nat) (v : Option (Nat × BitVec 32)) (y : Nat) : (s.setLow b v).stg y = s.stg y := rfl
@[simp] theorem setLow_tw (b : Nat) (v : Option (Nat × BitVec 32)) (y : Nat) : (s.setLow b v).tw y = s.tw y := rfl
@[simp] theorem setLow_chan (b : Nat) (v : Option (Nat × BitVec 32)) (n : Nat) : (s.setLow b v).chan n = s.chan n := rfl
@[simp] theorem setLow_skein (b : Nat) (v : Option (Nat × BitVec 32)) (n : Nat) : (s.setLow b v).skein n = s.skein n := rfl
@[simp] theorem setLow_slot (b : Nat) (v : Option (Nat × BitVec 32)) (m n : Nat) : (s.setLow b v).slot m n = s.slot m n := rfl
@[simp] theorem setLow_eng (b : Nat) (v : Option (Nat × BitVec 32)) (n : Nat) : (s.setLow b v).eng n = s.eng n := rfl
@[simp] theorem setLow_vu (b : Nat) (v : Option (Nat × BitVec 32)) (n : Nat) : (s.setLow b v).vu n = s.vu n := rfl
@[simp] theorem setLow_dom (b : Nat) (v : Option (Nat × BitVec 32)) (n : Nat) : (s.setLow b v).dom n = s.dom n := rfl
@[simp] theorem setLow_strm (b : Nat) (v : Option (Nat × BitVec 32)) (n : Nat) : (s.setLow b v).strm n = s.strm n := rfl
@[simp] theorem setLow_port (b : Nat) (v : Option (Nat × BitVec 32)) (n : Nat) : (s.setLow b v).port n = s.port n := rfl
@[simp] theorem setLow_pchan (b : Nat) (v : Option (Nat × BitVec 32)) (n : Nat) : (s.setLow b v).pchan n = s.pchan n := rfl
@[simp] theorem setLow_dma (b : Nat) (v : Option (Nat × BitVec 32)) (n : Nat) : (s.setLow b v).dma n = s.dma n := rfl
@[simp] theorem setLow_hring (b : Nat) (v : Option (Nat × BitVec 32)) (n : Nat) : (s.setLow b v).hring n = s.hring n := rfl
@[simp] theorem setLow_lp (b : Nat) (v : Option (Nat × BitVec 32)) (n : Nat) : (s.setLow b v).lp n = s.lp n := rfl

end Sys2Proof.Machine
end

