-- ==== Sys2Proof/Laws/Ops.lean ====
section
/-! SUPPORT. The laws of the named operations over the state: reads after writes, the loops, and what an access does
before it acts. -/

namespace Sys2Proof.Machine

open Host

variable (s : State)

/-! ### Registers and fields -/

@[simp] theorem reg_setReg_same (x : Nat) (w : Word) : (s.setReg x w).reg x = w := tget_tput_same _ _ _ _

theorem reg_setReg_other (x y : Nat) (w : Word) (h : y ≠ x) : (s.setReg x w).reg y = s.reg y :=
  tget_tput_other _ _ _ _ _ h

theorem reg_setReg (x y : Nat) (w : Word) : (s.setReg x w).reg y = if y = x then w else s.reg y := tget_tput _ _ _ _ _

theorem reg_wr_other (b : Nat) (f : Fld) (v y : Nat) (h : y ≠ b + f.off) : (s.wr b f v).reg y = s.reg y :=
  reg_setReg_other s _ _ _ h

theorem reg_wr_same (b : Nat) (f : Fld) (v : Nat) :
    (s.wr b f v).reg (b + f.off) = fset (s.reg (b + f.off)) f.hi f.lo v := reg_setReg_same s _ _

/-- A field read after it is written holds the low bits of the value. -/
theorem rd_wr_same (b : Nat) (f : Fld) (v : Nat) (h : f.hi < 64) :
    (s.wr b f v).rd b f = v % 2 ^ (f.hi + 1 - f.lo) := by
  unfold State.rd
  rw [reg_wr_same, fget_fset_same _ _ _ _ h]

/-- A field of another register is left alone. -/
theorem rd_wr_reg (b c : Nat) (f g : Fld) (v : Nat) (h : c + g.off ≠ b + f.off) : (s.wr b f v).rd c g = s.rd c g := by
  unfold State.rd
  rw [reg_wr_other s b f v _ h]

/-- Another field of the same register is left alone. -/
theorem rd_wr_field (b c : Nat) (f g : Fld) (v : Nat) (h : g.hi < f.lo ∨ f.hi < g.lo) :
    (s.wr b f v).rd c g = s.rd c g := by
  unfold State.rd State.wr
  rw [reg_setReg]
  split
  · rename_i he; rw [he, fget_fset_other _ _ _ _ _ _ h]
  · rfl

theorem rd_setReg_other (x c : Nat) (w : Word) (g : Fld) (h : c + g.off ≠ x) : (s.setReg x w).rd c g = s.rd c g := by
  unfold State.rd
  rw [reg_setReg_other s _ _ _ h]

theorem rd_lt (b : Nat) (f : Fld) : s.rd b f < 2 ^ (f.hi + 1 - f.lo) := fget_lt _ _ _

theorem inc_eq (b : Nat) (f : Fld) (n : Nat) : s.inc b f n = s.wr b f (s.rd b f + n) := rfl

theorem rd_inc_same (b : Nat) (f : Fld) (n : Nat) (h : f.hi < 64) :
    (s.inc b f n).rd b f = (s.rd b f + n) % 2 ^ (f.hi + 1 - f.lo) := rd_wr_same s b f _ h

@[simp] theorem stg_setStg_same (x : Nat) (w : Word) : (s.setStg x w).stg x = w := tget_tput_same _ _ _ _

theorem stg_setStg_other (x y : Nat) (w : Word) (h : y ≠ x) : (s.setStg x w).stg y = s.stg y :=
  tget_tput_other _ _ _ _ _ h

@[simp] theorem tw_setTw_same (x : Nat) (w : BitVec 32) : (s.setTw x w).tw x = w := tget_tput_same _ _ _ _

theorem tw_setTw_other (x y : Nat) (w : BitVec 32) (h : y ≠ x) : (s.setTw x w).tw y = s.tw y :=
  tget_tput_other _ _ _ _ _ h

@[simp] theorem mramW_setMramW_same (x : Nat) (w : BitVec 32) : (s.setMramW x w).mramW x = w := tget_tput_same _ _ _ _

theorem mramW_setMramW_other (x y : Nat) (w : BitVec 32) (h : y ≠ x) : (s.setMramW x w).mramW y = s.mramW y :=
  tget_tput_other _ _ _ _ _ h

/-- Bytes of MRAM read after the store of a word that is not among them. -/
theorem mramBytes_setMramW (x a n : Nat) (w : BitVec 32) (h : ∀ i, i < n / 4 → a + 4 * i ≠ x) :
    (s.setMramW x w).mramBytes a n = s.mramBytes a n := by
  unfold State.mramBytes
  rw [List.flatMap_def, List.flatMap_def]
  congr 1
  refine List.map_congr_left (fun i hi => ?_)
  rw [mramW_setMramW_other s _ _ _ (h i (List.mem_range.mp hi))]

/-! ### Parts -/

@[simp] theorem chan_setChan_same (i : Nat) (v : Chan) : (s.setChan i v).chan i = v := tget_tput_same _ _ _ _
theorem chan_setChan_other (i j : Nat) (v : Chan) (h : j ≠ i) : (s.setChan i v).chan j = s.chan j := tget_tput_other _ _ _ _ _ h
@[simp] theorem chan_updChan_same (i : Nat) (f : Chan → Chan) : (s.updChan i f).chan i = f (s.chan i) := tget_tput_same _ _ _ _
theorem chan_updChan_other (i j : Nat) (f : Chan → Chan) (h : j ≠ i) : (s.updChan i f).chan j = s.chan j :=
  tget_tput_other _ _ _ _ _ h

@[simp] theorem skein_setSkein_same (i : Nat) (v : Skein) : (s.setSkein i v).skein i = v := tget_tput_same _ _ _ _
theorem skein_setSkein_other (i j : Nat) (v : Skein) (h : j ≠ i) : (s.setSkein i v).skein j = s.skein j := tget_tput_other _ _ _ _ _ h
@[simp] theorem skein_updSkein_same (i : Nat) (f : Skein → Skein) : (s.updSkein i f).skein i = f (s.skein i) := tget_tput_same _ _ _ _
theorem skein_updSkein_other (i j : Nat) (f : Skein → Skein) (h : j ≠ i) : (s.updSkein i f).skein j = s.skein j :=
  tget_tput_other _ _ _ _ _ h

@[simp] theorem eng_setEng_same (i : Nat) (v : Eng) : (s.setEng i v).eng i = v := tget_tput_same _ _ _ _
theorem eng_setEng_other (i j : Nat) (v : Eng) (h : j ≠ i) : (s.setEng i v).eng j = s.eng j := tget_tput_other _ _ _ _ _ h
@[simp] theorem eng_updEng_same (i : Nat) (f : Eng → Eng) : (s.updEng i f).eng i = f (s.eng i) := tget_tput_same _ _ _ _
theorem eng_updEng_other (i j : Nat) (f : Eng → Eng) (h : j ≠ i) : (s.updEng i f).eng j = s.eng j :=
  tget_tput_other _ _ _ _ _ h

@[simp] theorem vu_setVu_same (i : Nat) (v : VU) : (s.setVu i v).vu i = v := tget_tput_same _ _ _ _
theorem vu_setVu_other (i j : Nat) (v : VU) (h : j ≠ i) : (s.setVu i v).vu j = s.vu j := tget_tput_other _ _ _ _ _ h
@[simp] theorem vu_updVu_same (i : Nat) (f : VU → VU) : (s.updVu i f).vu i = f (s.vu i) := tget_tput_same _ _ _ _
theorem vu_updVu_other (i j : Nat) (f : VU → VU) (h : j ≠ i) : (s.updVu i f).vu j = s.vu j :=
  tget_tput_other _ _ _ _ _ h

@[simp] theorem dom_setDom_same (i : Nat) (v : Dom) : (s.setDom i v).dom i = v := tget_tput_same _ _ _ _
theorem dom_setDom_other (i j : Nat) (v : Dom) (h : j ≠ i) : (s.setDom i v).dom j = s.dom j := tget_tput_other _ _ _ _ _ h
@[simp] theorem dom_updDom_same (i : Nat) (f : Dom → Dom) : (s.updDom i f).dom i = f (s.dom i) := tget_tput_same _ _ _ _
theorem dom_updDom_other (i j : Nat) (f : Dom → Dom) (h : j ≠ i) : (s.updDom i f).dom j = s.dom j :=
  tget_tput_other _ _ _ _ _ h

@[simp] theorem strm_setStrm_same (i : Nat) (v : Strm) : (s.setStrm i v).strm i = v := tget_tput_same _ _ _ _
theorem strm_setStrm_other (i j : Nat) (v : Strm) (h : j ≠ i) : (s.setStrm i v).strm j = s.strm j := tget_tput_other _ _ _ _ _ h
@[simp] theorem strm_updStrm_same (i : Nat) (f : Strm → Strm) : (s.updStrm i f).strm i = f (s.strm i) := tget_tput_same _ _ _ _
theorem strm_updStrm_other (i j : Nat) (f : Strm → Strm) (h : j ≠ i) : (s.updStrm i f).strm j = s.strm j :=
  tget_tput_other _ _ _ _ _ h

@[simp] theorem port_updPort_same (i : Nat) (f : MPort → MPort) : (s.updPort i f).port i = f (s.port i) := tget_tput_same _ _ _ _
theorem port_updPort_other (i j : Nat) (f : MPort → MPort) (h : j ≠ i) : (s.updPort i f).port j = s.port j :=
  tget_tput_other _ _ _ _ _ h

@[simp] theorem pchan_updPc_same (i : Nat) (f : PChan → PChan) : (s.updPc i f).pchan i = f (s.pchan i) := tget_tput_same _ _ _ _
theorem pchan_updPc_other (i j : Nat) (f : PChan → PChan) (h : j ≠ i) : (s.updPc i f).pchan j = s.pchan j :=
  tget_tput_other _ _ _ _ _ h

@[simp] theorem dma_updDma_same (i : Nat) (f : Dma → Dma) : (s.updDma i f).dma i = f (s.dma i) := tget_tput_same _ _ _ _
theorem dma_updDma_other (i j : Nat) (f : Dma → Dma) (h : j ≠ i) : (s.updDma i f).dma j = s.dma j :=
  tget_tput_other _ _ _ _ _ h

@[simp] theorem hring_updHring_same (i : Nat) (f : HRing → HRing) : (s.updHring i f).hring i = f (s.hring i) := tget_tput_same _ _ _ _
theorem hring_updHring_other (i j : Nat) (f : HRing → HRing) (h : j ≠ i) : (s.updHring i f).hring j = s.hring j :=
  tget_tput_other _ _ _ _ _ h

@[simp] theorem lp_updLp_same (i : Nat) (f : LPort → LPort) : (s.updLp i f).lp i = f (s.lp i) := tget_tput_same _ _ _ _
theorem lp_updLp_other (i j : Nat) (f : LPort → LPort) (h : j ≠ i) : (s.updLp i f).lp j = s.lp j :=
  tget_tput_other _ _ _ _ _ h

@[simp] theorem slot_updSlot_same (k j : Nat) (f : Slot → Slot) : (s.updSlot k j f).slot k j = f (s.slot k j) :=
  tget_tput_same _ _ _ _
theorem slot_updSlot_other (k j k' j' : Nat) (f : Slot → Slot) (h : 64 * k' + j' ≠ 64 * k + j) :
    (s.updSlot k j f).slot k' j' = s.slot k' j' := tget_tput_other _ _ _ _ _ h

@[simp] theorem updTbs_tbs (f : Tbs → Tbs) : (s.updTbs f).tbs = f s.tbs := rfl
@[simp] theorem updThms_thms (f : Thms → Thms) : (s.updThms f).thms = f s.thms := rfl
@[simp] theorem updCals_cals (f : Cals → Cals) : (s.updCals f).cals = f s.cals := rfl
@[simp] theorem updMemc_memc (f : MemC → MemC) : (s.updMemc f).memc = f s.memc := rfl
@[simp] theorem updLnk_lnk (f : Lnk → Lnk) : (s.updLnk f).lnk = f s.lnk := rfl
@[simp] theorem out_outbox (o : Out) : (s.out o).outbox = o :: s.outbox := rfl
@[simp] theorem fresh_free : s.fresh.free = s.free + 1 := rfl

/-! ### Loops -/

theorem foldl_keeps {α : Type} (P : State → Prop) (f : α → State → State) (h : ∀ a t, P t → P (f a t)) (l : List α)
    (s : State) (hs : P s) : P (l.foldl (fun t a => f a t) s) := by
  induction l generalizing s with
  | nil => exact hs
  | cons a l ih => exact ih (f a s) (h a s hs)

/-- What each pass of a loop keeps, the loop keeps. -/
theorem forN_keeps (P : State → Prop) (n : Nat) (f : Nat → State → State) (h : ∀ i t, P t → P (f i t)) (s : State)
    (hs : P s) : P (forN n f s) := foldl_keeps P f h _ s hs

theorem forL_keeps {α : Type} (P : State → Prop) (l : List α) (f : α → State → State) (h : ∀ a t, P t → P (f a t))
    (s : State) (hs : P s) : P (forL l f s) := foldl_keeps P f h l s hs

/-- A part that every pass of a loop leaves alone, the loop leaves alone. -/
theorem forN_same {β : Type} (g : State → β) (n : Nat) (f : Nat → State → State) (h : ∀ i t, g (f i t) = g t) (s : State) :
    g (forN n f s) = g s := forN_keeps (fun t => g t = g s) n f (fun i t ht => (h i t).trans ht) s rfl

theorem forL_same {α β : Type} (g : State → β) (l : List α) (f : α → State → State) (h : ∀ a t, g (f a t) = g t)
    (s : State) : g (forL l f s) = g s := forL_keeps (fun t => g t = g s) l f (fun a t ht => (h a t).trans ht) s rfl

/-! ### Running and accessing -/

/-- While the device runs, a command's effect is its state change. -/
theorem act_running (f : State → State) (h : s.phase = .running) : act s f = .next (f s) := by
  unfold act; rw [h]

/-- Everything `act` can answer. -/
theorem act_cases (f : State → State) :
    (s.phase = .running ∧ act s f = .next (f s)) ∨ ((s.phase = .held ∨ s.phase = .off) ∧ act s f = .next s) ∨
      (s.phase = .undefined ∧ act s f = .fault .undefinedState) := by
  unfold act
  cases s.phase <;> simp

theorem touch_reg (x y : Nat) : (touch x s).reg y = s.reg y := rfl
theorem touch_rd (x b : Nat) (f : Fld) : (touch x s).rd b f = s.rd b f := rfl
theorem touch_reachable (x y : Nat) : (touch x s).reachable y = s.reachable y := rfl
theorem touch_armed (x : Nat) : (touch x s).armed (blkOf x) = false := by
  unfold State.armed touch
  simp only [State.setLow, State.setUnlock, tget_tput_same]

/-- A command write to a domain that is on acts after it has consumed the unlock and the held low word. -/
theorem cmdAccess_on (x : Nat) (recovery : Bool) (f : State → State) (h : s.reachable x = true) :
    cmdAccess x false recovery f s = f (touch x s) := by
  simp [cmdAccess, h]

/-- A GUARDED command with the unlock armed and no seal acts. -/
theorem cmdAccess_guarded (x : Nat) (recovery : Bool) (f : State → State) (h : s.reachable x = true)
    (ha : s.armed (blkOf x) = true) (hs : s.sealed = false ∨ recovery = true) :
    cmdAccess x true recovery f s = f (touch x s) := by
  rcases hs with hs | hs <;> simp [cmdAccess, h, ha, hs]

/-- A GUARDED command without the unlock is a lock violation and nothing else. -/
theorem cmdAccess_locked (x : Nat) (recovery : Bool) (f : State → State) (h : s.reachable x = true)
    (ha : s.armed (blkOf x) = false) : cmdAccess x true recovery f s = lockViol x false (touch x s) := by
  simp [cmdAccess, h, ha]

/-- A command write to a domain that is off is dropped. -/
theorem cmdAccess_off (x : Nat) (g recovery : Bool) (f : State → State) (h : s.reachable x = false) :
    cmdAccess x g recovery f s = offDomain (touch x s) := by
  simp [cmdAccess, h]

end Sys2Proof.Machine
end

