-- ==== Sys2Proof/Laws/Engine.lean ====
section
/-! SUPPORT. The laws of what every TYM instruction shares: when it fires, what its fetch leaves alone, its registers and
flags, and the passage to the next instruction. -/

namespace Sys2Proof.Machine

open Host

variable {s t u : State} {k : Nat}

/-! ### Frames -/

theorem EngineFrame.refl (ws : List Nat) (fs : List Fld) (s : State) : EngineFrame k ws fs s s :=
  ⟨fun _ _ => rfl, fun _ _ => rfl, fun _ => rfl, ⟨rfl, rfl⟩, fun _ _ => rfl, ⟨rfl, rfl, rfl, rfl, rfl⟩, ⟨rfl, rfl⟩⟩

theorem EngineFrame.trans {ws : List Nat} {fs : List Fld} (h : EngineFrame k ws fs s t) (g : EngineFrame k ws fs t u) :
    EngineFrame k ws fs s u where
  regs := fun x hx => (g.regs x hx).trans (h.regs x hx)
  estat := fun i hi => (g.estat i hi).trans (h.estat i hi)
  mem := fun l => (g.mem l).trans (h.mem l)
  tables := ⟨g.tables.1.trans h.tables.1, g.tables.2.trans h.tables.2⟩
  engines := fun j hj => (g.engines j hj).trans (h.engines j hj)
  events := ⟨g.events.1.trans h.events.1, g.events.2.1.trans h.events.2.1, g.events.2.2.1.trans h.events.2.2.1,
    g.events.2.2.2.1.trans h.events.2.2.2.1, g.events.2.2.2.2.trans h.events.2.2.2.2⟩
  time := ⟨g.time.1.trans h.time.1, g.time.2.trans h.time.2⟩

/-- A frame that allows less is a frame that allows more. -/
theorem EngineFrame.mono {ws ws' : List Nat} {fs fs' : List Fld} (h : EngineFrame k ws fs s t)
    (hw : ∀ x ∈ ws, x ∈ ws') (hf : ∀ f ∈ fs, f ∈ fs') : EngineFrame k ws' fs' s t where
  regs := fun x hx => h.regs x (fun hm => hx (by
    rcases List.mem_cons.mp hm with rfl | hm
    · exact List.mem_cons_self ..
    · exact List.mem_cons_of_mem _ (hw x hm)))
  estat := fun i hi => h.estat i (fun f hm => hi f (hf f hm))
  mem := h.mem
  tables := h.tables
  engines := h.engines
  events := h.events
  time := h.time

/-- A register of the engine other than ESTAT written. -/
theorem frame_setReg (x : Nat) (w : Word) (hx : x ≠ estatOff k) (s : State) : EngineFrame k [x] [] s (s.setReg x w) where
  regs := fun y hy => reg_setReg_other s x y w (fun h => hy (by simp [h]))
  estat := fun i _ => by rw [reg_setReg_other s x _ w (Ne.symm hx)]
  mem := fun _ => rfl
  tables := ⟨rfl, rfl⟩
  engines := fun _ _ => rfl
  events := ⟨rfl, rfl, rfl, rfl, rfl⟩
  time := ⟨rfl, rfl⟩

/-- A field of ESTAT written. -/
theorem frame_estat (f : Fld) (v : Nat) (hf : f.off = 0x28) (s : State) : EngineFrame k [] [f] s (s.wr (bEng k) f v) where
  regs := fun y hy => reg_wr_other s _ f v y (by rw [hf]; exact fun h => hy (by simp [estatOff, h]))
  estat := fun i hi => by
    have hl := hi f (by simp)
    have he : estatOff k = bEng k + f.off := by rw [hf]; rfl
    rw [he, reg_wr_same, getLsbD_fset]
    by_cases h64 : i < 64
    · have : ¬ (f.lo ≤ i ∧ i ≤ f.hi) := by omega
      simp [h64, this]
    · simp [h64, BitVec.getLsbD_of_ge _ _ (Nat.le_of_not_lt h64)]
  mem := fun _ => rfl
  tables := ⟨rfl, rfl⟩
  engines := fun _ _ => rfl
  events := ⟨rfl, rfl, rfl, rfl, rfl⟩
  time := ⟨rfl, rfl⟩

/-- A change of the engine's own part that leaves its latched events alone. -/
theorem frame_updEng (f : Eng → Eng) (hf : ∀ e, (f e).hitchEv = e.hitchEv ∧ (f e).signalEv = e.signalEv ∧
    (f e).site = e.site ∧ (f e).recQ = e.recQ ∧ (f e).braid = e.braid) (s : State) : EngineFrame k [] [] s (s.updEng k f) where
  regs := fun _ _ => rfl
  estat := fun _ _ => rfl
  mem := fun _ => rfl
  tables := ⟨rfl, rfl⟩
  engines := fun j hj => eng_updEng_other s k j f hj
  events := by rw [eng_updEng_same]; exact hf _
  time := ⟨rfl, rfl⟩

/-! ### The fetch -/

theorem frame_portReq (n a len : Nat) (w : Option (List Byte)) (why : Why) (s : State) :
    EngineFrame k [] [] s (portReq n a len w why s) :=
  ⟨fun _ _ => rfl, fun _ _ => rfl, fun _ => rfl, ⟨rfl, rfl⟩, fun _ _ => rfl, ⟨rfl, rfl, rfl, rfl, rfl⟩, ⟨rfl, rfl⟩⟩

@[simp] theorem portReq_eng (n a len : Nat) (w : Option (List Byte)) (why : Why) (s : State) (j : Nat) :
    (portReq n a len w why s).eng j = s.eng j := rfl

theorem frame_wantLine (line : Nat) (s : State) : EngineFrame k [] [] s (wantLine k line s) := by
  unfold wantLine
  split
  · exact EngineFrame.refl ..
  · exact EngineFrame.trans (t := s.updEng k (fun e => { e with wanted := e.wanted ++ [line] })) (by apply frame_updEng; exact fun _ => ⟨rfl, rfl, rfl, rfl, rfl⟩) (frame_portReq ..)

theorem frame_fetchTouch (s : State) : EngineFrame k [] [] s (fetchTouch k s) := by
  unfold fetchTouch
  split
  · exact EngineFrame.refl ..
  · have h1 : EngineFrame k [] [] s (s.updEng k (fun e => { e with cache := cachePut (s.pc k / 16) e.cache })) :=
      by apply frame_updEng; exact fun _ => ⟨rfl, rfl, rfl, rfl, rfl⟩
    dsimp only
    split
    · exact (h1.trans (by apply frame_updEng; exact fun _ => ⟨rfl, rfl, rfl, rfl, rfl⟩)).trans (frame_wantLine ..)
    · exact h1

@[simp] theorem wantLine_regs (line : Nat) (s : State) : (wantLine k line s).regs = s.regs := by
  unfold wantLine; split <;> rfl

@[simp] theorem fetchTouch_regs (s : State) : (fetchTouch k s).regs = s.regs := by
  unfold fetchTouch; split
  · rfl
  · dsimp only; split
    · rw [wantLine_regs]; rfl
    · rfl

@[simp] theorem fetchTouch_reg (s : State) (x : Nat) : (fetchTouch k s).reg x = s.reg x := by
  unfold State.reg; rw [fetchTouch_regs]

@[simp] theorem fetchTouch_rd (s : State) (b : Nat) (f : Fld) : (fetchTouch k s).rd b f = s.rd b f := by
  unfold State.rd; rw [fetchTouch_reg]

@[simp] theorem fetchTouch_pc (s : State) : (fetchTouch k s).pc k = s.pc k := fetchTouch_rd ..
@[simp] theorem fetchTouch_g (s : State) (r : Nat) : (fetchTouch k s).g k r = s.g k r := fetchTouch_reg ..
@[simp] theorem fetchTouch_lane (s : State) (r i : Nat) : (fetchTouch k s).lane k r i = s.lane k r i := fetchTouch_reg ..
@[simp] theorem fetchTouch_flags (s : State) : (fetchTouch k s).flags k = s.flags k := by
  unfold State.flags; rw [fetchTouch_rd]

/-- The fetch changes nothing of the engine but its cache and what it has asked for. -/
theorem wantLine_eng (line : Nat) (s : State) :
    (wantLine k line s).eng k = { s.eng k with wanted := ((wantLine k line s).eng k).wanted } := by
  unfold wantLine
  split
  · rfl
  · simp only [portReq_eng, eng_updEng_same]

theorem fetchTouch_eng (s : State) :
    (fetchTouch k s).eng k = { s.eng k with
      cache := ((fetchTouch k s).eng k).cache, seen := ((fetchTouch k s).eng k).seen,
      wanted := ((fetchTouch k s).eng k).wanted } := by
  unfold fetchTouch
  split
  · rfl
  · dsimp only
    split
    · rw [wantLine_eng]; simp only [eng_updEng_same]
    · simp only [eng_updEng_same]

@[simp] theorem fetchTouch_rpt (s : State) : ((fetchTouch k s).eng k).rpt = (s.eng k).rpt := by rw [fetchTouch_eng]
@[simp] theorem fetchTouch_calls (s : State) : ((fetchTouch k s).eng k).calls = (s.eng k).calls := by rw [fetchTouch_eng]
@[simp] theorem fetchTouch_loops (s : State) : ((fetchTouch k s).eng k).loops = (s.eng k).loops := by rw [fetchTouch_eng]
@[simp] theorem fetchTouch_busyDst (s : State) : ((fetchTouch k s).eng k).busyDst = (s.eng k).busyDst := by
  rw [fetchTouch_eng]
@[simp] theorem fetchTouch_site (s : State) : ((fetchTouch k s).eng k).site = (s.eng k).site := by rw [fetchTouch_eng]
@[simp] theorem fetchTouch_cycle (s : State) : (fetchTouch k s).cycle = s.cycle := (frame_fetchTouch (k := k) s).time.1
@[simp] theorem fetchTouch_tables (s : State) : (fetchTouch k s).tables = s.tables := (frame_fetchTouch (k := k) s).tables.1

/-- The fetch leaves every part outside the engine and its port alone. -/
theorem wantLine_parts (line : Nat) (s : State) : PartsKept s (wantLine k line s) := by
  unfold wantLine; split <;> exact ⟨rfl, rfl, rfl, rfl, rfl, rfl, rfl, rfl, rfl⟩

theorem fetchTouch_parts (s : State) : PartsKept s (fetchTouch k s) := by
  unfold fetchTouch
  split
  · exact ⟨rfl, rfl, rfl, rfl, rfl, rfl, rfl, rfl, rfl⟩
  · dsimp only
    split
    · exact wantLine_parts (k := k) (s.pc k / 16 + 1) (((s.updEng k _).updEng k _))
    · exact ⟨rfl, rfl, rfl, rfl, rfl, rfl, rfl, rfl, rfl⟩

theorem PartsKept.trans (h : PartsKept s t) (g : PartsKept t u) : PartsKept s u := by
  obtain ⟨a1, a2, a3, a4, a5, a6, a7, a8, a9⟩ := h
  obtain ⟨b1, b2, b3, b4, b5, b6, b7, b8, b9⟩ := g
  exact ⟨b1.trans a1, b2.trans a2, b3.trans a3, b4.trans a4, b5.trans a5, b6.trans a6, b7.trans a7, b8.trans a8,
    b9.trans a9⟩

/-! ### When an instruction fires -/

theorem TymDue.running {o : TymOps} {reads : List Dst} (h : TymDue k o reads s) : s.phase = .running := by
  have := h.1
  unfold State.mayIssue at this
  simp only [Bool.and_eq_true, beq_iff_eq] at this
  exact this.1.1.1.1.1

/-- Where there is room for the next instruction, one that goes on does its work. -/
theorem goesOn_room (f : State → State) {t : State} (h : PcRoom k t) : goesOn k f t = f t := by
  unfold PcRoom at h
  have hne : t.pc k + 1 ≠ 2 ^ 24 := by omega
  unfold goesOn State.lastPc
  rw [decide_eq_false hne, Bool.false_and]
  rfl

/-- An engine that is due an instruction has not stopped in this cycle: what its units do is what they do in any (R426). -/
theorem ownCause_due {o : TymOps} {reads : List Dst} (h : TymDue k o reads s) (f : State → State) : ownCause k f s = f s := by
  have h1 := h.1
  unfold State.mayIssue at h1
  simp only [Bool.and_eq_true, beq_iff_eq, decide_eq_true_eq] at h1
  have h2 : s.engState k = 2 := h1.1.1.1.1.2
  unfold ownCause State.stoppedNow
  simp [h2]

/-- An instruction that is due, stands at PC, and is legal and gated does its work after its fetch: one that controls no
flow where there is room for the next, one that does where no repetition runs. -/
theorem tymStep_fires {op : BitVec 8} {o : TymOps} {reads : List Dst} (h : TymDue k o reads s)
    (hw : s.codeWord k = tymWord op o) (ctl : Bool)
    (hc : (ctl = false ∧ PcRoom k s) ∨ (ctl = true ∧ (s.eng k).rpt = none)) (body : State → State) :
    tymStep k op o reads true ctl true false body s = body (fetchTouch k s) := by
  have hp : PcRoom k s → goesOn k body (fetchTouch k s) = body (fetchTouch k s) := fun hr =>
    goesOn_room body (by unfold PcRoom at *; rwa [fetchTouch_pc])
  rw [tymStep, ownCause_due h]
  unfold tymCore
  rcases hc with ⟨hc, hr⟩ | ⟨hc, hr⟩ <;> simp [h.1, h.2, hw, hc, hr, hp]

/-- One whose condition fails takes one cycle. -/
theorem tymStep_gated {op : BitVec 8} {o : TymOps} {reads : List Dst} (h : TymDue k o reads s)
    (hw : s.codeWord k = tymWord op o) (ctl stall : Bool)
    (hc : ctl = false ∨ (s.eng k).rpt = none) (body : State → State) :
    tymStep k op o reads true ctl false stall body s = advance k 1 (fetchTouch k s) := by
  rw [tymStep, ownCause_due h]
  unfold tymCore
  rcases hc with hc | hc <;> simp [h.1, h.2, hw, hc]

/-! ### Registers, flags and the next instruction -/

@[simp] theorem g_setG_same (r : Nat) (w : Word) (s : State) : (setG k r w s).g k r = w := reg_setReg_same ..

@[simp] theorem setG_eng (r : Nat) (w : Word) (s : State) (j : Nat) : (setG k r w s).eng j = s.eng j := rfl
@[simp] theorem setFlags_eng (f : Flags) (s : State) (j : Nat) : (setFlags k f s).eng j = s.eng j := wr_eng ..

/-- The flags read after they are written. -/
@[simp] theorem flags_setFlags (f : Flags) (s : State) : (setFlags k f s).flags k = f := by
  unfold State.flags setFlags
  rw [rd_wr_same _ _ _ _ (by decide)]
  obtain ⟨z, n, c, v⟩ := f
  revert z n c v
  decide

theorem gOff_ne_estat (r : Nat) : gOff k r ≠ estatOff k := by unfold gOff estatOff; omega

theorem frame_setG (r : Nat) (w : Word) (s : State) : EngineFrame k [gOff k r] [] s (setG k r w s) :=
  frame_setReg _ w (gOff_ne_estat r) s

theorem frame_setFlags (f : Flags) (s : State) : EngineFrame k [] [F.Eng.ESTAT.FLAGS] s (setFlags k f s) :=
  frame_estat _ _ rfl s

theorem frame_readyNow (ds : List Dst) (s : State) : EngineFrame k [] [] s (readyNow k ds s) :=
  by apply frame_updEng; exact fun _ => ⟨rfl, rfl, rfl, rfl, rfl⟩

theorem frame_busyUntil (ds : List Dst) (t : Nat) (s : State) : EngineFrame k [] [] s (busyUntil k ds t s) :=
  by apply frame_updEng; exact fun _ => ⟨rfl, rfl, rfl, rfl, rfl⟩

@[simp] theorem setPc_eng (v : Nat) (s : State) (j : Nat) : (setPc k v s).eng j = s.eng j := wr_eng ..
@[simp] theorem updEng_pc (f : Eng → Eng) (s : State) (j : Nat) : (s.updEng j f).pc k = s.pc k := updEng_rd ..

theorem setPc_pc (v : Nat) (s : State) (hv : v < 2 ^ 24) : (setPc k v s).pc k = v := by
  unfold State.pc setPc
  rw [rd_wr_same _ _ _ _ (by decide)]
  exact Nat.mod_eq_of_lt hv

/-- Where there is room for the next instruction, `advance` either counts a repetition or moves PC on. -/
theorem advance_eq (cost : Nat) (s : State) (h : PcRoom k s) :
    advance k cost s =
      (if 2 ≤ (s.eng k).rpt.getD 1 then
        (s.updEng k (fun e => { e with nextAt := s.cycle + cost })).updEng k
          (fun e => { e with rpt := some ((s.eng k).rpt.getD 1 - 1) })
       else setPc k (s.pc k + 1) ((s.updEng k (fun e => { e with nextAt := s.cycle + cost })).updEng k
          (fun e => { e with rpt := none }))) := by
  unfold PcRoom at h
  unfold advance
  have hne' : s.pc k ≠ 16777215 := by omega
  rcases hr : (s.eng k).rpt with _ | _ | _ | n <;> simp [hne']

theorem advance_took (s0 s : State) (h : PcRoom k s) (hc : s.cycle = s0.cycle) (hp : s.pc k = s0.pc k)
    (hr : (s.eng k).rpt = (s0.eng k).rpt) : TookOne k s0 (advance k 1 s) := by
  rw [advance_eq 1 s h]
  unfold TookOne
  rw [← hr, ← hp, ← hc]
  unfold PcRoom at h
  split
  · simp only [eng_updEng_same]
    exact ⟨trivial, by simp only [updEng_pc], trivial⟩
  · refine ⟨?_, setPc_pc _ _ h, ?_⟩
    · simp only [setPc_eng, eng_updEng_same]
    · simp only [setPc_eng, eng_updEng_same]

theorem frame_advance (cost : Nat) (s : State) (h : PcRoom k s) :
    EngineFrame k [] [F.Eng.ESTAT.PC] s (advance k cost s) := by
  rw [advance_eq cost s h]
  have h1 : EngineFrame k [] [F.Eng.ESTAT.PC] s (s.updEng k (fun e => { e with nextAt := s.cycle + cost })) :=
    EngineFrame.mono (ws := []) (fs := []) (by apply frame_updEng; exact fun _ => ⟨rfl, rfl, rfl, rfl, rfl⟩) (by simp) (by simp)
  split
  · exact h1.trans (EngineFrame.mono (ws := []) (fs := []) (by apply frame_updEng; exact fun _ => ⟨rfl, rfl, rfl, rfl, rfl⟩) (by simp) (by simp))
  · exact (h1.trans (EngineFrame.mono (ws := []) (fs := []) (by apply frame_updEng; exact fun _ => ⟨rfl, rfl, rfl, rfl, rfl⟩) (by simp) (by simp))).trans
      (frame_estat _ _ rfl _)

theorem wr_parts (b : Nat) (f : Fld) (v : Nat) (s : State) : PartsKept s (s.wr b f v) :=
  ⟨rfl, rfl, rfl, rfl, rfl, rfl, rfl, rfl, rfl⟩

theorem updEng_parts (f : Eng → Eng) (s : State) : PartsKept s (s.updEng k f) :=
  ⟨rfl, rfl, rfl, rfl, rfl, rfl, rfl, rfl, rfl⟩

theorem advance_parts (cost : Nat) (s : State) (h : PcRoom k s) : PartsKept s (advance k cost s) := by
  rw [advance_eq cost s h]
  split
  · exact (updEng_parts _ s).trans (updEng_parts _ _)
  · exact ((updEng_parts _ s).trans (updEng_parts _ _)).trans (wr_parts ..)

theorem advance_stacks (cost : Nat) (s : State) (h : PcRoom k s) : StacksKept k s (advance k cost s) := by
  rw [advance_eq cost s h]
  unfold StacksKept
  split
  · simp only [eng_updEng_same, and_self]
  · simp only [setPc_eng, eng_updEng_same, and_self]

end Sys2Proof.Machine
end

