-- ==== Sys2Proof/Laws/Memory.lean ====
section
/-! SUPPORT. The laws of the stack's contents: a read after a write, and the canonical form that every memory operation
keeps. -/

namespace Sys2Proof.Machine

open Host

/-! ### One byte -/

theorem put_epoch (h : Hbm) (l : Nat) (b : Byte) (k : Nat) : (h.put l b).epoch k = h.epoch k := by
  unfold Hbm.put; split <;> rfl

theorem put_dflt (h : Hbm) (l : Nat) (b : Byte) : (h.put l b).dflt = h.dflt := by
  funext k; unfold Hbm.dflt; rw [put_epoch]

/-- A byte read after it is written. -/
theorem get_put_same (h : Hbm) (l : Nat) (b : Byte) : (h.put l b).get l = b := by
  unfold Hbm.get
  rw [put_dflt]
  unfold Hbm.put
  split
  · rename_i hz
    simp only [tget_tdel_same, Hbm.dflt, hz.1, hz.2]
  · exact tget_tins_same _ _ _ _ (not_mem_tdel h.cells l)

/-- Every other byte stays. -/
theorem get_put_other (h : Hbm) (l k : Nat) (b : Byte) (hk : k ≠ l) : (h.put l b).get k = h.get k := by
  unfold Hbm.get
  rw [put_dflt]
  unfold Hbm.put
  split
  · exact tget_tdel_other _ _ _ _ hk
  · simp only [tget_tins_other _ _ _ _ _ hk, tget_tdel_other _ _ _ _ hk]

/-! ### The canonical form -/

theorem mem_tdel {α : Type} (l : Nat) (t : Table α) (e : Nat × α) (he : e ∈ tdel l t) : e ∈ t := by
  induction t with
  | nil => exact he
  | cons a t ih =>
    obtain ⟨k, w⟩ := a
    unfold tdel at he
    split at he
    · exact List.mem_cons_of_mem _ (ih he)
    · rcases List.mem_cons.mp he with rfl | he
      · exact List.mem_cons_self ..
      · exact List.mem_cons_of_mem _ (ih he)

theorem mem_tins {α : Type} (l : Nat) (v : α) (t : Table α) (e : Nat × α) (he : e ∈ tins l v t) : e = (l, v) ∨ e ∈ t := by
  induction t with
  | nil => exact Or.inl (by simpa [tins] using he)
  | cons a t ih =>
    obtain ⟨k, w⟩ := a
    unfold tins at he
    split at he
    · rcases List.mem_cons.mp he with rfl | he
      · exact Or.inl rfl
      · exact Or.inr he
    · rcases List.mem_cons.mp he with rfl | he
      · exact Or.inr (List.mem_cons_self ..)
      · rcases ih he with h | h
        · exact Or.inl h
        · exact Or.inr (List.mem_cons_of_mem _ h)

theorem pairwise_tdel {α : Type} (l : Nat) (t : Table α) (h : t.Pairwise (fun a b => a.1 < b.1)) :
    (tdel l t).Pairwise (fun a b => a.1 < b.1) := by
  induction t with
  | nil => exact h
  | cons a t ih =>
    obtain ⟨k, w⟩ := a
    rw [List.pairwise_cons] at h
    unfold tdel
    split
    · exact ih h.2
    · rw [List.pairwise_cons]
      exact ⟨fun e he => h.1 e (mem_tdel l t e he), ih h.2⟩

theorem pairwise_tins {α : Type} (l : Nat) (v : α) (t : Table α) (hn : ∀ e ∈ t, e.1 ≠ l)
    (h : t.Pairwise (fun a b => a.1 < b.1)) : (tins l v t).Pairwise (fun a b => a.1 < b.1) := by
  induction t with
  | nil => simp [tins]
  | cons a t ih =>
    obtain ⟨k, w⟩ := a
    rw [List.pairwise_cons] at h
    have hk : k ≠ l := hn (k, w) (List.mem_cons_self ..)
    unfold tins
    split
    · rename_i hlt
      rw [List.pairwise_cons, List.pairwise_cons]
      refine ⟨fun e he => ?_, h⟩
      rcases List.mem_cons.mp he with rfl | he
      · exact hlt
      · exact Nat.lt_trans hlt (h.1 e he)
    · rename_i hge
      rw [List.pairwise_cons]
      refine ⟨fun e he => ?_, ih (fun e he => hn e (List.mem_cons_of_mem _ he)) h.2⟩
      rcases mem_tins l v t e he with rfl | he
      · exact Nat.lt_of_le_of_ne (Nat.le_of_not_lt hge) hk
      · exact h.1 e he

theorem Hbm.wf_iff (h : Hbm) : h.wf = true ↔
    h.cells.Pairwise (fun a b => a.1 < b.1) ∧ ∀ c ∈ h.cells, h.epoch c.1 = none → c.2 ≠ 0#8 := by
  unfold Hbm.wf
  rw [Bool.and_eq_true, decide_eq_true_iff, List.all_eq_true]
  refine and_congr Iff.rfl (forall_congr' fun c => forall_congr' fun _ => ?_)
  cases h.epoch c.1 <;> simp

/-- A write of one byte keeps the canonical form. -/
theorem put_wf (h : Hbm) (l : Nat) (b : Byte) (hw : h.wf = true) : (h.put l b).wf = true := by
  rw [Hbm.wf_iff] at hw ⊢
  simp only [put_epoch]
  unfold Hbm.put
  split
  · exact ⟨pairwise_tdel l _ hw.1, fun c hc => hw.2 c (mem_tdel l _ c hc)⟩
  · rename_i hz
    refine ⟨pairwise_tins l b _ (not_mem_tdel h.cells l) (pairwise_tdel l _ hw.1), fun c hc he => ?_⟩
    rcases mem_tins l b _ c hc with rfl | hc
    · exact fun hb => hz ⟨he, hb⟩
    · exact hw.2 c (mem_tdel l _ c hc) he

theorem putAll_wf (f : Byte × Nat → Nat) (l : List (Byte × Nat)) (h : Hbm) (hw : h.wf = true) :
    (l.foldl (fun h p => h.put (f p) p.1) h).wf = true := by
  induction l generalizing h with
  | nil => exact hw
  | cons p l ih => exact ih _ (put_wf h _ _ hw)

theorem putAll_get_other (f : Byte × Nat → Nat) (l : List (Byte × Nat)) (h : Hbm) (k : Nat) (hk : ∀ p ∈ l, k ≠ f p) :
    (l.foldl (fun h p => h.put (f p) p.1) h).get k = h.get k := by
  induction l generalizing h with
  | nil => rfl
  | cons p l ih =>
    rw [List.foldl_cons, ih _ (fun q hq => hk q (List.mem_cons_of_mem _ hq)), get_put_other _ _ _ _ (hk p (List.mem_cons_self ..))]

/-- A store keeps the canonical form. -/
theorem memWrite_wf (a : Nat) (bs : List Byte) (s : State) (hw : s.hbm.wf = true) : (memWrite a bs s).hbm.wf = true := by
  have h := putAll_wf (fun p => s.loc (a + p.2)) bs.zipIdx s.hbm hw
  rw [Hbm.wf_iff] at h ⊢
  exact h

/-- Everything a store can do: only the contents change, and of them only the locations of its bytes. -/
theorem memWrite_frame (a : Nat) (bs : List Byte) (s : State) (k : Nat) (hk : ∀ i, i < bs.length → k ≠ s.loc (a + i)) :
    (memWrite a bs s).hbm.get k = s.hbm.get k := by
  have h := putAll_get_other (fun p => s.loc (a + p.2)) bs.zipIdx s.hbm k (fun p hp => by
    have := List.snd_lt_of_mem_zipIdx hp
    exact hk p.2 (by simpa using this))
  exact h

@[simp] theorem memWrite_regs (a : Nat) (bs : List Byte) (s : State) : (memWrite a bs s).regs = s.regs := rfl

/-- The end of the fill leaves an empty, canonical stack. -/
theorem fillDone_wf (s : State) (hw : s.hbm.wf = true) : (fillDone s).hbm.wf = true := by
  unfold fillDone
  split
  · exact hw
  · rfl

/-- The contents at reset are canonical. -/
theorem reset_hbm_wf : State.reset.hbm.wf = true := rfl

end Sys2Proof.Machine
end

