-- ==== Sys2Proof/Laws/Invariant.lean ====
section
/-! SUPPORT. What the named operations do to the canonical form of the stores: each of them keeps it. -/

namespace Sys2Proof.Machine

variable {s t : State}

/-- The canonical form speaks of six fields alone: a state that agrees in them has it too. -/
theorem Inv.congr (h : Inv s) (hr : t.regs = s.regs) (hg : t.staged = s.staged) (ht : t.tables = s.tables)
    (hm : t.mram = s.mram) (hb : t.hbm = s.hbm) (hc : t.coarse = s.coarse) : Inv t :=
  ⟨hr ▸ h.regs, hg ▸ h.staged, ht ▸ h.tables, hm ▸ h.mram, hb ▸ h.stack, hc ▸ h.coarse⟩

theorem Inv.setReg (h : Inv s) (x : Nat) (w : Word) : Inv (s.setReg x w) :=
  ⟨twf_tput _ _ _ _ h.regs, h.staged, h.tables, h.mram, h.stack, h.coarse⟩

theorem Inv.wr (h : Inv s) (b : Nat) (f : Fld) (v : Nat) : Inv (s.wr b f v) := h.setReg _ _

theorem Inv.inc (h : Inv s) (b : Nat) (f : Fld) (n : Nat) : Inv (s.inc b f n) := h.wr _ _ _

theorem Inv.incSat (h : Inv s) (b : Nat) (f : Fld) (n : Nat) : Inv (s.incSat b f n) := h.wr _ _ _

theorem Inv.wrInt (h : Inv s) (b : Nat) (f : Fld) (v : Int) : Inv (s.wrInt b f v) := h.wr _ _ _

theorem Inv.raise (h : Inv s) (b : Nat) (f : Fld) (i : Nat) : Inv (s.raise b f i) :=
  (h.setReg _ _).congr rfl rfl rfl rfl rfl rfl

theorem Inv.clr (h : Inv s) (b : Nat) (f : Fld) : Inv (s.clr b f) := (h.wr b f 0).congr rfl rfl rfl rfl rfl rfl

theorem Inv.flag (h : Inv s) (b : Nat) (f : Fld) (c : Bool) : Inv (s.flag b f c) := by
  unfold State.flag; split
  · exact h.raise _ _ _
  · exact h

theorem Inv.setStg (h : Inv s) (x : Nat) (w : Word) : Inv (s.setStg x w) :=
  ⟨h.regs, twf_tput _ _ _ _ h.staged, h.tables, h.mram, h.stack, h.coarse⟩

theorem Inv.setTw (h : Inv s) (x : Nat) (w : BitVec 32) : Inv (s.setTw x w) :=
  ⟨h.regs, h.staged, twf_tput _ _ _ _ h.tables, h.mram, h.stack, h.coarse⟩

theorem Inv.setMramW (h : Inv s) (x : Nat) (w : BitVec 32) : Inv (s.setMramW x w) :=
  ⟨h.regs, h.staged, h.tables, twf_tput _ _ _ _ h.mram, h.stack, h.coarse⟩

theorem Inv.memWrite (h : Inv s) (a : Nat) (bs : List Byte) : Inv (memWrite a bs s) :=
  ⟨h.regs, h.staged, h.tables, h.mram, memWrite_wf a bs s h.stack, h.coarse⟩

theorem Inv.setTq (h : Inv s) (x v : Nat) : Inv (s.setTq x v) := (h.setTw _ _).setTw _ _

theorem Inv.setBit (h : Inv s) (b : Nat) (f : Fld) (i : Nat) (v : Bool) : Inv (s.setBit b f i v) := h.wr _ _ _

/-- The parts of the device, time, outputs and free values do not enter the canonical form. -/
theorem Inv.updChan (h : Inv s) (i : Nat) (f : Chan → Chan) : Inv (s.updChan i f) := h.congr rfl rfl rfl rfl rfl rfl
theorem Inv.setChan (h : Inv s) (i : Nat) (v : Chan) : Inv (s.setChan i v) := h.congr rfl rfl rfl rfl rfl rfl
theorem Inv.updSkein (h : Inv s) (i : Nat) (f : Skein → Skein) : Inv (s.updSkein i f) := h.congr rfl rfl rfl rfl rfl rfl
theorem Inv.updSlot (h : Inv s) (k j : Nat) (f : Slot → Slot) : Inv (s.updSlot k j f) := h.congr rfl rfl rfl rfl rfl rfl
theorem Inv.updEng (h : Inv s) (i : Nat) (f : Eng → Eng) : Inv (s.updEng i f) := h.congr rfl rfl rfl rfl rfl rfl
theorem Inv.setEng (h : Inv s) (i : Nat) (v : Eng) : Inv (s.setEng i v) := h.congr rfl rfl rfl rfl rfl rfl
theorem Inv.updVu (h : Inv s) (i : Nat) (f : VU → VU) : Inv (s.updVu i f) := h.congr rfl rfl rfl rfl rfl rfl
theorem Inv.setVu (h : Inv s) (i : Nat) (v : VU) : Inv (s.setVu i v) := h.congr rfl rfl rfl rfl rfl rfl
theorem Inv.updDom (h : Inv s) (i : Nat) (f : Dom → Dom) : Inv (s.updDom i f) := h.congr rfl rfl rfl rfl rfl rfl
theorem Inv.updStrm (h : Inv s) (i : Nat) (f : Strm → Strm) : Inv (s.updStrm i f) := h.congr rfl rfl rfl rfl rfl rfl
theorem Inv.updPort (h : Inv s) (i : Nat) (f : MPort → MPort) : Inv (s.updPort i f) := h.congr rfl rfl rfl rfl rfl rfl
theorem Inv.updPc (h : Inv s) (i : Nat) (f : PChan → PChan) : Inv (s.updPc i f) := h.congr rfl rfl rfl rfl rfl rfl
theorem Inv.updDma (h : Inv s) (i : Nat) (f : Dma → Dma) : Inv (s.updDma i f) := h.congr rfl rfl rfl rfl rfl rfl
theorem Inv.updHring (h : Inv s) (i : Nat) (f : HRing → HRing) : Inv (s.updHring i f) := h.congr rfl rfl rfl rfl rfl rfl
theorem Inv.updLp (h : Inv s) (i : Nat) (f : LPort → LPort) : Inv (s.updLp i f) := h.congr rfl rfl rfl rfl rfl rfl
theorem Inv.updLnk (h : Inv s) (f : Lnk → Lnk) : Inv (s.updLnk f) := h.congr rfl rfl rfl rfl rfl rfl
theorem Inv.updTbs (h : Inv s) (f : Tbs → Tbs) : Inv (s.updTbs f) := h.congr rfl rfl rfl rfl rfl rfl
theorem Inv.updThms (h : Inv s) (f : Thms → Thms) : Inv (s.updThms f) := h.congr rfl rfl rfl rfl rfl rfl
theorem Inv.updSens (h : Inv s) (i : Nat) (f : Sens → Sens) : Inv (s.updSens i f) := h.congr rfl rfl rfl rfl rfl rfl
theorem Inv.updCals (h : Inv s) (f : Cals → Cals) : Inv (s.updCals f) := h.congr rfl rfl rfl rfl rfl rfl
theorem Inv.updMemc (h : Inv s) (f : MemC → MemC) : Inv (s.updMemc f) := h.congr rfl rfl rfl rfl rfl rfl
theorem Inv.out (h : Inv s) (o : Out) : Inv (s.out o) := h.congr rfl rfl rfl rfl rfl rfl
theorem Inv.fresh (h : Inv s) : Inv s.fresh := h.congr rfl rfl rfl rfl rfl rfl
theorem Inv.touch (h : Inv s) (x : Nat) : Inv (touch x s) := h.congr rfl rfl rfl rfl rfl rfl

/-- A loop over an index range keeps the canonical form where its body does. -/
theorem Inv.forN (h : Inv s) (n : Nat) (f : Nat → State → State) (hf : ∀ i u, Inv u → Inv (f i u)) :
    Inv (forN n f s) := forN_keeps Inv n f hf s h

/-- A loop over a list keeps the canonical form where its body does. -/
theorem Inv.forL {α : Type} (h : Inv s) (l : List α) (f : α → State → State) (hf : ∀ a u, Inv u → Inv (f a u)) :
    Inv (forL l f s) := forL_keeps Inv l f hf s h

/-- The parts of a table that a domain loses leave the rest in canonical form. -/
theorem twf_tdrop {α : Type} [DecidableEq α] (d : Nat → α) (p : Nat → Bool) (l : Table α) (h : twf d l = true) :
    twf d (tdrop p l) = true := twf_filter _ _ _ h

/-- What `act` answers keeps the canonical form where its function does. -/
theorem Inv.act (h : Inv s) (f : State → State) (hf : ∀ u, Inv u → Inv (f u)) (u : State) (hu : act s f = .next u) :
    Inv u := by
  unfold Sys2Proof.Machine.act at hu
  split at hu <;> simp_all
  · exact hu ▸ hf _ h

end Sys2Proof.Machine
end

