-- ==== Sys2Proof/WellFormed.lean ====
section
/-! DEFINITION. Which commands are well formed: the operands that come from outside lie in the ranges that the manual
gives them. -/

namespace Sys2Proof

/-- A signed value of `w` bits. -/
def inBits (w : Nat) (i : Int) : Bool := decide (-(2 ^ (w - 1) : Nat) ≤ i ∧ i < (2 ^ (w - 1) : Nat))

/-- A packet is 1 to 67 units of 16 bytes long (R306). -/
def PktHdr.wf (h : PktHdr) : Bool := decide (1 ≤ h.len.val ∧ h.len.val ≤ 67)

/-- The kinds of R307. -/
def packetKinds : List Nat :=
  [0x01, 0x10, 0x11, 0x12, 0x20, 0x21, 0x22, 0x23, 0x30, 0x31, 0x40, 0x41, 0x42, 0x43]

/-- A comparator's calibration covers its 8 input pairs and 17 threshold codes (R327, R328). -/
def CmpCal.wf (c : CmpCal) : Bool := c.pairOfs.length == 8 && c.thrErr.length == 17

/-- A read finds each of the 16 words of a unit corrected at most once (R283). -/
def EccObs.wf : EccObs → Bool
  | .corrected words => !words.isEmpty && decide (words.map (·.1)).Nodup
  | _ => true

/-- A command whose operands lie in their ranges: 40 sensors (R344), 24 path monitors (R355), an instant within its
cycle, 16 codes of a vernier, 32 taps (R325), the widths of the packet fields (R307), and a form bit only where a
mnemonic has two opcodes (R167, R171, R191, R200). -/
def Instr.wf : Instr → Bool
  | .porRelease _ _ _ => true
  | .porAssert => true
  | .pwrgood => true
  | .powerDomainOn _ => true
  | .powerGood _ => true
  | .powerDomainOff _ => true
  | .pdenWrite _ _ _ => true
  | .threshWrite _ _ => true
  | .thmSample readings => readings.length == 40
  | .shutdownDomainsOff => true
  | .avsStep slacks vout iout rtemp fails _ => slacks.length == 24 && decide (vout < 2 ^ 16) && decide (iout < 2 ^ 16) && inBits 16 rtemp && decide (fails ≤ 3)
  | .settleTimerExpiry _ _ => true
  | .pmuStart _ _ => true
  | .pmuConversionComplete _ codes _ _ => (List.range 9).any (fun a => codes.length == 2 ^ a) && codes.all (fun c => inBits 19 c)
  | .safeRelease _ _ => true
  | .safeConditionReached _ _ => true
  | .pathSwap _ _ _ => true
  | .edge _ _ _ _ fs => decide (fs < fsPerNs)
  | .vernierConversionComplete _ _ _ => true
  | .vernierUnitRelease _ _ => true
  | .stampDelivery _ => true
  | .cntSnap _ _ => true
  | .cntClr _ => true
  | .dllUpdate _ _ _ => true
  | .vernierWithdraw _ => true
  | .vernierCalComplete _ _ h => h.length == 16
  | .vectorIssue _ => true
  | .driveEvent _ _ => true
  | .compareJudgement _ _ _ _ => true
  | .echoMiss _ _ => true
  | .timedGateBoundary _ _ => true
  | .armedGateClose _ _ => true
  | .deferredClose _ _ => true
  | .waitWindowEnd _ _ => true
  | .pairingTimeout _ _ => true
  | .divideJobStart _ => true
  | .divideJobComplete _ => true
  | .totHistPublish _ _ => true
  | .mauclr _ _ => true
  | .ectlStart _ _ => true
  | .timedStart _ => true
  | .pinLoadComplete _ => true
  | .ectlAbort _ => true
  | .ectlEngreset _ => true
  | .engineRegWrite _ _ _ => true
  | .ehostsigWrite _ _ _ => true
  | .cacheLineFill _ => true
  | .tymNop _ o => !o.form
  | .tymJmp _ o => !o.form
  | .tymJcc _ o => !o.form
  | .tymCall _ o => !o.form
  | .tymRet _ o => !o.form
  | .tymLoop _ o => !o.form
  | .tymEndl _ o => !o.form
  | .tymRpt _ o => !o.form
  | .tymHalt _ o => !o.form
  | .tymWaitt _ o => !o.form
  | .waittExpiry _ => true
  | .tymWaite _ o => !o.form
  | .waiteEvent _ => true
  | .waiteTimeout _ => true
  | .tymSyncb _ o => !o.form
  | .barrierRelease _ => true
  | .drainComplete _ => true
  | .tymAdd _ _ => true
  | .tymSub _ _ => true
  | .tymMul _ _ => true
  | .tymMulh _ _ => true
  | .tymAnd _ _ => true
  | .tymOr _ _ => true
  | .tymXor _ _ => true
  | .tymShl _ _ => true
  | .tymShr _ _ => true
  | .tymCmp _ _ => true
  | .tymMov _ o => !o.form
  | .tymMovi _ o => !o.form
  | .tymLadd _ _ => true
  | .tymLsub _ _ => true
  | .tymLsel _ o => !o.form
  | .tymLcmp _ _ => true
  | .tymLmov _ o => !o.form
  | .tymPset _ o => !o.form
  | .tymPand _ o => !o.form
  | .tymVec _ _ => true
  | .tymVeci _ o => !o.form
  | .tymVsub _ o => !o.form
  | .tymTset _ _ => true
  | .tymLevel _ o => !o.form
  | .tymMatch _ o => !o.form
  | .matchRelease _ => true
  | .tymFailm _ o => !o.form
  | .tymMset _ _ => true
  | .tymGate _ o => !o.form
  | .tymMwait _ o => !o.form
  | .mwaitRelease _ => true
  | .mwaitTimeout _ => true
  | .tymMget _ o => !o.form
  | .tymMgetLane _ o => !o.form
  | .tymMclr _ o => !o.form
  | .tymMark _ o => !o.form
  | .tymEmit _ o => !o.form
  | .tymArm _ o => !o.form
  | .tymFire _ o => !o.form
  | .tymTwait _ o => !o.form
  | .twaitRelease _ => true
  | .twaitTimeout _ => true
  | .tymSignal _ o => !o.form
  | .vqItemAttach _ => true
  | .vectorLineRequest _ => true
  | .vectorLineArrival _ => true
  | .runOpen _ => true
  | .underrun _ => true
  | .tswfire _ => true
  | .dcfgWrite _ _ _ => true
  | .dctlArm _ => true
  | .dctlDisarm _ => true
  | .armreq h _ a _ => h.wf && decide (a < coarseMod)
  | .firePulseEnd _ => true
  | .fireLineEdge _ _ => true
  | .holdoffEnd _ => true
  | .schedArm _ => true
  | .schedDisarm _ => true
  | .rawRecordTimeout _ _ => true
  | .recordCommit _ => true
  | .gapEnd _ => true
  | .rateLevelRise _ => true
  | .rateLevelFall _ => true
  | .recordTransport _ => true
  | .hostRingWrite _ => true
  | .hostRingEntryWrite _ _ _ => true
  | .hostRingIrq _ => true
  | .streamEnable _ => true
  | .streamDisable _ => true
  | .streamDeferredEnable _ => true
  | .sctlSnap _ => true
  | .sctlClr _ => true
  | .memRequestAccept _ => true
  | .activateIssue _ => true
  | .neighbourRefresh _ => true
  | .refresh _ => true
  | .memRequestComplete _ e => e.wf
  | .scrubRead => true
  | .caparError _ => true
  | .bandChange => true
  | .mfreqReq => true
  | .mfreqCancel => true
  | .selfRefreshEntry => true
  | .rateChangeComplete => true
  | .mctlForcefrz => true
  | .mfrzRelease => true
  | .stackReinitComplete => true
  | .mctlSnap => true
  | .mctlCntclr => true
  | .mctlEn => true
  | .memInitComplete => true
  | .memoryFillComplete => true
  | .writePattern => true
  | .readCompare => true
  | .mrw => true
  | .mtrainDone => true
  | .refinMissingEdge _ => true
  | .refinWindowEnd _ _ => true
  | .frequencyReacquired _ => true
  | .slewComplete => true
  | .firstLock => true
  | .freerunTimeout => true
  | .refselWrite _ => true
  | .tbctlAlign => true
  | .tbctlAligncan => true
  | .tbctlSplice => true
  | .tsyncEdge _ => true
  | .coarseLoad => true
  | .epochTick => true
  | .portUp _ credits => credits == [64, 64, 32, 1024]
  | .portDown _ => true
  | .linkctl _ _ _ _ units => decide (units < 2 ^ 16)
  | .rread h _ _ => h.wf
  | .rwrite h _ _ _ => h.wf
  | .rresp h _ _ => h.wf
  | .sched h at52 action _ sender48 => h.wf && decide (at52 < coarseMod) && decide (1 ≤ action ∧ action ≤ 4) && decide (sender48 < ctrMod)
  | .schedHitchCommit => true
  | .signalPacket h _ => h.wf
  | .irqPacket h => h.wf && decide (h.tag.toNat < 64)
  | .streamPacket h _ _ bytes => h.wf && bytes.length == 16 * (h.len.val - 1) && decide (h.tag.toNat < 64)
  | .strack h _ => h.wf && decide (h.tag.toNat < 64)
  | .disc h count _ _ _ => h.wf && decide (count < 2 ^ 7)
  | .fixup h n => h.wf && decide (n < 2 ^ 7)
  | .verify h n p => h.wf && decide (n < 2 ^ 7) && decide (p < 2 ^ 7)
  | .done h n mode => h.wf && decide (n < 2 ^ 7) && decide (mode < 4)
  | .unknownPacket h kind => h.wf && !packetKinds.contains kind.toNat
  | .tunnelAccess _ _ _ _ _ => true
  | .tunnelTimeout => true
  | .breakDeclare _ => true
  | .noheadTimeout => true
  | .lctlRedisc => true
  | .lctlShitch => true
  | .lctlSalign => true
  | .calcmdRun => true
  | .calcmdStore => true
  | .calcmdDeskew => true
  | .calcmdAbort => true
  | .deskewListenEnd _ _ => true
  | .deskewRelisten _ _ => true
  | .deskewPulseEnd _ _ => true
  | .dlcellPass _ h => h.length == 32
  | .dlcellTrimStep _ => true
  | .cmppathCalComplete _ _ ch cl => ch.wf && cl.wf
  | .lvldacTrimStep _ _ _ _ => true
  | .tbpllCal _ _ => true
  | .calTriggeredRun _ => true
  | .mramBlockWritten _ => true
  | .calRecordLoad => true
  | .mramWindowWrite _ _ => true
  | .hitchFire _ => true
  | .hitchApply _ => true
  | .unlockWrite _ _ _ => true
  | .unlockExpiry _ => true
  | .sealWrite _ _ => true
  | .registerWrite _ _ _ => true
  | .cfgCheck => true
  | .voteRepair _ _ _ => true
  | .irqSourceReport _ => true
  | .irqRepeat => true
  | .dmaGo _ => true
  | .dmaAbort _ => true
  | .dmaEnd _ _ => true
  | .pcieHotReset => true
  | .d3hotToD0 => true
  | .extest => true
  | .idcode => true
  | .samplePreload _ => true
  | .clamp => true
  | .highz => true
  | .extestPulse => true
  | .extestTrain => true
  | .bypass => true
  | .illegalOpcode _ _ => true
  | .pinmiss _ => true
  | .blockLockLoss _ _ => true
  | .blockLockRegain _ _ => true
  | .packetCrcError _ => true
  | .pcieLinkUp speed width mps mrrs _ =>
    [1, 2, 3, 4, 5].contains speed && [1, 2, 4, 8, 16].contains width && decide (mps ≤ 2) && decide (mrrs ≤ 5)
  | .supplyLoss => true

end Sys2Proof
end

