-- ==== Sys2Proof/Tests/Slice0.lean ====
section
/-! SUPPORT. Tests: ill-formed commands that WellFormed refuses, words of the encoding of R155 written out by hand, worked
figures of the manual, and for every statement with hypotheses states and operands that meet them. -/

namespace Sys2Proof.Machine.Tests

open Sys2Proof Sys2Proof.Machine Host
set_option Elab.async false

/-! ### States and operands -/

/-- Every power domain on. -/
def allOn (s : State) : State := (s.setReg (bThm + 0x28) (BitVec.allOnes 64)).setReg (bThm + 0x30) 0xffffffff#64

/-- Engine 0 in state `st`, with pinned code. -/
def inState (st : Nat) (s : State) : State := (s.wr (bEng 0) F.Eng.ESTAT.STATE st).wr (bEng 0) F.Eng.ESTAT.PINNED 1

/-- Engine 0 in RUN. -/
def wE : State := inState 2 State.reset

/-- The same in a device with its domains on, in cycle 5000. -/
def wF : State := { allOn wE with cycle := 5000, coarse := 5000 }

/-- Operands: d, a, b in the register form. -/
def ops (d a b : BitVec 4) (imm : BitVec 40) : TymOps := { form := false, cond := 0#4, dst := d, srca := a, srcb := b, imm := imm }

/-- Engine 0 with its stacks and queue changed. -/
def wEng (f : Eng → Eng) : State := wE.updEng 0 f

/-! ### Hypotheses that can be met: TYM instructions -/


/-- Engine 0 with the word of `c` at its PC in its buffer (R150). -/
def hold (c : Instr) (s : State) : State :=
  match tymEncode c with
  | some w => s.updEng 0 (fun e => { e with code := tput (fun _ => 0#64) e.code (s.pc 0) w })
  | none => s

/-- Where that word stands, the instruction is due and what it reads is ready. -/
def Due (c : Fin 32 → TymOps → Instr) (o : TymOps) (reads : List Dst) (s : State) : Prop :=
  Fetched 0 (c 0 o) (hold (c 0 o) s) ∧ TymDue 0 o reads (hold (c 0 o) s)

/-- Engine 0 with a register set. -/
def withG (r : Nat) (w : Word) (s : State) : State := s.setReg (gOff 0 r) w

theorem wit_StepRunsFront : ({ State.reset with pending := [.porAssert] } : State).pending = [.porAssert] := rfl

theorem wit_ScalarArithmeticCompletes : (∀ c ∈ [Instr.tymAdd, .tymSub, .tymAnd, .tymOr, .tymXor, .tymMul, .tymMulh], Due c (ops 1 2 3 0) (arithReads (ops 1 2 3 0)) wE) ∧ PcRoom 0 wE ∧
    arithLegal (ops 1 2 3 0) = true ∧ wE.condOk 0 0#4 = true ∧
    (Due .tymAdd { ops 15 15 0 (-1) with form := true } [.g 15] wE ∧ PcRoom 0 (setPc 0 (2 ^ 24 - 2) wE) ∧
      arithLegal { ops 15 15 0 (-1) with form := true } = true) ∧ (Due .tymCmp (ops 0 2 3 0) [.g 2, .g 3] wE ∧ (ops 0 2 3 0).dst = 0#4) ∧ wE.cycle + 2 < wE.cycle + 3 := by
  unfold Due Fetched TymDue PcRoom; decide +kernel

theorem wit_ShiftCompletes : (∀ c ∈ [Instr.tymShl, .tymShr], Due c (ops 1 2 3 64) (arithReads (ops 1 2 3 64)) wE) ∧ PcRoom 0 wE ∧ wE.condOk 0 0#4 = true ∧
    Due .tymShr { ops 1 2 0 127 with form := true } [.g 2] wE ∧ (127#40).toNat < 128 ∧ (127#40).getLsbD 6 = true ∧
    (63#40).toNat < 128 ∧ (63#40).getLsbD 6 = false ∧ IssuesNow 0 wE ∧ ¬ (128#40).toNat < 128 ∧
    ¬ (65#40 = 0#40 ∨ 65#40 = 64#40) := by
  unfold Due Fetched TymDue PcRoom IssuesNow; decide +kernel

theorem wit_MoveCompletes : PcRoom 0 wE ∧ wE.condOk 0 0#4 = true ∧ Due .tymMov (ops 1 2 0 0) [.g 2] wE ∧
    Due .tymMovi (ops 1 0 0 (-1)) [] wE ∧ (Due .tymMovi (ops 1 1 0 0xffffff) [.g 1] wE ∧ (0xffffff#40).toNat < 2 ^ 24) ∧
    IssuesNow 0 wE ∧ 2 ≤ (2#4).toNat ∧ 2 ^ 24 ≤ (0x1000000#40).toNat := by
  unfold Due Fetched TymDue PcRoom IssuesNow; decide +kernel

theorem wit_LaneArithmeticCompletes : PcRoom 0 wE ∧ wE.laneCondOk 0 0#4 = true ∧
    ((∀ c ∈ [Instr.tymLadd, .tymLsub], Due c (ops 7 1 2 0) (laneReads (ops 7 1 2 0)) wE) ∧ laneLegal (ops 7 1 2 0) = true) ∧
    laneLegal { ops 7 1 0 (-1) with form := true } = true ∧
    (Due .tymLsel (ops 1 2 3 0) [.l 2, .l 3] wE ∧ lselLegal (ops 1 2 3 0) = true) := by
  unfold Due Fetched TymDue PcRoom; decide +kernel

theorem wit_LaneMoveCompletes : PcRoom 0 wE ∧ wE.laneCondOk 0 0#4 = true ∧ wE.condOk 0 0#4 = true ∧
    (∀ o ∈ [ops 1 2 0 0, ops 1 2 0 1, ops 1 2 0 0xf2, ops 1 0 0 3, ops 1 0 0 4, ops 1 0 0 0xffffffff05, ops 1 2 0 6,
      ops 1 2 0 0xf7], Due .tymLmov o (lmovReads o) wE ∧ lmovLegal o = true ∧ o.imm.toNat % 16 < 8) ∧
    IssuesNow 0 wE ∧ 8 ≤ (8#40).toNat % 16 ∧ 0x10#40 &&& ~~~ 0xf#40 ≠ 0#40 := by
  unfold Due Fetched TymDue PcRoom IssuesNow; decide +kernel

theorem wit_PredicateCompletes : PcRoom 0 wE ∧ wE.laneCondOk 0 0#4 = true ∧
    (∀ o ∈ (List.range 8).map (fun i => ops 1 2 3 (BitVec.ofNat 40 (i * 2 ^ 37))),
      Due .tymLcmp o (laneReads o) wE ∧ lcmpLegal o = true ∧ o.imm.toNat / 2 ^ 37 < 8) ∧
    (∀ o ∈ [ops 1 0 0 0xffff0000, ops 1 0 0 0xf0001, ops 1 0 0 4], Due .tymPset o [] wE ∧ psetLegal o = true) ∧
    (∀ o ∈ [ops 0 2 0 2, ops 1 2 0 3], Due .tymPset o [.g 2] wE ∧ psetLegal o = true) ∧
    (∀ o ∈ [ops 1 2 3 0, ops 1 2 3 1, ops 1 2 3 2, ops 0 2 3 3], Due .tymPand o [.p 2, .p 3] wE ∧ pandLegal o = true) ∧
    IssuesNow 0 wE ∧ 5 ≤ (5#40).toNat % 16 ∧ 8 ≤ (8#4).toNat := by
  unfold Due Fetched TymDue PcRoom IssuesNow; decide +kernel

/-- A loop of engine 0 that ends at PC 0. -/
def lp0 (n : Nat) : Loop := { start := 2 ^ 24 - 1, stop := 0, cnt := n }

theorem wit_JumpsComplete : (wE.eng 0).rpt = none ∧ wE.condOk 0 0#4 = true ∧
    ((∀ c ∈ [Instr.tymNop, .tymRet], Due c (ops 0 0 0 0) [] wE) ∧ PcRoom 0 wE ∧ bareLegal (ops 0 0 0 0) = true) ∧
    (Due .tymJmp (ops 0 0 0 0xffffff) [] wE ∧ jmpLegal (ops 0 0 0 0xffffff) = true ∧ (0xffffff#40).getLsbD 38 = false) ∧
    (Due .tymJmp (ops 0 2 8 0x4000000000) [.g 2] (wEng (fun e => { e with loops := [lp0 1] })) ∧
      jmpLegal (ops 0 2 8 0x4000000000) = true ∧ ((wEng (fun e => { e with loops := [lp0 1] })).eng 0).loops ≠ []) ∧
    (Due .tymJcc (ops 0 0 0 5) [] wE ∧ jccLegal (ops 0 0 0 5) = true ∧ flagCond (wE.flags 0) 0 = true) ∧
    (jccLegal { ops 0 0 0 5 with cond := 1#4 } = true ∧ flagCond (wE.flags 0) 1 = false) ∧
    (jccLegal { ops 0 0 0 0x1000000005 with cond := 9#4 } = true ∧ wE.p 0 1 = 0) ∧
    (Due .tymCall (ops 0 2 8 0) [.g 2] wE ∧ callLegal (ops 0 2 8 0) = true ∧
      ((wEng (fun e => { e with calls := List.replicate 15 0 })).eng 0).calls.length < 16) ∧
    (wEng (fun e => { e with calls := [2 ^ 24 - 1] })).eng 0 = { (wE.eng 0) with calls := [2 ^ 24 - 1] } := by
  unfold Due Fetched TymDue PcRoom; decide +kernel

theorem wit_LoopsComplete : (wE.eng 0).rpt = none ∧ wE.condOk 0 0#4 = true ∧ PcRoom 0 wE ∧ wE.pc 0 + 2 < 2 ^ 24 ∧
    (Due .tymLoop (ops 0 0 0 0xffff000001) [] wE ∧ loopLegal (ops 0 0 0 0xffff000001) = true ∧
      0 < (0xffff000001#40).toNat / 2 ^ 24 ∧
      ((wEng (fun e => { e with loops := List.replicate 7 (lp0 1) })).eng 0).loops.length < 8) ∧
    (loopLegal (ops 0 0 0 1) = true ∧ (1#40).toNat / 2 ^ 24 = 0) ∧
    (Due .tymLoop (ops 0 2 8 1) [.g 2] wE ∧ loopLegal (ops 0 2 8 1) = true ∧ (wE.g 0 2).toNat % 2 ^ 32 = 0) ∧
    (Due .tymEndl (ops 0 0 0 0) [] (wEng (fun e => { e with loops := [lp0 2] })) ∧ bareLegal (ops 0 0 0 0) = true ∧
      ((wEng (fun e => { e with loops := [lp0 2] })).eng 0).loops = [lp0 2] ∧ (lp0 2).stop = wE.pc 0 ∧ 1 < (lp0 2).cnt ∧
      (lp0 2).start < 2 ^ 24) ∧
    (((wEng (fun e => { e with loops := [lp0 1] })).eng 0).loops = [lp0 1] ∧ (lp0 1).cnt ≤ 1) ∧
    (Due .tymRpt (ops 0 0 0 0xffffffff) [] wE ∧ rptLegal (ops 0 0 0 0xffffffff) = true ∧ 0 < (0xffffffff#40).toNat % 2 ^ 32) ∧
    (rptLegal (ops 0 0 0 0) = true ∧ (0#40).toNat % 2 ^ 32 = 0) := by
  unfold Due Fetched TymDue PcRoom; decide +kernel

theorem wit_WaitsComplete : (wE.eng 0).rpt = none ∧ PcRoom 0 wE ∧ wE.condOk 0 0#4 = true ∧
    (Due .tymHalt (ops 0 0 0 0) [] wE ∧ bareLegal (ops 0 0 0 0) = true) ∧
    (∀ o ∈ [ops 0 0 0 0, ops 0 0 0 1, ops 0 0 0 2, ops 0 0 0 0x7fffffffff], Due .tymWaitt o (ctlReads o) wE ∧
      waittLegal o = true ∧ o.srcb.getLsbD 3 = false) ∧
    (Due .tymWaitt (ops 0 2 8 0) [.g 2] wE ∧ waittLegal (ops 0 2 8 0) = true ∧
      (wE.coarse + 2 ^ 52 - (wE.g 0 2).toNat % 2 ^ 52) % 2 ^ 52 < 2 ^ 51) ∧
    (Due .tymWaitt (ops 0 2 8 0) [.g 2] (withG 2 1 wE) ∧
      2 ^ 51 ≤ ((withG 2 1 wE).coarse + 2 ^ 52 - ((withG 2 1 wE).g 0 2).toNat % 2 ^ 52) % 2 ^ 52) ∧
    (Due .tymWaite (ops 1 0 0 63) [] wE ∧ waiteLegal (ops 1 0 0 63) = true ∧ (63#40).toNat / 2 ^ 16 = 0) ∧
    waiteLegal (ops 1 0 0 0x10001) = true ∧
    (Due .tymSyncb (ops 1 2 0 0x1ffff) [.g 2] wE ∧ syncbLegal (ops 1 2 0 0x1ffff) = true) := by
  unfold Due Fetched TymDue PcRoom; decide +kernel

/-- Engine 0 with 15 entries in its vector queue. -/
def wQ : State := wE.updVu 0 (fun v => { v with vq := List.replicate 15 (.seg 0 1 none) })

theorem wit_QueueInstructionsComplete : PcRoom 0 wQ ∧ (wQ.vu 0).vq.length < 16 ∧ (wQ.vu 0).items.length < 512 ∧
    wQ.condOk 0 0#4 = true ∧ wQ.laneCondOk 0 0#4 = true ∧
    (Due .tymVec (ops 0 1 0 1) [.g 1] wQ ∧ vecLegal (ops 0 1 0 1) = true ∧ 0 < (1#40).toNat % 2 ^ 32) ∧
    (vecLegal (ops 0 1 2 0x8000000001) = true ∧ Due .tymVec (ops 0 1 2 0x8000000001) [.g 1, .g 2] wQ) ∧
    (vecLegal { ops 0 1 2 0 with form := true } = true ∧ (wQ.g 0 2).toNat % 2 ^ 32 = 0) ∧
    (Due .tymVeci (ops 0 1 0 0xffff) [.g 1] wQ ∧ veciLegal (ops 0 1 0 0xffff) = true) ∧
    (Due .tymVsub (ops 0 1 0 0) [.l 1] wQ ∧ vsubLegal (ops 0 1 0 0) = true) ∧
    (Due .tymTset (ops 0 0 0 15) [] wQ ∧ tsetLegal (ops 0 0 0 15) = true ∧ tsetLegal { ops 0 1 0 0 with form := true } = true) ∧
    (levelLegal (ops 0 0 0 7) = true ∧ levelLegal (ops 0 1 0 8) = true ∧ Due .tymLevel (ops 0 1 0 8) [.l 1] wQ) ∧
    (Due .tymFailm (ops 0 1 0 2) [.p 1] wQ ∧ failmLegal (ops 0 1 0 2) = true) ∧ (Due .tymGate (ops 0 1 0 2) [.g 1] wQ ∧ gateLegal (ops 0 1 0 2) = true) ∧
    (Due .tymMark (ops 0 1 0 0x80003fffff) [.g 1] wQ ∧ markLegal (ops 0 1 0 0x80003fffff) = true ∧ (0x80003fffff#40).getLsbD 39 = true) ∧
    (Due .tymFire (ops 0 0 0 0x8000000000) [] wQ ∧ fireLegal (ops 0 0 0 0x8000000000) = true) := by
  unfold Due Fetched TymDue PcRoom; decide +kernel

/-- Engine 0 with a full vector queue, or with 512 items waiting for vectors. -/
def wFq (vq items : Nat) : State :=
  wE.updVu 0 (fun v => { v with vq := List.replicate vq (.seg 0 1 none), items := List.replicate items (0, .fire) })

theorem wit_FullQueueStalls : (wFq 16 0).engState 0 = 2 ∧ (wFq 16 0).phase = .running ∧ (wFq 16 0).lineHere 0 ((wFq 16 0).pc 0) = true ∧
    16 ≤ ((wFq 16 0).vu 0).vq.length ∧ (wFq 15 512).engState 0 = 2 ∧ (wFq 15 512).lineHere 0 ((wFq 15 512).pc 0) = true ∧
    512 ≤ ((wFq 15 512).vu 0).items.length ∧ ((wFq 15 512).vu 0).vq.length < 16 ∧
    (wFq 16 0).condOk 0 0#4 = true ∧ (wFq 16 0).laneCondOk 0 9#4 = true ∧ flagCond ((wFq 16 0).flags 0) 2 = true ∧
    (vecLegal (ops 0 1 0 1) = true ∧ 0 < (1#40).toNat % 2 ^ 32) ∧
    (let s := withG 2 1#64 (wFq 16 0)
     vecLegal { ops 0 1 2 0 with form := true } = true ∧ 0 < (s.g 0 2).toNat % 2 ^ 32) ∧
    veciLegal (ops 0 1 0 0) = true ∧ vsubLegal (ops 0 1 0 0) = true ∧ tsetLegal (ops 0 0 0 0) = true ∧
    levelLegal (ops 0 0 0 0) = true ∧ failmLegal (ops 0 1 0 0) = true ∧ gateLegal (ops 0 1 0 0) = true ∧
    (markLegal (ops 0 1 0 0x8000000000) = true ∧ fireLegal (ops 0 0 0 0x8000000000) = true ∧
      (0x8000000000#40).getLsbD 39 = true) := by
  decide +kernel

theorem wit_MeasureInstructionsComplete : PcRoom 0 wE ∧ wE.condOk 0 0#4 = true ∧ wE.laneCondOk 0 0#4 = true ∧
    (Due .tymMset (ops 0 1 0 (3 * 2 ^ 37 + 63)) [.g 1] wE ∧ msetLegal (ops 0 1 0 (3 * 2 ^ 37 + 63)) = true ∧
      (wE.slot 0 63).opn = none) ∧
    (msetLegal { ops 0 1 2 (4 * 2 ^ 37) with form := true } = true ∧ msetLegal (ops 0 1 0 0) = true ∧
      ((wE.updSlot 0 0 (fun x => { x with opn := some 5 })).slot 0 0).opn ≠ none) ∧
    (Due .tymMget (ops 13 0 0 63) [] wE ∧ mgetLegal (ops 13 0 0 63) = true) ∧
    (Due .tymMgetLane (ops 7 0 7 0x1003f) [] wE ∧ mgetLaneLegal (ops 7 0 7 0x1003f) = true) ∧ (Due .tymMclr (ops 0 1 0 0) [.g 1] wE ∧ mclrLegal (ops 0 1 0 0) = true) ∧
    (wF.phase = .running ∧ wF.reachable (bSk 0 + F.Sk.MAUCLR.off) = true) := by
  unfold Due Fetched TymDue PcRoom; decide +kernel

/-- A device where engine 0 runs, stream 5 is enabled and this device is the master of domain 3. -/
def wS : State := ((wF.wr (bStr 5) F.Trs.SCTL.EN 1).wr (bDom 3) F.Trs.DCFG.MASTER 1).wr (bDom 3) F.Trs.DCFG.EN 1

theorem wit_StreamInstructionsComplete : PcRoom 0 wS ∧ wS.condOk 0 0#4 = true ∧ wS.laneCondOk 0 0#4 = true ∧
    (Due .tymMark (ops 0 1 0 0x5ffff) [.g 1] wS ∧ markLegal (ops 0 1 0 0x5ffff) = true ∧ wS.strOn 5 = true) ∧
    (Due .tymEmit (ops 0 1 1 5) [.l 1, .p 1] wS ∧ emitLegal (ops 0 1 1 5) = true ∧
      ((wS.updEng 0 (fun e => { e with site := List.replicate 16 0x80000000 })).setTw tSiteEn 1#32).sel 0 0#4 ≠ 0 ∧
      (wS.eng 0).recQ.length < 8) ∧
    (wS.sel 0 0#4 = 0 ∧ wS.strOn 6 = false) ∧
    (Due .tymArm (ops 0 1 0 3) [.g 1] wS ∧ armLegal (ops 0 1 0 3) = true ∧ wS.isMaster 3 = true ∧ wS.domState 3 = 0 ∧ (wS.dom 3).hostArm ≠ some wS.cycle ∧
      wS.reached (max (2 ^ 50 % 2 ^ 52) ((wS.coarse + 1000 * wS.rd (bDom 3) F.Trs.DCFG.LEAD) % 2 ^ 52)) = false ∧
      wS.lnk.schedQ.length < 32) ∧
    (Due .tymFire (ops 0 0 0 0) [] wS ∧ fireLegal (ops 0 0 0 0) = true ∧ wS.domOn 87 = true) ∧
    (Due .tymSignal (ops 0 1 0 64) [.g 1] wS ∧ signalLegal (ops 0 1 0 64) = true ∧ signalLegal (ops 0 1 0 127) = true ∧ signalLegal (ops 0 1 0 63) = true ∧
      wS.pos ≠ 63) := by
  unfold Due Fetched TymDue PcRoom; decide +kernel

theorem wit_ResultWaitsComplete : PcRoom 0 wE ∧ (wE.eng 0).rpt = none ∧ wE.laneCondOk 0 0#4 = true ∧
    wE.condOk 0 0#4 = true ∧ (Due .tymMatch (ops 7 0 0 0) [] wE ∧ matchLegal (ops 7 0 0 0) = true) ∧
    (Due .tymMwait (ops 1 2 0 0x10000) [.g 2] wE ∧ mwaitLegal (ops 1 2 0 0x10000) = true ∧ (0x10000#40).toNat / 2 ^ 17 = 0) ∧
    mwaitLegal (ops 1 2 0 0x20000) = true ∧ (Due .tymTwait (ops 1 0 0 3) [] wE ∧ twaitLegal (ops 1 0 0 3) = true) ∧ twaitLegal (ops 1 0 0 0x10003) = true := by
  unfold Due Fetched TymDue PcRoom; decide +kernel

/-- Engine 0 in WAIT for `w`. -/
def wW (w : Wait) : State := { (inState 3 State.reset).updEng 0 (fun e => { e with wait := w }) with cycle := 100 }

theorem wit_WaitsEnd : (wW .halt).phase = .running ∧ (wW .halt).engState 0 = 3 ∧
    (((wW (.waitt 100)).eng 0).wait = .waitt 100 ∧ 100 ≤ (wW (.waitt 100)).cycle) ∧
    (((wW (.waittAt 0)).eng 0).wait = .waittAt 0 ∧ (wW (.waittAt 0)).reached 0 = true) ∧
    ((((wW (.waite 1 4 50 none)).updEng 0 (fun e => { e with hitchEv := true })).events 0 (some 50) &&& 4) ≠ 0) ∧
    ((wW (.waite 1 4 50 (some 100))).events 0 (some 50) &&& 4 = 0) ∧
    ((wW (.mwait 1 0 true none)).eng 0).wait = .mwait 1 0 true none ∧
    (((wW (.mwait 1 1 true none)).updSlot 0 0 (fun x => { x with rdy := true })).slot 0 0).rdy = true ∧
    ((wW (.mwait 1 1 false (some 100))).slot 0 0).rdy = false ∧
    ((wW (.twait 1 0 none (some 5))).eng 0).wait = .twait 1 0 none (some 5) ∧
    ((wW (.twait 1 0 (some 100) none)).eng 0).wait = .twait 1 0 (some 100) none ∧
    ((wW (.match_ 7 1 0)).eng 0).wait = .match_ 7 1 0 ∧ (wW (.match_ 7 1 0)).judgedAt 0 0 ≠ none := by
  decide +kernel

/-! ### Hypotheses that can be met: engines, vectors, pins and time capture -/

/-- Engines 0 and 5 in WAIT, braided, that arrived in cycle 96 with the given waits; the present cycle is 100. -/
def wB (a b : Wait) : State :=
  ((wW a).updEng 0 (fun e => { e with arrived := 96, braid := 33 })).wr (bEng 5) F.Eng.ESTAT.STATE 3 |>.updEng 5
    (fun e => { e with wait := b, arrived := 96, braid := 33 })

theorem wit_BarriersRelease : (wB .halt .halt).phase = .running ∧ (wB .halt .halt).members 0 = [0, 5] ∧
    (∀ j ∈ [0, 5], (wB .halt .halt).engState j = 3) ∧
    (((wB (.syncb 1 0 7 true) (.syncb 2 0 7 true)).eng 0).wait = .syncb 1 0 7 true ∧
      ((wB (.syncb 1 0 7 true) (.syncb 2 0 7 true)).eng 5).wait = .syncb 2 0 7 true) ∧
    (∀ j ∈ [0, 5], ((wB .halt .halt).eng j).wait = .halt ∧ ((wB .halt .halt).eng j).arrived + 4 ≤ (wB .halt .halt).cycle ∧
      ((wB .halt .halt).vu j).vq = [] ∧ ((wB .halt .halt).vu j).items = []) ∧
    (∀ j ∈ [0, 5], ((wB .halt (.syncb 2 0 7 true)).eng j).wait.barrierId ≠ none) ∧
    ((wB .halt (.syncb 2 0 7 true)).eng 0).wait.barrierId ≠ ((wB .halt (.syncb 2 0 7 true)).eng 5).wait.barrierId ∧
    ((inState 4 State.reset).engState 0 = 4 ∧ (inState 4 State.reset).vectorsGone 0 = true ∧
      (inState 4 State.reset).rd (bSk 0) F.Sk.VSTAT.RUN = 0 ∧ ((inState 4 State.reset).vu 0).vq = [] ∧
      ((inState 4 State.reset).vu 0).items = []) ∧ ((inState 4 State.reset).vu 0).lastE = none := by
  decide +kernel

theorem wit_FailedConditionSkips : tymParts (.tymAdd 0 { ops 1 2 3 0 with cond := 1#4 }) = some (0, 0x60#8, { ops 1 2 3 0 with cond := 1#4 }) ∧
    Due .tymAdd { ops 1 2 3 0 with cond := 1#4 } [] wE ∧ PcRoom 0 wE ∧ 0x60#8 ≠ 0x02#8 ∧
    wE.mayIssue 0 [] = true ∧ (wE.eng 0).busyDst = [] ∧ (wE.eng 0).rpt = none ∧ wE.lineHere 0 (wE.pc 0) = true ∧
    wE.pc 0 + 1 < 2 ^ 24 ∧ tymLegal (.tymAdd 0 { ops 1 2 3 0 with cond := 1#4 }) = true ∧ flagCond (wE.flags 0) 1 = false := by
  unfold Due Fetched TymDue PcRoom; decide +kernel

theorem wit_IllegalFieldsFault : tymParts (.tymNop 0 (ops 0 0 0 1)) = some (0, 0x00#8, ops 0 0 0 1) ∧
    Due .tymNop (ops 0 0 0 1) [] wE ∧ Due .tymNop (ops 0 0 0 0) [] (wEng (fun e => { e with rpt := some 1 })) ∧ 0x00 < 0x0c ∧
    (wE.mayIssue 0 [] = true ∧ (wE.eng 0).busyDst = [] ∧ wE.lineHere 0 (wE.pc 0) = true ∧ 0 ∈ wE.members 0) ∧
    tymLegal (.tymNop 0 (ops 0 0 0 1)) = false ∧ tymLegal (.tymNop 0 (ops 0 0 0 0)) = true ∧
    ((wEng (fun e => { e with rpt := some 1 })).mayIssue 0 [] = true ∧
      ((wEng (fun e => { e with rpt := some 1 })).eng 0).rpt ≠ none) := by
  unfold Due Fetched TymDue; decide +kernel

theorem wit_StackFaults : (wE.eng 0).rpt = none ∧ 0 ∈ wE.members 0 ∧ (wE.eng 0).busyDst = [] ∧ wE.mayIssue 0 [] = true ∧
    wE.lineHere 0 (wE.pc 0) = true ∧ wE.condOk 0 0#4 = true ∧
    Due .tymCall (ops 0 0 0 5) [] (wEng (fun e => { e with calls := List.replicate 16 0 })) ∧ Due .tymRet (ops 0 0 0 0) [] wE ∧
    Due .tymLoop (ops 0 0 0 0x1000005) [] (wEng (fun e => { e with loops := List.replicate 8 (lp0 1) })) ∧
    Due .tymEndl (ops 0 0 0 0) [] wE ∧ Due .tymJmp (ops 0 0 0 0x4000000000) [] wE ∧ Due .tymJcc (ops 0 0 0 0x4000000000) [] wE ∧
    (callLegal (ops 0 0 0 5) = true ∧ 16 ≤ ((wEng (fun e => { e with calls := List.replicate 16 0 })).eng 0).calls.length) ∧
    (bareLegal (ops 0 0 0 0) = true ∧ (wE.eng 0).calls = []) ∧
    (loopLegal (ops 0 0 0 0x1000005) = true ∧ 0 < (0x1000005#40).toNat / 2 ^ 24 ∧
      8 ≤ ((wEng (fun e => { e with loops := List.replicate 8 (lp0 1) })).eng 0).loops.length) ∧
    (wE.eng 0).loops = [] ∧
    (jmpLegal (ops 0 0 0 0x4000000000) = true ∧ jccLegal (ops 0 0 0 0x4000000000) = true ∧
      (0x4000000000#40).getLsbD 38 = true) := by
  unfold Due Fetched TymDue; decide +kernel

theorem wit_StackFaults_illegal : wE.condOk 0 0#4 = true ∧
    (let s := wEng (fun e => { e with calls := [2 ^ 24] })
     Due .tymRet (ops 0 0 0 0) [] s ∧ (s.eng 0).calls = [2 ^ 24]) ∧
    (Due .tymLoop (ops 0 0 0 0xffffff) [] wE ∧ loopLegal (ops 0 0 0 0xffffff) = true ∧ (0xffffff#40).toNat / 2 ^ 24 = 0 ∧
      (0xffffff#40).toNat % 2 ^ 24 + 1 = 2 ^ 24) ∧
    (let s := setPc 0 (2 ^ 24 - 1) (wE.updEng 0 (fun e => { e with pinBase := 2 ^ 24 - 8192 }))
     s.pc 0 + 1 = 2 ^ 24 ∧ Due .tymNop (ops 0 0 0 0) [] s ∧ Due .tymMov (ops 1 2 0 0) [.g 2] s ∧ movLegal (ops 1 2 0 0) = true ∧
       Due .tymWaite (ops 1 0 0 63) [] s ∧ waiteLegal (ops 1 0 0 63) = true ∧ Due .tymSyncb (ops 1 2 0 0x1ffff) [.g 2] s ∧
       syncbLegal (ops 1 2 0 0x1ffff) = true ∧ Due .tymWaitt (ops 0 0 0 2) [] s ∧ waittLegal (ops 0 0 0 2) = true ∧
       Due .tymRpt (ops 0 0 0 5) [] s ∧ rptLegal (ops 0 0 0 5) = true ∧ Due .tymMwait (ops 1 2 0 0x10000) [.g 2] s ∧
       mwaitLegal (ops 1 2 0 0x10000) = true) := by
  unfold Due Fetched TymDue; decide +kernel

/-- Engine 0 in state `st` of a device with its domains on, changed by `f`. -/
def wL (st : Nat) (f : Eng → Eng) : State :=
  { allOn (State.reset.wr (bEng 0) F.Eng.ESTAT.STATE st) with cycle := 100 }.updEng 0 f

/-- Engines 0 and 5 idle with the same braid mask, PIN of engine 5 as given. -/
def wBs (pin : Nat) : State :=
  ((allOn State.reset).wr (bEng 0) F.Eng.EBRAID 33).wr (bEng 5) F.Eng.EBRAID 33 |>.wr (bEng 5) F.Eng.ECFG.PIN pin

theorem wit_EngineStartsAndFetches : ((wL 0 id).phase = .running ∧ (wL 0 id).engState 0 = 0 ∧ (wL 0 id).frozen = false ∧
      (wL 0 id).rd (bEng 0) F.Eng.EBRAID = 0 ∧ (wL 0 id).rd (bEng 0) F.Eng.ECFG.PIN = 0 ∧ (wL 0 id).reachable (bEng 0) = true) ∧
    ((wBs 1).phase = .running ∧ (wBs 1).frozen = false ∧ (List.range 32).filter (fun j => (33 : Nat).testBit j) = [0, 5] ∧
      (wBs 1).reachable (bEng 0) = true ∧
      (∀ j ∈ [0, 5], (wBs 1).engState j = 0 ∧ (wBs 1).rd (bEng j) F.Eng.EBRAID = 33 ∧
        (wBs 1).rd (bEng j) F.Eng.ECFG.HGRP = (wBs 1).rd (bEng 0) F.Eng.ECFG.HGRP ∧ (wBs 0).rd (bEng j) F.Eng.ECFG.PIN = 0) ∧
      (∃ j ∈ [0, 5], (wBs 1).rd (bEng j) F.Eng.ECFG.PIN = 1)) ∧
    (let s := wL 1 (fun e => { e with timed := some 0 })
     s.engState 0 = 1 ∧ (s.eng 0).timed = some 0 ∧ (s.eng 0).braid = 0 ∧ (s.eng 0).loading = false ∧
       s.reached (s.rd (bEng 0) F.Eng.ESTART_AT) = true) ∧
    (((wL 1 (fun e => { e with loading := true })).eng 0).loading = true ∧
      ((wL 1 (fun e => { e with loading := true })).eng 0).timed = none ∧
      (wL 1 (fun e => { e with loading := true })).portHas (fetchPort 0) (.pinLoad 0) = false) ∧
    ((wL 5 id).engState 0 = 5 ∧ (wL 6 id).engState 0 = 6 ∧ (wL 6 id).frozen = false) ∧
    (((wL 2 (fun e => { e with wait := .line 35, wanted := [2] })).eng 0).wait = .line 35 ∧
      ((wL 2 (fun e => { e with wait := .line 35, wanted := [2] })).eng 0).wanted = [35 / 16] ∧
      (wL 2 (fun e => { e with wait := .line 35, wanted := [2] })).portHas (fetchPort 0) (.fetchLine 0 (35 / 16)) = false) := by
  decide +kernel

/-- Engine 0 with an open run whose next S is due, and an empty FIFO. -/
def wU : State := (wF.wr (bSk 0) F.Sk.VSTAT.RUN 1).updVu 0 (fun v => { v with nextS := some (5048 * 512) })

theorem wit_EngineFaultEvents : (wF.phase = .running ∧ 0 ∈ wF.members 0 ∧ wF.engRunning 0 = true ∧ wF.reachable (bEng 0) = true) ∧
    ((setPc 0 8192 wE).engState 0 = 2 ∧ ((setPc 0 8192 wE).eng 0).wait = .none ∧ (setPc 0 8192 wE).pinMiss 0 = true ∧
      (setPc 0 8191 wE).pinMiss 0 = false) ∧
    (let s := wEng (fun e => { e with code := [(0, 0x0c00000000000000#64)] })
     s.mayIssue 0 [] = true ∧ s.lineHere 0 (s.pc 0) = true ∧ s.codeWord 0 = 0x0c00000000000000#64 ∧
       tymDecode 0 0x0c00000000000000#64 = none) ∧
    (wU.engRunning 0 = true ∧ wU.vectorDue 0 = some (5048 * 512) ∧ (wU.vu 0).fifo = []) := by
  decide +kernel

theorem wit_HostEngineWritesComplete : (wL 0 id).phase = .running ∧ (wL 0 id).engRunning 0 = false ∧
    (∀ off ∈ [0x100#12, 0x178#12, 0x400#12, 0x7f8#12, 0x180#12, 0x188#12], (wL 0 id).reachable (bEng 0 + off.toNat / 8 * 8) = true ∧
      (wL 2 id).reachable (bEng 0 + off.toNat / 8 * 8) = true ∧ engFile (off.toNat / 8 * 8) ≠ 0) ∧
    0x178 = 0x100 + 8 * 15 ∧ 0x7f8 = 0x400 + 0x80 * 7 + 8 * 15 ∧ 0x188 = 0x180 + 8 * (7 / 4) ∧
    (wL 2 id).engRunning 0 = true ∧ (wL 2 id).reachable (bEng 0 + F.Eng.EHOSTSIG.SIG.off) = true := by
  decide +kernel

/-- A vector of state codes `w`. -/
def vec0 (w : Word) : Vec := { eor := false, ftrg := false, nolatch := false, tsi := 0, state := w }

/-- Engine 0 with one vector `w` in its FIFO. -/
def wV (w : Vec) (s : State) : State :=
  s.updVu 0 (fun v => { v with fifo := [{ line := none, pos := 0, vec := some w, bad := false, at_ := none }] })

/-- Engine 0 with a vector due now and one item waiting for it. -/
def wIt (it : Item) : State := (wV (vec0 1) wU).updVu 0 (fun v => { v with items := [(v.headNo, it)] })

/-- Engine 0 with something to do at an S in the present cycle. -/
def wAt (a : SAct) : State := wF.updVu 0 (fun v => { v with atS := [(5000 * 512 + 5, a)] })

theorem wit_VectorQueueMoves : State.reset.phase = .running ∧
    (((State.reset.updVu 0 (fun v => { v with vq := [.item .fire] })).vu 0).vq = [.item .fire]) ∧
    (((State.reset.updVu 0 (fun v => { v with items := List.replicate 511 (0, .fire) })).vu 0).items.length < 512) ∧
    (((State.reset.updVu 0 (fun v => { v with vq := [.veci (vec0 0)] })).vu 0).vq = [.veci (vec0 0)] ∧
      (List.replicate 4095 (FEnt.mk none 0 none false none)).length < 4096) ∧
    (((State.reset.updVu 0 (fun v => { v with vq := [.seg (2 ^ 40 - 1) (2 ^ 32 - 1) none] })).vu 0).vq =
        [.seg (2 ^ 40 - 1) (2 ^ 32 - 1) none] ∧
      0 < 2 ^ 32 - 1 ∧ 2 ^ 40 - 1 < 2 ^ 40 ∧ (List.replicate 4084 (FEnt.mk none 0 none false none)).length + 12 ≤ 4096) ∧
    ((State.reset.updVu 0 (fun v => { v with lines := [⟨0, 0, some []⟩] })).vu 0).lines = [⟨0, 0, some []⟩] ∧
    (∀ it ∈ [Item.vsub 1 [5#64], .tset 511, .failm 1 1 1 2, .level 1 [7], .gate 1#64 2, .mark 63 5 0#64, .fire],
      (wIt it).members 0 = [0] ∧ (wIt it).stoppedNow 0 = false ∧ (wIt it).vectorDue 0 = some (5048 * 512) ∧
        ((wIt it).vu 0).fifo = [{ line := none, pos := 0, vec := some (vec0 1), bad := false, at_ := none }] ∧
        ((wIt it).vu 0).items = [(((wIt it).vu 0).headNo, it)] ∧ (wIt it).domOn 87 = true) ∧
    (vec0 1).state.toNat / 2 ^ (4 * 0) % 16 ≠ 9 ∧
    (let s := (wAt (.level 1 [7])).updChan 0 (fun h => { h with safe := false })
     (s.vu 0).atS = [(5000 * 512 + 5, .level 1 [7])] ∧ (5000 * 512 + 5) / 512 = s.cycle ∧ (s.chan 0).safe = false ∧
       (s.chan 1).safe = true ∧ (1 : Nat).testBit 0 = true ∧ (1 : Nat).testBit 1 = false ∧ [7][0]? = some 7 ∧
       s.unitSnap (uLevels 0) = none) ∧
    (((wAt (.mark 63 5 0#64)).vu 0).atS = [(5000 * 512 + 5, .mark 63 5 0#64)] ∧
      ((wAt (.mark 63 5 0#64)).wr (bStr 63) F.Trs.SCTL.EN 1).strOn 63 = true) := by
  decide +kernel

/-- Engines 0 and 5 braided, each with vector `w` due. -/
def wVb (w : Vec) : State :=
  let put := fun (k : Nat) (s : State) => ((s.wr (bSk k) F.Sk.VSTAT.RUN 1).wr (bEng k) F.Eng.ESTAT.STATE 2).updEng k (fun e =>
    { e with braid := 33 }) |>.updVu k (fun v => { v with nextS := some (5048 * 512), fifo := [FEnt.mk none 0 (some w) false none] })
  put 5 (put 0 wF)

theorem wit_RunsIssueVectors : wF.phase = .running ∧ wF.stoppedNow 0 = false ∧ wF.members 0 = [0] ∧
    (wV (vec0 0) wF).runReady 0 ((wF.cycle + 48) * 512) = true ∧
    ((wV (vec0 1) wU).vectorDue 0 = some (5048 * 512) ∧ ((wV (vec0 1) wU).vu 0).items = [] ∧ (wV (vec0 1) wU).leader 0 = 0) ∧
    ((wVb (vec0 1)).members 0 = [0, 5] ∧ (wVb (vec0 1)).leader 0 = 0 ∧ (wVb (vec0 1)).vectorDue 0 = some (5048 * 512) ∧
      (wVb (vec0 1)).stoppedNow 0 = false ∧ ∀ j ∈ [0, 5], ((wVb (vec0 1)).vu j).items = [] ∧
        ((wVb (vec0 1)).vu j).fifo = [FEnt.mk none 0 (some (vec0 1)) false none]) ∧
    (({ vec0 1 with eor := true } : Vec).eor = true ∧ (vec0 1).eor = false ∧ (wU.eng 0).draining = false) ∧
    (wU.parkMask 0).testBit 0 = false ∧ ((wU.updChan 0 (fun c => { c with safe := false })).chan 0).safe = false ∧
    ((wU.updChan 0 (fun c => { c with safe := false })).chan 0).evs = [] ∧
    (∀ c ∈ List.range 16, (vec0 (BitVec.ofNat 64 c)).state.toNat / 2 ^ (4 * 0) % 16 = c) ∧
    (∀ f ∈ List.range 5, ((wU.setTq (tTiming + 48) f).timingSet 0 0).fmt = f) := by
  decide +kernel

/-- A compare vector of state `st` with one window that opens and closes at `o`, `c`. -/
def cmp0 (st o c : Nat) : Cmp :=
  { vec := 0, idx := 0, s := 0, final := 512, state := st, w0 := some ⟨o, c, none⟩, w1 := none, latchable := true, ftrg := false, cleared := false }

theorem wit_PlacementEventsComplete :
    (let e := DriveEv.mk (5000 * 512 + 511) 0 0 false .vih none false
     ((wF.updChan 0 (fun c => { c with evs := [e] })).chan 0).evs = [e] ∧ e.at_ < wF.cycle * 512 + 512) ∧
    (((wF.updChan 0 (fun c => { c with cmps := [cmp0 3 100 100] })).chan 0).cmps = [cmp0 3 100 100] ∧
      (cmp0 3 100 100).final ≤ wF.cycle * 512 ∧ (wF.wr (bCh 0) F.Ch.PECFG.CH_EN 1).rd (bCh 0) F.Ch.PECFG.CH_EN = 1 ∧
      wF.rd (bCh 0) F.Ch.PECFG.SETTLE_MASK = 0 ∧
      (wF.wr (bCh 0) F.Ch.PECFG.CH_EN 1).winFate 0 ⟨100, 100, none⟩ = (false, true) ∧
      wF.winFate 0 ⟨100, 100, some (true, true)⟩ = (true, true)) ∧
    (let e : Echo := { x := 5000 * 512 - 129, rising := true, ch := false, cand := none, code := none, got := false }
     ((wF.updChan 0 (fun c => { c with echoes := [e] })).chan 0).echoes = [e] ∧ e.got = false ∧ e.code = none ∧ e.cand = none ∧
       128 < delta e.x wF.nowFt ∧
       (wF.wr (bCh 0) F.Ch.PECFG.CH_EN 1).outstandingCmp 0 e.ch (shiftFt e.x 129) = false) := by
  decide +kernel

theorem wit_PinEventsComplete : wF.phase = .running ∧
    ((wF.wr (bCh 0) F.Ch.PESTAT.SETTLING 1).rd (bCh 0) F.Ch.PESTAT.SETTLING = 1 ∧ (wF.chan 0).settleEnd ≤ wF.cycle * 512) ∧
    (wF.reachable (bCh 0) = true ∧ wF.rd (bCh 0) F.Ch.PESTAT.PMU_BUSY = 0 ∧ wF.domOn 88 = true) ∧
    ((wF.setReg (bThm + 0x30) 0#64).reachable (bCh 0) = true ∧ (wF.setReg (bThm + 0x30) 0#64).domOn 88 = false) ∧
    tget (fun _ => ([] : List (Nat × Nat × Nat))) { wF with adcQ := [(0, [(0, 1, 5000)])] }.adcQ 0 = [(0, 1, 5000)] ∧
    ([(2 : Int), 3].length = 2 ^ 1 ∧ (∀ x ∈ [(2 : Int), 3], 0 ≤ x ∧ x ≤ 262143) ∧ ¬ (∃ x ∈ [(2 : Int), 3], x = 0 ∨ x = 262143)) ∧
    ((wF.wr (bCh 0) F.Ch.PMUCTL.MODE 1).rd (bCh 0) F.Ch.PMUCTL.MODE = 1 ∧ [(-131072 : Int)].length = 2 ^ 0 ∧
      (∀ x ∈ [(-131072 : Int)], -131072 ≤ x ∧ x ≤ 131071)) ∧
    ((wL 0 id).engRunning 0 = false ∧ (wL 0 id).frozen = false ∧ ((wL 0 id).chan 0).safe = true ∧
      (wL 0 id).reachable (bCh 0) = true) ∧ wF.engRunning 0 = true ∧
    ((wF.updChan 0 (fun c => { c with safeBy := some 0 })).chan 0).safeBy ≠ none := by
  decide +kernel

/-- Channel 0 enabled for both slopes of CL, in a device with its domains on. -/
def wC : State := (wF.wr (bCh 0) F.Ch.PECFG.CH_EN 1).wr (bCh 0) F.Ch.CMPCFG.SLOPE_CL 3

theorem wit_EdgesAreAccounted : wC.phase = .running ∧ wC.domOn 0 = true ∧ wC.domOn 32 = true ∧
    (wC.enabledAt 0 (wC.cycle * 512 + 511) = true ∧ wC.slopeSel 0 false true = true) ∧
    (wF.enabledAt 0 (wF.cycle * 512) = false) ∧
    (((wC.updChan 0 (fun c => { c with lastCl := some (5000 * 1000000) })).chan 0).lastCl = some (5000 * 1000000) ∧
      wC.cycle * 1000000 + 197999 < 5000 * 1000000 + 198000) ∧
    ((wC.chan 0).outCl = !true ∧ (∀ u ∈ (wC.skein 0).units, u.busy = none) ∧
      (wC.chan 0).lastCl = none ∧ ∃ u ∈ (wC.skein 0).units, u.st = .inService ∧ u.busy = none ∧ u.freeAt ≤ wC.cycle * 32 ∧
        u.backAt ≤ wC.cycle * 32) ∧
    (let s := wC.updSkein 0 (fun z => { z with units := [{ st := .inCal, outAt := some (5000 * 32) }] })
     ∃ u ∈ (s.skein 0).units, u.outAt = some (5000 * 32)) ∧
    (∀ u ∈ ((wC.updSkein 0 (fun z => { z with units := [] })).skein 0).units, u.st ≠ .inService) := by
  decide +kernel

/-- A stamp of channel 0. -/
def stamp0 : Stamp := { g := 0, ch := false, rising := true, shed := false, t := 16, hold := false, unlk := false }

/-- Skein 0 with unit 0 converting that stamp. -/
def wP : State := wF.updSkein 0 (fun z => { z with units := [{ busy := some stamp0 }], bus := [.stamp stamp0] })

theorem wit_StampsAreDelivered : wP.phase = .running ∧ (wP.skein 0).units[0]? = some { busy := some stamp0 } ∧
    ({ busy := some stamp0 } : VUnit).notices = [] ∧ (wP.skein 0).asm = [] ∧
    (∀ i, i < 1 → i ≠ 0 → (wP.skein 0).units[i]? = none) ∧ (wP.skein 0).units.length = 1 ∧ stamp0.ep = wP.loads ∧ (∀ b ∈ (wP.skein 0).bus, b = .stamp stamp0) ∧ stamp0.g < 512 ∧
    ((wF.skein 0).units[51]? = some ({} : VUnit) ∧ ({} : VUnit).busy = none ∧ ({} : VUnit).freeAt ≤ wF.cycle * 32) ∧
    ((wP.skein 0).bus = [.stamp stamp0] ∧ stamp0.g / 16 < 32 ∧ wP.domOn (32 + stamp0.g / 16) = true) ∧
    (let s := (wP.wr (bSlot 0 63) F.Slot.SCFG.TYPE 1).wr (bSlot 0 63) F.Slot.SCFG.SRCA 0x400
     s.slotLive 0 63 = true ∧ (s.mcfg 0 63).gmode = 0 ∧ srcTakes (s.mcfg 0 63).srcA 0 false true = true ∧
       srcSlope (s.mcfg 0 63).srcA ≠ 0) := by
  decide +kernel

/-- Skein 0 with its lock loop's counts. -/
def wD (lock good bad : Nat) : State :=
  (wF.wr (bSk 0) F.Sk.TCSTAT.DLL_LOCK lock).updSkein 0 (fun z => { z with dllGood := good, dllBad := bad })

theorem wit_CountersAndLockComplete : wF.phase = .running ∧ wF.reachable (bSk 0) = true ∧
    ((wD 0 15 0).domOn 32 = true ∧ ((wD 0 15 0).skein 0).dllNext ≤ (wD 0 15 0).cycle ∧ (wD 0 15 0).dllLock 0 = false ∧
      (2000 : Int).natAbs ≤ 2000 ∧ 15 ≤ ((wD 0 15 0).skein 0).dllGood) ∧
    ((wD 1 0 15).dllLock 0 = true ∧ 4000 < (-4001 : Int).natAbs ∧ 15 ≤ ((wD 1 0 15).skein 0).dllBad) ∧
    (4000 : Int).natAbs ≤ 4000 ∧ 2000 < (2001 : Int).natAbs := by
  decide +kernel


theorem wit_CountersLoopsAndStreamsComplete : wF.phase = .running ∧ PcRoom 0 wF ∧ wF.condOk 0 0#4 = true ∧
    wF.laneCondOk 0 0#4 = true ∧ (wF.eng 0).rpt = none ∧ (wF.eng 0).recQ.length < 8 ∧ (wF.eng 0).loops.length < 8 ∧
    (msetLegal (ops 0 1 0 0) = true ∧ mgetLegal (ops 13 0 0 63) = true ∧ mclrLegal (ops 0 1 0 0) = true ∧
      armLegal (ops 0 1 0 3) = true ∧ signalLegal (ops 0 1 0 64) = true ∧ markLegal (ops 0 1 0 0x5ffff) = true ∧
      (0x5ffff#40).getLsbD 39 = false ∧ fireLegal (ops 0 0 0 0) = true ∧ mgetLaneLegal (ops 7 0 7 0x1003f) = true ∧
      emitLegal (ops 0 1 1 5) = true) ∧
    (loopLegal (ops 0 0 0 0xffff000001) = true ∧ 0 < (0xffff000001#40).toNat / 2 ^ 24 ∧
      rptLegal (ops 0 0 0 0xffffffff) = true ∧ 0 < (0xffffffff#40).toNat % 2 ^ 32) ∧
    (let s := wF.updEng 0 (fun e => { e with loops := [⟨0, 0, 1⟩] })
     Due .tymEndl (ops 0 0 0 0) [] s ∧ bareLegal (ops 0 0 0 0) = true ∧ (s.eng 0).loops = [⟨0, 0, 1⟩] ∧ 0 = s.pc 0) ∧
    wF.reachable (bSk 0) = true ∧ wF.reachable (bSk 0 + F.Sk.MAUCLR.off) = true ∧ (1#64).getLsbD 0 = true ∧
    wF.domOn 32 = true ∧ (wF.skein 0).dllNext ≤ wF.cycle := by
  unfold Due Fetched TymDue PcRoom; decide +kernel

theorem wit_CountersLoopsAndStreams_due :
    (∀ c ∈ [Instr.tymMset, .tymMclr], Due c (ops 0 1 0 0) [.g 1] wF) ∧ Due .tymEmit (ops 0 1 1 5) [.l 1, .p 1] wF ∧
    Due .tymMget (ops 13 0 0 63) [] wF ∧ Due .tymMgetLane (ops 7 0 7 0x1003f) [] wF ∧ Due .tymArm (ops 0 1 0 3) [.g 1] wF ∧
    Due .tymSignal (ops 0 1 0 64) [.g 1] wF ∧ Due .tymMark (ops 0 1 0 0x5ffff) [.g 1] wF ∧ Due .tymFire (ops 0 0 0 0) [] wF ∧
    Due .tymLoop (ops 0 0 0 0xffff000001) [] wF ∧ Due .tymRpt (ops 0 0 0 0xffffffff) [] wF := by
  unfold Due Fetched TymDue; decide +kernel

/-! ### Hypotheses that can be met: measurement, triggers, streams -/

/-- Slot 63 of skein 0 of type 2 and gate mode `gm`, `len` long, with its parts changed by `f`. -/
def wT (gm len : Nat) (f : Slot → Slot) : State :=
  ((((wF.wr (bSlot 0 63) F.Slot.SCFG.TYPE 2).wr (bSlot 0 63) F.Slot.SCFG.SRCA 0x400).wr (bSlot 0 63) F.Slot.SCFG.GMODE gm).wr
    (bSlot 0 63) F.Slot.GCFG.LEN len).updSlot 0 63 f

/-- Its open gate. -/
def open0 (x : Slot) : Slot := { x with opn := some 0 }

theorem wit_GatesComplete : wF.phase = .running ∧
    (let s := wT 0 5 id
     s.slotLive 0 63 = true ∧ (s.mcfg 0 63).gmode = 0 ∧ (s.slot 0 63).opn = none ∧ (s.slot 0 63).spent = false ∧
       s.coarse % (1000 * (s.mcfg 0 63).len) = 0) ∧
    (let s := wT 0 5 open0
     s.slotLive 0 63 = true ∧ (s.slot 0 63).opn = some 0 ∧ (s.slot 0 63).deferC = none ∧ (s.mcfg 0 63).len = 5 ∧
       delta (5 * 512000) s.nowFt = 0 ∧ (s.slot 0 63).lastC = none ∧ s.commits = [] ∧ (s.mcfg 0 63).rearm = false) ∧
    (let s := wT 2 5000 open0
     s.slotLive 0 63 = true ∧ (s.mcfg 0 63).gmode = 2 ∧ (s.slot 0 63).opn = some 0 ∧ (s.mcfg 0 63).len = 5000 ∧
       delta (5000 * 512) s.nowFt = 0 ∧ (s.slot 0 63).deferC = none) ∧
    delta 0 512000 = 512000 ∧
    (let s := wT 2 5 (fun x => { open0 x with deferC := some (5000 * 512) })
     (s.slot 0 63).opn = some 0 ∧ (s.slot 0 63).deferC = some (5000 * 512) ∧ 0 ≤ delta (5000 * 512) s.nowFt) := by
  decide +kernel

/-- The same with a GATE item whose vector starts at 5 ft before the present cycle. -/
def wGi (op : Nat) (f : Slot → Slot) : State :=
  (wT 1 5 f).updVu 0 (fun v => { v with atS := [(5000 * 512 - 5, .gate (BitVec.allOnes 64) op)] })

/-- A gate of channel 0's comparator CL that closes at its second edge, the second being delivered. -/
def wCt (rearm : Nat) : State :=
  ((wT 3 2 (fun x => { x with opn := some 0, evA := [Ev.mk 8 .fine true false] })).wr (bSlot 0 63) F.Slot.SCFG.REARM rearm).updSkein 0
    (fun z => { z with bus := [.stamp { stamp0 with t := 512000 }] })

theorem wit_GatesComplete_items : (∀ op ∈ [0, 1, 2, 3],
      ((wGi op id).vu 0).atS = [(5000 * 512 - 5, .gate (BitVec.allOnes 64) op)] ∧ (wGi op id).slotLive 0 63 = true) ∧
    (5000 * 512 - 5) / 512 < wF.cycle ∧ (BitVec.allOnes 64).getLsbD 63 = true ∧ ((wGi 0 id).mcfg 0 63).gmode = 1 ∧
    ((wGi 0 id).slot 0 63).opn = none ∧ ((wGi 0 open0).slot 0 63).opn = some 0 ∧
    (let x := (wGi 1 open0).slot 0 63
     x.deferC = none ∧ x.chain = 0 ∧ x.reopen = false ∧ x.lastC = none ∧ (wGi 1 open0).commits = []) ∧
    (let l := 5000 * 512 - 1000
     ((wGi 1 (fun x => { open0 x with lastC := some l })).slot 0 63).lastC = some l ∧ delta l (wF.toLocal (5000 * 512 - 5)) < 512000) := by
  decide +kernel

theorem wit_GatesComplete_count : (wT 3 2 id).reachable (bSk 0 + F.Sk.MAUCLR.off) = true ∧ (wT 3 2 id).slotLive 0 63 = true ∧
    ((wT 3 2 id).mcfg 0 63).gmode = 3 ∧ ∀ rearm ∈ [0, 1],
    (let s := wCt rearm
     let y := { stamp0 with t := 512000 }
     let m := s.mcfg 0 63
     let x := s.slot 0 63
     (s.skein 0).bus = [.stamp y] ∧ y.g / 16 = 0 ∧ y.ep = s.loads ∧ s.domOn 32 = true ∧ s.slotLive 0 63 = true ∧ m.gmode = 3 ∧
       srcSlope m.srcA ≠ 0 ∧ srcTakes m.srcA y.g y.ch y.rising = true ∧ x.opn = some 0 ∧ x.deferC = none ∧ s.commits = [] ∧
       (s.slots.map (·.1)).Nodup ∧ x.fins = [] ∧
       s.armsSlot 0 63 y.g y.ch s.loads (Ev.mk y.t .fine true false) = false ∧
       (((insEvt (Ev.mk y.t .fine true false) x.evA).filter (fun d => !d.late && decide (0 ≤ delta 0 d.t)))[m.len - 1]?).map (·.t) =
         some 512000 ∧
       (s.updSkein 0 (fun z => { z with bus := [] })).edgeFinal m.srcA s.loads 512000 = true ∧ x.lastC = none ∧
       m.rearm = decide (rearm = 1) ∧ x.spent = false) := by
  decide +kernel

/-- A closed gate of type `ty` and nothing in it. -/
def fin0 (ty : Nat) : Fin_ :=
  { o := 0, c := 512000, gen := 0, ep := 0, armFrom := 0, prev := none, gcfg := 0#64, readyAt := 4992, str := false, epj := false,
    scfg := BitVec.ofNat 64 ty, param := 0, limMin := 0, limMax := 0 }

/-- A result of type `ty`, limits checked, with flags `fl` and value `v`. -/
def res0 (ty fl : Nat) (v : Word) : Res :=
  { o := 0, c := 1, res := v, second := 0, n := 2 ^ 48 - 1, flags := fl, scfg := BitVec.ofNat 64 (2 ^ 15 + ty), limMin := 0, limMax := 9 }

/-- The job of a gate of type `ty` with that result. -/
def job0 (ty fl : Nat) (v : Word) : Job := { res := res0 ty fl v, fin := fin0 ty, evA := [], evB := [] }

theorem wit_ResultsComplete : wF.phase = .running ∧
    (∀ ty ∈ [1, 4, 7, 12], (fin0 ty).cfg.type ≠ 8 ∧ (fin0 ty).cfg.type ≠ 11 ∧ (fin0 ty).readyAt ≤ wF.cycle ∧
      finComplete wF ((fin0 ty).cfg.wait 0) 0 (fin0 ty) ((wF.slot 0 63).evsOf (fin0 ty)).1 ((wF.slot 0 63).evsOf (fin0 ty)).2 = true) ∧
    (let s := wT 0 5 (fun x => { x with fins := [fin0 1], lastJob := 4000 })
     (s.slot 0 63).fins = [fin0 1] ∧ (s.skein 0).divQ.contains 63 = false ∧ (s.slot 0 63).lastJob + 1000 ≤ s.cycle) ∧
    (let s := wF.updSkein 0 (fun z => { z with divQ := [63, 0], divAt := some 4986 })
     (s.skein 0).divQ = [63, 0] ∧ (s.skein 0).divAt = some 4986 ∧ 4986 + 14 ≤ s.cycle) ∧
    (let s := (wT 0 5 (fun x => { x with jobs := [job0 1 0 9] })).updSkein 0 (fun z => { z with divBusy := [(63, 5000)] })
     (s.skein 0).divBusy = [(63, 5000)] ∧ 5000 ≤ s.cycle ∧ (s.slot 0 63).jobs = [job0 1 0 9] ∧ (s.slot 0 63).cfgErr = false ∧
       ((s.updSlot 0 63 (fun x => { x with cfgErr := true })).slot 0 63).cfgErr = true) ∧
    (fget (res0 1 0 9).scfg 15 15 = 1 ∧ fget (res0 1 0 9).scfg 3 0 ≠ 11 ∧ limPass (res0 1 0 9) = true ∧
      limPass (res0 1 0 10) = false ∧ (res0 1 0 9).flags.testBit 1 = false ∧ (res0 1 2 9).flags.testBit 1 = true) ∧
    ((fin0 8).cfg.type = 8 ∧ (fin0 11).cfg.type = 11 ∧ (fin0 8).readyAt + 8 ≤ wF.cycle ∧
      finComplete wF ((fin0 8).cfg.wait 0) 8 (fin0 8) [] [] = true ∧ finComplete wF ((fin0 11).cfg.wait 0) 8 (fin0 11) [] [] = true) := by
  decide +kernel

/-- Edges 100 ns apart from 0 on. -/
def evs0 (n : Nat) : List Ev := (List.range n).map (fun i => Ev.mk (51200 * i) .fine (i % 2 == 0) false)

/-- The sums and lists that the clauses of ResultOf speak of exist: used stamps, pairs, pulses, cycles, time errors. -/
theorem wit_ResultOf : SumsAre (fin0 1).cfg (evs0 3) { n := 3, sn := 3, sn2 := 5, st := 153600, snt := 256000, st2 := 13107200000 } ∧
    ownedEvs 0 512000 (evs0 3) = evs0 3 ∧ (finPairing (fin0 4).cfg (evs0 1) [Ev.mk 51200 .fine true false]).pairs.length = 1 ∧
    (cycles 512000 0 512000 (evs0 3)).length = 2 ∧ (pulses true 512000 0 512000 (evs0 3)).length = 2 ∧
    (tieErrs false (51200 * 65536) (evs0 3)).length = 3 := by
  unfold SumsAre; decide +kernel

/-- Domain 3 of a device at position 5, taking part in state `st`, master or not, with its parts changed by `f`. -/
def wO (st m : Nat) (f : Dom → Dom) : State :=
  ((((wF.wr (bDom 3) F.Trs.DCFG.EN 1).wr (bDom 3) F.Trs.DCFG.MASTER m).wr (bDom 3) F.Trs.DSTAT.STATE st).wr bLnk
    F.Lnk.LSTAT.POS 5).updDom 3 f

/-- The same with port A up. -/
def wA (st m : Nat) : State := (wO st m id).wr (bLp 0) F.Lnk.PSTAT.UP 1

/-- A packet header for position `dst` at port A. -/
def hdr0 (dst : Fin 64) : PktHdr := { port := 0, lseq := 0, tag := 9, vc := 0, src := 7, dst := dst, bcast := false, dir := false, len := 0 }

theorem wit_TriggerRequestsComplete : wF.phase = .running ∧ wF.reachable bTrs = true ∧ wF.reachable (bDom 3 + 0x100) = true ∧
    (let s := ((wO 2 0 id).wr (bCond 15) F.Trs.TCOND.KIND 6).wr (bCond 15) F.Trs.TCOND.DOM 3
     s.rd (bCond 15) F.Trs.TCOND.KIND = 6 ∧ s.rd (bCond 15) F.Trs.TCOND.DOM = 3 ∧ s.rd (bCond 15) F.Trs.TCOND.COUNT ≤ 1 ∧
       s.domState 3 = 2 ∧ s.rd (bDom 3) F.Trs.DCFG.EN = 1 ∧ (s.dom 3).pulse = none ∧ s.scanOn = false) ∧
    ((wO 2 0 id).lnk.held = [] ∧ (viewVal .normal ((wO 2 0 id).reg (bDom 3 + 0x100)) 0#64).getLsbD 0 = false ∧
      (viewVal .normal ((wO 2 0 id).reg (bDom 3 + 0x100)) 1#64).getLsbD 0 = true) ∧
    ((wO 0 1 id).isMaster 3 = true ∧ (wO 0 1 id).lnk.schedQ.length < 32 ∧ (wO 0 1 id).domState 3 = 0 ∧
      (wO 0 1 id).reached (max (0 % 2 ^ 52) (5000 + 1000 * (wO 0 1 id).rd (bDom 3) F.Trs.DCFG.LEAD)) = (wO 0 1 id).reached
        (5000 + 1000 * (wO 0 1 id).rd (bDom 3) F.Trs.DCFG.LEAD) ∧ ((wO 0 1 id).wr (bDom 3) F.Trs.DCFG.LEAD 1).reached 6000 = false ∧
      (wO 0 1 id).reachable (bDom 3) = true) ∧
    ((wA 0 1).portUp 0 = true ∧ (hdr0 5).lseq.toNat = ((wA 0 1).lp 0).rxSeq ∧ ((hdr0 5).dst : Nat) = (wA 0 1).pos) ∧
    (let q := fun a => { wO 0 0 id with lnk := { schedQ := [Sched.mk a 5000 3] } }
     (q 2).lnk.held = [] ∧ (q 2).schedDue 2 3 = some (Sched.mk 2 5000 3) ∧ (q 2).schedDue 3 3 = none ∧
       (q 3).schedDue 3 3 = some (Sched.mk 3 5000 3)) := by
  decide +kernel

theorem wit_TriggerRequestsComplete_hitch :
    (let s := { wO 0 0 id with lnk := { schedQ := [Sched.mk 1 5000 128, Sched.mk 2 5000 3] } }
     s.lnk.held = [] ∧ s.hitchDue = true) ∧
    (let s := { wO 0 0 id with lnk := { schedQ := [Sched.mk 1 5001 128, Sched.mk 2 5000 3] } }
     s.hitchDue = false ∧ s.schedDue 2 3 = some (Sched.mk 2 5000 3) ∧ s.schedDue 3 3 = none) := by
  decide +kernel

theorem wit_TriggersAreAccepted : wF.phase = .running ∧ (wO 2 0 id).domOn 87 = true ∧
    (wO 2 0 id).rd (bDom 3) F.Trs.DCFG.EN = 1 ∧ (wO 2 0 id).domState 3 = 2 ∧
    0 ≤ delta (((wO 2 0 id).dom 3).inForce * 512) (shiftFt (5000 * 512 + 511) 0) ∧
    ((wO 2 0 (fun x => { x with inForce := 5001 })).domState 3 = 2 ∧ delta (5001 * 512) (shiftFt (5000 * 512 + 511) 0) < 0) ∧
    (wO 0 0 id).domState 3 = 0 ∧ (wO 1 0 id).domState 3 = 1 ∧
    (let s := wO 3 0 (fun x => { x with hoEnd := some (5000 * 512), hoAt := 5000 * 512, pulse := some 5000 })
     (s.dom 3).hoEnd = some (5000 * 512) ∧ s.domState 3 = 3 ∧ (s.dom 3).hoAt ≤ s.cycle * 512 ∧
       delta (5000 * 512) (shiftFt (4999 * 512 + 511) 0) < 0 ∧
       (s.dom 3).pulse = some 5000 ∧ 5000 ≤ s.cycle) ∧
    ((wW (.twait 5 0 none none)).eng 0).wait = .twait 5 0 none none := by
  decide +kernel

/-- Stream 63, on or off, with its parts changed by `f`, the memory served. -/
def wX (en : Nat) (f : Strm → Strm) : State := ((wF.wr bMem F.Mem.MCTL.EN 1).wr (bStr 63) F.Trs.SCTL.EN en).updStrm 63 f

theorem wit_StreamCommandsComplete : wF.phase = .running ∧ wF.reachable (bStr 63 + 0x1000) = true ∧
    (wX 1 id).rd (bStr 63) F.Trs.SCTL.EN = 1 ∧ (wX 0 id).rd (bStr 63) F.Trs.SCTL.EN = 0 ∧ ((wX 1 id).strm 63).enWait = false ∧
    ((wX 0 id).wr (bStr 63) F.Trs.SSTAT.IDLE 0).rd (bStr 63) F.Trs.SSTAT.IDLE = 0 ∧
    ((wX 0 id).wr (bStr 63) F.Trs.SSTAT.IDLE 1).rd (bStr 63) F.Trs.SSTAT.IDLE = 1 ∧
    (let s := (wX 1 (fun x => { x with enWait := true })).wr (bStr 63) F.Trs.SSTAT.IDLE 1
     s.domOn 87 = true ∧ s.rd (bStr 63) F.Trs.SCTL.EN = 1 ∧ (s.strm 63).enWait = true ∧ s.rd (bStr 63) F.Trs.SSTAT.IDLE = 1) ∧
    (let s := ((((wX 1 (fun x => { x with wpos := 65536, lastChg := 0 })).wr (bStr 63) F.Trs.SRATE.AUTO 1).wr (bStr 63) F.Trs.SRATE.HW
       127).wr (bStr 63) F.Trs.SRATE.UPHOLD 5).wr (bStr 63) F.Trs.SSTAT.LEVEL 6
     s.strOn 63 = true ∧ s.rd (bStr 63) F.Trs.SRATE.AUTO = 1 ∧ s.rd (bStr 63) F.Trs.SSTAT.LEVEL < 7 ∧
       s.rd (bStr 63) F.Trs.SRATE.HW * s.ringSize 63 ≤ 128 * s.ringUsed 63 ∧
       (s.strm 63).lastChg + 1000 * s.rd (bStr 63) F.Trs.SRATE.UPHOLD ≤ s.cycle) ∧
    (let s := (((((((wX 1 id).wr bCtl F.Ctl.STRAP.HEAD 1).wr bLnk F.Lnk.LSTAT.POS 63).wr (bStr 63) F.Trs.SRATE.AUTO 1).wr (bStr 63) F.Trs.SRATE.LW 1).wr (bStr 63) F.Trs.SRATE.DNHOLD 5).wr
       (bStr 63) F.Trs.SRATE.LVL 6).wr (bStr 63) F.Trs.SSTAT.LEVEL 7
     s.strOn 63 = true ∧ s.rd (bStr 63) F.Trs.SRATE.LVL < s.rd (bStr 63) F.Trs.SSTAT.LEVEL ∧ s.fillLow 63 = true ∧
       s.hostLow 63 = false ∧ (s.strm 63).lastChg + 1000 * s.rd (bStr 63) F.Trs.SRATE.DNHOLD ≤ s.cycle) ∧
    (let o : RawOpen := { c := 15, stamps := [{ stamp0 with t := 0 }], decs := [], level := 0, win := 0, wno := 0, cut := none }
     ((wX 1 (fun x => { x with opens := [o] })).strm 63).opens = [o] ∧ 0 ≤ delta ((0 / 512 + 1000 * 5) * 512) wF.nowFt ∧
       ((wX 1 (fun x => { x with opens := [o] })).wr (bStr 63) F.Trs.S_SCFG.RTMO 5).rd (bStr 63) F.Trs.S_SCFG.RTMO = 5 ∧
       (wX 1 id).rawWaits 63 15 0 wF.nowFt = false ∧ ((wX 1 id).wr (bStr 63) F.Trs.SSTAT.GAP 1).rd (bStr 63) F.Trs.SSTAT.GAP = 1 ∧
       stamp0.ep = wF.loads ∧ ((wX 1 id).strm 63).cuts = [] ∧ ((wX 1 id).strm 63).buf = []) := by
  decide +kernel

/-- A record of kind `k`. -/
def rec0 (k : Nat) : Rec := { kind := k, sub := 0, flags := 0, ref := 0#64, payload := List.replicate 16 0#8, raw := 1, dec := 0 }

/-- A record in the ring with `w` writes under way. -/
def rr0 (w : Nat) : RingRec := { rec_ := rec0 2, seq := 7, addr := 0, writes := w, sent := false }

theorem wit_RecordsCommit : wF.phase = .running ∧ wF.domOn 87 = true ∧ wF.frozen = false ∧
    (let s := wX 1 (fun x => { x with queue := [rec0 1] })
     (s.strm 63).queue = [rec0 1] ∧ (s.strm 63).staging = [] ∧ s.ringFits 63 (rec0 1) = true ∧ (rec0 1).win = 0) ∧
    (let s := wX 1 (fun x => { x with queue := [rec0 1], staging := List.replicate 16 (rec0 2), wpos := 65536 })
     s.ringFits 63 (rec0 1) = false ∧ s.ringFits 63 (rec0 2) = false ∧ (s.strm 63).staging = rec0 2 :: List.replicate 15 (rec0 2) ∧
       (s.strm 63).staging.length = 16 ∧ (rec0 2).kind ≠ 1 ∧ (rec0 1).kind = 1) ∧
    (wF.wr bMem F.Mem.MSTAT.FROZEN 1).frozen = true ∧
    (let s := ((wX 1 id).wr (bStr 63) F.Trs.SSTAT.GAP 1).wr (bStr 63) F.Trs.SRATE.LW 1
     s.rd (bStr 63) F.Trs.SSTAT.GAP = 1 ∧ s.frozen = false ∧ (s.strm 63).gapEnding = false ∧ s.strOn 63 = true ∧
       (s.strm 63).frz = none ∧ s.fillLow 63 = true ∧ s.memReady = true) ∧
    (let s := (wX 0 (fun x => { x with gapEnding := true })).wr (bStr 63) F.Trs.SSTAT.GAP 1
     (s.strm 63).gapEnding = true ∧ s.ringFits 63 (gapMarkRec s 63) = true) ∧
    (((wX 1 (fun x => { x with ring := [rr0 1] })).strm 63).ring.find? (fun r => !r.sent) = some (rr0 1) ∧ 0 < (rr0 1).writes ∧
      (rr0 0).writes = 0 ∧ wF.isHead = false ∧ (wF.wr bCtl F.Ctl.STRAP.HEAD 1).isHead = true ∧ (wF.hring 63).waiting = [] ∧
      (wF.hring 63).early = [] ∧ (wF.hring 63).expect = none ∧ wF.rd bLnk F.Lnk.LSTAT.READY = 0 ∧
      (wF.wr bLnk F.Lnk.LSTAT.READY 1).rd bLnk F.Lnk.LSTAT.READY = 1) ∧
    (let s := wX 1 (fun x => { x with queue := [rec0 1, rec0 2], wpos := 65536 })
     (s.strm 63).queue = [rec0 1, rec0 2] ∧ (s.strm 63).staging = [] ∧ s.ringFits 63 (rec0 1) = false) ∧
    (let s := wX 1 (fun x => { x with queue := [rec0 1], wpos := 65536 })
     (s.strm 63).queue = [rec0 1] ∧ s.ringFits 63 (rec0 1) = false ∧ s.siteHead 63 = none ∧ ∀ q ∈ (s.strm 63).queue, q.kind ≠ 3) ∧
    (∀ n, n < 64 → (let y := wF.strm n
      y.buf.length + (((y.queue ++ y.staging).filter (fun r => r.win = 0)).map Rec.items).sum +
        (y.ring.map (fun r => r.rec_.items)).sum ≤ y.pend ∧ wF.windowed n = false)) := by
  decide +kernel

/-- The head at position `p`, port A up, host ring 4095 with its words at 8, 16 and 24 and its parts changed by `f`. -/
def wR (p ctrl wr rd : Nat) (f : HRing → HRing) : State :=
  (((((((wF.wr bCtl F.Ctl.STRAP.HEAD 1).wr bLnk F.Lnk.LSTAT.POS p).wr (bLp 0) F.Lnk.PSTAT.UP 1).setTq (tRing + 64 * 4095 + 8)
    ctrl).setTq (tRing + 64 * 4095 + 16) wr).setTq (tRing + 64 * 4095 + 24) rd)).updHring 4095 f

theorem wit_HostRingsComplete : wF.phase = .running ∧
    (let s := wR 63 (2 ^ 6 + 2 ^ 5 + 12 + 2 ^ 7 * 63 + 2 ^ 16 * 5) 4096 16
       (fun x => { x with waiting := [HRec.mk 7 1 (List.replicate 16 0#8) none], expect := some 7, irqFrom := some 0 })
     s.isHead = true ∧ s.domOn 84 = true ∧ (s.tq (tRing + 64 * 4095 + 8)).testBit 5 = true ∧ s.hostFree 4095 = 16 ∧
       s.hostSize 4095 = 4096 ∧ (s.hring 4095).waiting = [HRec.mk 7 1 (List.replicate 16 0#8) none] ∧ (s.hring 4095).expect = some 7 ∧
       4095 / 64 = s.pos ∧ (s.hring 4095).irqFrom = some 0 ∧ (s.tq (tRing + 64 * 4095 + 8)).testBit 6 = true ∧
       0 + 1000 * (s.tq (tRing + 64 * 4095 + 8) / 2 ^ 16 % 2 ^ 20) ≤ s.cycle ∧
       (s.hring 4095).early = [] ∧ (HRec.mk 7 1 (List.replicate 16 0#8) none).bytes.length ≤ s.hostFree 4095 ∧
       (wR 0 0 0 0 (fun x => { x with early := [HRec.mk 7 1 [] none] })).hring 4095 =
         { early := [HRec.mk 7 1 [] none] } ∧
       (s.wr (bHif + 16 * 63) F.Hif.MSIX_DATA.MASK 0).rd (bHif + 16 * 63) F.Hif.MSIX_DATA.MASK = 0 ∧
       s.reachable (tRing + 64 * 4095) = true) ∧
    ((∀ r ∈ ((wR 0 0 0 0 (fun x => { x with expect := some 7 })).hring 4095).waiting, r.seq ≠ 7) ∧
      ((wR 0 0 0 0 id).tq (tRing + 64 * 4095 + 8)).testBit 5 = false) ∧
    (let s := wR 0 0 32 16 id
     s.tq (tRing + 64 * 4095 + 24) ≤ (16#64).toNat ∧ (32#64).toNat ≤ s.tq (tRing + 64 * 4095 + 16) ∧
       (0#64).toNat < s.tq (tRing + 64 * 4095 + 24) ∧ s.tq (tRing + 64 * 4095 + 16) < (48#64).toNat ∧ (17#64).toNat % 16 ≠ 0) ∧
    (let h : PktHdr := { hdr0 0 with src := 63, tag := 63 }
     InOrder h (wR 0 0 0 0 id) ∧ (h.dst : Nat) = (wR 0 0 0 0 id).pos ∧ h.bcast = false ∧ 4095 = 64 * (h.src : Nat) + h.tag.toNat % 64) ∧
    0 < (0 + 2 ^ 32 - (0xffffffff#32).toNat) % 2 ^ 32 ∧ (2 ^ 31 + 2 ^ 32 - (0#32).toNat) % 2 ^ 32 ≤ 2 ^ 31 := by
  unfold InOrder; decide +kernel

/-! ### Hypotheses that can be met: the memory controller, the timebase and the ring -/

/-- A request for `len` bytes at `a`. -/
def req0 (a len : Nat) (w : Option (List Byte)) (why : Why) (issued : Bool) : MReq :=
  { addr := a, len := len, write := w, why := why, at_ := 0, issued := issued }

/-- The controller enabled, REFEN set, with port 76 changed by `f`. -/
def wM (f : MPort → MPort) : State := ((wF.wr bMem F.Mem.MCTL.EN 1).wr bMem F.Mem.MCTL.REFEN 1).updPort 76 f

theorem wit_MemoryRequestsComplete : wF.phase = .running ∧
    (let s := wM (fun x => { x with wait := [req0 (2 ^ 34 - 1) 129 none .scrub false],
                                    outs := List.replicate 7 (req0 0 128 none .scrub true) })
     (s.port 76).wait = [req0 (2 ^ 34 - 1) 129 none .scrub false] ∧ s.served = true ∧ s.pcOn (s.pcOf (2 ^ 34 - 1)) = true ∧
       (s.port 76).outs.length < portMax 76 ∧ nReads (s.queued (s.pcOf (2 ^ 34 - 1))) < 48 ∧
       nWrites (s.queued (s.pcOf (2 ^ 34 - 1))) < 64 ∧ (req0 (2 ^ 34 - 1) 129 none .scrub false).fromHost = false) ∧
    (wF.served = false ∧ portMax 76 ≤ (List.replicate 8 (req0 0 128 none .scrub true)).length) ∧
    (let s := wM (fun x => { x with outs := [req0 0 128 none .scrub false] })
     let p := s.pcOf 0
     s.owed p < 9 ∧ (s.pchan p).nbr = [] ∧ s.eligible p ≠ [] ∧ s.pcOn p = true ∧ s.rd bMem F.Mem.MCTL.REFEN = 1 ∧
       s.rd bMem F.Mem.MSTAT.FHOLD = 0 ∧ s.hotFrozen = false) ∧
    (let s := (wM id).updPc 31 (fun x => { x with nbr := [(5, true)] })
     (s.pchan 31).nbr = [(5, true)] ∧ s.owed 31 < 9 ∧ s.pcOn 31 = true ∧ s.frozen = false ∧
       s.rd bMem F.Mem.MSTAT.FHOLD = 0 ∧ (s.pchan 31).busyTo ≤ s.cycle ∧
       (s.updPc 31 (fun x => { x with nbr := [(32 * 16383 + 5, false)] })).eligible 31 = []) ∧
    (let s := (wM id).updPc 31 (fun x => { x with debt := 9 * wF.tREFI, debtAt := 5000, refs := 8191 })
     9 ≤ s.owed 31 ∧ ((s.pchan 31).refs + 1) % 8192 = 0 ∧ (s.pchan 31).busyTo ≤ s.cycle ∧ s.pcOn 31 = true ∧
       s.rd bMem F.Mem.MCTL.REFEN = 1 ∧ s.hotFrozen = false) ∧
    (let s := wM id
     s.owed 31 < 9 ∧ (s.pchan 31).nbr = [] ∧ s.eligible 31 = [] ∧ s.queued 31 = [] ∧ -7 ≤ s.owed 31) ∧
    (let s := wM (fun x => { x with outs := [req0 0 128 none (.vectorLine 0 3) true] })
     (s.port 76).outs = [req0 0 128 none (.vectorLine 0 3) true] ∧ s.frozen = false) ∧
    ((req0 120 8 (some (List.replicate 8 1#8)) (.record 0 0) true).rmw = false ∧
      (List.replicate 8 1#8).length ≤ 128 - 120 % 128) ∧
    (let s := (wM id).wr bMem F.Mem.MCTL.SCRUB_EN 1
     s.rd bMem F.Mem.MCTL.SCRUB_EN = 1 ∧ s.served = true ∧ s.memc.scrubAt ≤ s.cycle) := by
  decide +kernel

theorem wit_MemoryRequestsComplete_edges :
    (let s := (wM id).updPc 31 (fun x => { x with nbr := [(5, true)] })
     s.hasEdge (s.atTop 31) = true) ∧
    (let s := (wM id).updPc 31 (fun x => { x with debt := 9 * wF.tREFI, debtAt := 5000, refs := 8191 })
     s.hasEdge (s.atTop 31) = true ∧ s.rd bMem F.Mem.MSTAT.FHOLD = 0) ∧
    ((wM id).hasEdge ((wM id).atFree 31) = true) ∧
    (let s := wM (fun x => { x with outs := [req0 0 128 none (.vectorLine 0 3) true] })
     s.colsDone (s.pcOf 0) (req0 0 128 none (.vectorLine 0 3) true).ord = true) := by
  decide +kernel

/-- Block `b` armed until cycle 5001. -/
def armed0 (b : Nat) (s : State) : State := { s with unlockAt := [(b, some 5001)] }

/-- The controller frozen by `cause`, the stack at `t` sixteenths of a degree. -/
def wZ (cause : Nat) (t : Int) : State :=
  armed0 5 ((((wM id).wr bMem F.Mem.MSTAT.FROZEN 1).wr bMem F.Mem.MSTAT.FCAUSE cause).wrInt (bThm + 8 * 39) F.Thm.TEMP.T t)

theorem wit_FreezesComplete : wF.phase = .running ∧ wF.frozen = false ∧
    (let s := wM (fun x => { x with outs := [req0 (2 ^ 34 - 128) 128 none .scrub true] })
     (s.port 76).outs = [req0 (2 ^ 34 - 128) 128 none .scrub true] ∧ s.frozen = false ∧
       (req0 (2 ^ 34 - 128) 128 none .scrub true).addr < 2 ^ 34) ∧
    ((wF.pchan 31).acts.filter (fun a => decide (wF.cycle ≤ a.at_ + Config.parityLatency)) = [] ∧
      (let a : Act := { at_ := 5000, bank := 0, addr := 2 ^ 34 - 128, port := 76 }
       ((wF.updPc 31 (fun x => { x with acts := [a] })).pchan 31).acts = [a] ∧ a.port < 256 ∧ a.addr < 2 ^ 34 ∧
         wF.cycle ≤ a.at_ + 0)) ∧
    ((armed0 5 wF).armed 5 = true ∧ (armed0 5 wF).sealed = false ∧ wF.armed 5 = false) ∧
    ((wZ 3 1632).frozen = true ∧ (wZ 3 1632).memc.reinit = false ∧ (wZ 3 1632).armed 5 = true ∧
      (wZ 3 1632).rd bMem F.Mem.MSTAT.FCAUSE = 3 ∧ (wZ 3 1632).stackHot = true ∧ (wZ 3 1631).stackHot = false ∧
      (wZ 1 1632).rd bMem F.Mem.MSTAT.FCAUSE ≠ 3) ∧
    ((wZ 1 0).updMemc (fun x => { x with reinit := true })).memc.reinit = true := by
  decide +kernel

/-- Sensor 39 with 16 samples in band `b`, FHOLD as given. -/
def wH (b hold : Nat) : State :=
  ((wM id).wr bMem F.Mem.MSTAT.FHOLD hold).updSens 39 (fun x => { x with band := b, run := 16 })

/-- The factory PHY table's check word stands to its table as `f` has it. -/
def wI (f : BitVec 32 → BitVec 32) : State :=
  (allOn State.reset).setMramW 0x2f1800 (f (crc32 ((allOn State.reset).mramBytes 0x2f0000 0x1800)))

theorem wI_table (f : BitVec 32 → BitVec 32) : (wI f).mramW 0x2f1800 = f (crc32 ((wI f).mramBytes 0x2f0000 0x1800)) := by
  unfold wI
  rw [mramBytes_setMramW _ _ _ _ _ (by intro i hi; omega), mramW_setMramW_same]

theorem wit_MemoryServiceComplete : wF.phase = .running ∧
    ((wH 2 0).rd (bThm + 8 * 39) F.Thm.TEMP.FAIL = 0 ∧ 16 ≤ ((wH 2 0).sens 39).run ∧ (wH 2 0).rd bMem F.Mem.MSTAT.FHOLD = 0 ∧
      ((wH 2 0).sens 39).band < 3 ∧ ((wH 3 0).sens 39).band = 3 ∧ (wH 3 0).frozen = false ∧
      (wH 3 1).rd bMem F.Mem.MSTAT.FHOLD = 1) ∧
    wF.rd bMem F.Mem.MSTAT.FPEND = 0 ∧
    (let s := (wM id).wr bMem F.Mem.MSTAT.FPEND 1
     s.rd bMem F.Mem.MSTAT.FPEND = 1 ∧ s.rd bMem F.Mem.MSTAT.FHOLD = 0 ∧ s.frozen = false ∧
       (∀ n, n < 77 → (∀ r ∈ (s.port n).outs, r.issued = true) ∧ s.portUrg n < 2) ∧ (∀ p, p < 32 → s.owed p < 9) ∧
       64000 ≤ (s.cycle - s.memc.lastBusy) * s.hbmMHz) ∧
    (wH 2 1).memc.bandNext = none ∧
    (wF.rd bMem F.Mem.MCTL.EN = 0 ∧ wF.memc.filling = false ∧ (armed0 5 wF).armed 5 = true ∧ wF.memc.filled = false ∧
      (wF.updMemc (fun x => { x with filled := true })).memc.filled = true ∧ wF.armed 5 = false) ∧
    (wF.memc.initDone = false ∧ ∀ p, p < 32 → wF.pcOn p = true) ∧ ((wI id).memc.initDone = false ∧ (wI id).phase = .running) ∧
    (wF.updMemc (fun x => { x with filling := true })).memc.filling = true ∧ wF.memc.trainOp = 0 ∧
    (wM id).rd bMem F.Mem.MCTL.EN = 1 ∧ (wF.updMemc (fun x => { x with trainOp := 3 })).memc.trainOp = 3 := by
  decide +kernel

theorem wit_MemInit_good : crc32 ((wI id).mramBytes 0x2f0000 0x1800) = (wI id).mramW 0x2f1800 := (wI_table id).symm

theorem wit_MemInit_bad : ¬ crc32 ((wI (· + 1)).mramBytes 0x2f0000 0x1800) = (wI (· + 1)).mramW 0x2f1800 := by
  rw [wI_table]; intro h; generalize crc32 _ = x at h; bv_omega

/-- The timebase in state `st`, REFOK as given. -/
def wJ (st ok : Nat) : State := (wF.wr bTb F.Tb.TBSTAT.STATE st).wr bTb F.Tb.TBSTAT.REFOK ok

theorem wit_HoldoverCommandsComplete : wF.phase = .running ∧ wF.rd bTb F.Tb.TBCFG.REFSEL = 0 ∧
    (wF.countOk 20470 = true ∧ wF.countOk 20469 = false ∧ wF.tbs.missed = false ∧ wF.tbs.goodWins = 0 ∧
      1 ≤ (wF.updTbs (fun x => { x with goodWins := 1 })).tbs.goodWins) ∧
    ((wJ 1 1).tbState = 1 ∧ (wJ 2 1).tbState = 2 ∧ (wJ 2 1).rd bTb F.Tb.TBSTAT.REFOK = 1 ∧ (wJ 3 1).tbState = 3 ∧
      (wJ 3 1).tbs.phase = 0 ∧ (wJ 4 1).tbState = 4 ∧ (wJ 0 0).rd bTb F.Tb.TBSTAT.REFOK = 0 ∧
      100000000 ≤ ({ wJ 0 0 with cycle := 100000000 } : State).cycle) ∧
    (wF.rd bTb F.Tb.TBCFG.REFSEL ≠ b2n true ∧ (armed0 1 wF).armed 1 = true ∧ wF.armed 1 = false ∧ wF.sealed = false) ∧
    (({ wF with cycle := 2048000 } : State).tbs.winFrom + 2048000 ≤ ({ wF with cycle := 2048000 } : State).cycle ∧
      wF.cycle < wF.tbs.winFrom + 2048000 ∧ 250 ≤ 2000 ∧ 1999 < 2000 ∧ (wJ 3 1).tbs.phase = 0 ∧
      (wF.wr bTb F.Tb.TBCFG.REFSEL 1).rd bTb F.Tb.TBCFG.REFSEL = 1) ∧
    (let s := (wX 1 id).wr (bStr 63) F.Trs.S_SCFG.DEVMARK 1
     s.strOn 63 = true ∧ s.rd (bStr 63) F.Trs.S_SCFG.DEVMARK = 1) ∧
    ({ wF with holdLog := [(0, none)] } : State).holdLog = (0, none) :: [] := by
  decide +kernel

/-- The timebase's own parts changed by `f`, ALIGNPEND and TOL as given. -/
def wY (pend tol : Nat) (f : Tbs → Tbs) : State :=
  ((wF.wr bTb F.Tb.TBSTAT.ALIGNPEND pend).wr bTb F.Tb.TSCFG.TOL tol).updTbs f

theorem wit_AlignmentCompletes : wF.phase = .running ∧ wF.tbs.splice = none ∧
    (let x : Splice := { base := some 0, ds := [3], hold := false }
     (wY 0 5 (fun t => { t with splice := some x })).tbs.splice = some x ∧ x.ds ≠ []) ∧
    ((wY 1 5 id).rd bTb F.Tb.TBSTAT.ALIGNPEND = 1 ∧ (wY 1 5 id).tbs.loadAt = none) ∧
    (let x : Splice := { base := none, ds := [], hold := false }
     let s := wY 0 5 (fun t => { t with splice := some x })
     s.rd bTb F.Tb.TBSTAT.ALIGNPEND = 0 ∧ s.tbs.splice = some x ∧
       (s.wr bTb F.Tb.TSCFG.AVG_LOG2 0).splEdges = 1 ∧ (s.wr bTb F.Tb.TSCFG.AVG_LOG2 1).splEdges = 2 ∧ (s.rd bTb F.Tb.TSCFG.TOL : Int) = 5 ∧
       delta (512 * (5000 + 0 * s.tsPer)) (s.nowFt + 511) = 511) ∧
    ((wY 0 5 (fun t => { t with base := some 0 })).tbs.base = some 0 ∧ wF.tbs.base = none) ∧
    ((wY 0 5 (fun t => { t with loadAt := some (5000, 511, true) })).tbs.loadAt = some (wF.coarse, 511, true) ∧ wF.coarse < 2 ^ 52) ∧
    (wF.coarse % 1000 = 0 ∧ wF.commits = [] ∧ wF.tbs.newOfs = none ∧ wF.tbs.track = 0 ∧ wF.tbs.pllNext = none ∧
      (wY 0 5 (fun t => { t with newOfs := some (-1, 5) })).tbs.newOfs = some (-1, 5) ∧
      (wY 0 5 (fun t => { t with track := 1 })).tbs.track ≠ 0) := by
  decide +kernel

/-- Ports A and B up as given, their parts changed by `f`. -/
def wN (a b : Nat) (f : LPort → LPort) : State :=
  ((wF.wr (bLp 0) F.Lnk.PSTAT.UP a).wr (bLp 1) F.Lnk.PSTAT.UP b).updLp 1 f

theorem wit_LinkCommandsComplete : wF.phase = .running ∧
    ((wN 0 0 id).portUp 1 = false ∧ (wN 0 0 id).scanOn = false ∧ (wN 0 0 id).domOn 82 = true ∧ (wN 0 0 id).domOn 83 = true ∧
      (wN 0 0 id).rd bLnk F.Lnk.LSTAT.READY = 0 ∧
      ((wN 0 0 id).updLnk (fun l => { l with token := some (1, 3) })).lnk.token = some (1, 3)) ∧
    ((wN 0 1 id).portUp 1 = true ∧ ((wN 0 1 id).lp 1).sendQ = [] ∧ ((wN 0 1 id).lp 1).fails < 16 ∧
      ((wN 0 1 (fun x => { x with fails := 16 })).lp 1).fails = 16 ∧ ((wN 0 1 (fun x => { x with fails := 16 })).lp 1).replay = [] ∧
      (∃ l ∈ (({ wN 0 1 (fun x => { x with lost := [(7, 4000)] }) with cycle := 20000 } : State).lp 1).lost, l.2 + 10000 < 20000) ∧
      (wN 0 0 id).conflict = false ∧ (wN 0 1 id).conflict = false ∧ ((wN 0 1 id).lp 1).rx = []) ∧
    ((∀ l ∈ ((wN 0 1 id).lp 1).lost, l.1 ≠ 7) ∧
      ((wN 0 1 (fun x => { x with lost := [(7, 4000)] })).lp 1).lost.find? (fun l => l.1 == 7) = some (7, 4000) ∧
      (wN 0 1 id).cycle ≤ 4000 + 10000) ∧
    (InOrder { hdr0 0 with port := 1 } (wN 0 1 id) ∧ (0x05#8).toNat ∉ knownKinds) := by
  unfold InOrder; decide +kernel

theorem wit_LinkCommandsComplete_trains : (wN 0 0 id).trains 1 = true ∧
    ((wN 0 0 id).wr (bLp 1) F.Lnk.PEQ.MAIN 12).trains 1 = false := by
  decide +kernel

/-- Both ports up, READY, three positions, at position `p`, head or not. -/
def wG (head p : Nat) : State :=
  ((((wN 1 1 id).wr bCtl F.Ctl.STRAP.HEAD head).wr bLnk F.Lnk.LSTAT.READY 1).wr bLnk F.Lnk.LSTAT.N 3).wr bLnk F.Lnk.LSTAT.POS p

theorem wit_RingCommandsComplete : (wG 1 0).phase = .running ∧ Arrives (hdr0 5) (wG 0 5) ∧
    Arrives { hdr0 5 with bcast := true } (wG 0 5) ∧
    ((wG 0 5).reached (5001 % 2 ^ 52) = false ∧ (wG 0 5).reached (5000 % 2 ^ 52) = true ∧ (wG 0 5).lnk.schedQ.length < 32 ∧
      32 ≤ (List.replicate 32 (Sched.mk 1 6000 1)).length ∧ (wO 0 0 id).takesPart ((3#8).toNat % 4) = true) ∧
    (let a := Sched.mk 1 5064 1
     let s := { wF with lnk := { schedQ := [a] } }
     s.lnk.schedQ.find? (fun a => a.act == 1 && s.reached ((a.at_ + coarseMod - 64) % coarseMod)) = some a ∧ s.lnk.held = [] ∧
       a.arg = 2 ^ 0 ∧ s.unitsOf 0 ≠ []) ∧
    ((wG 1 0).isHead = true ∧ (wG 1 0).domOn 84 = true ∧ (wG 0 5).isHead = false ∧
      ((wG 1 0).wr bLnk F.Lnk.SHITCH.AT 5001).reached 5001 = false ∧
      ((wG 1 0).wr bLnk F.Lnk.SHITCH.AT 5001).rd bLnk F.Lnk.SHITCH.AT = 5001) ∧
    (let x : Tun := { tag := 9, pos := 1, write := false, at_ := 0 }
     let s := (wG 0 5).updLnk (fun l => { l with tuns := [x] })
     Arrives (hdr0 5) s ∧ s.lnk.tuns.find? (fun y => y.tag == (hdr0 5).tag.toNat) = some x ∧
       x.at_ + 45000 ≤ ({ s with cycle := 45000 } : State).cycle) ∧
    (0 = (wG 1 0).pos ∧ (wG 1 0).rd bLnk F.Lnk.LSTAT.READY = 1 ∧ 2 < (wG 1 0).rd bLnk F.Lnk.LSTAT.N ∧
      (wG 1 0).rd bLnk F.Lnk.LSTAT.N ≤ 3 ∧ (wN 1 1 id).rd bLnk F.Lnk.LSTAT.READY = 0 ∧ (wG 1 0).portUp 0 = true ∧ (wG 1 0).portUp 1 = true) := by
  unfold Arrives InOrder; decide +kernel

/-- The ring before discovery, head or not, port B up as given, LNK's parts changed by `f`. -/
def wQd (head b : Nat) (f : Lnk → Lnk) : State := ((wN 1 b id).wr bCtl F.Ctl.STRAP.HEAD head).updLnk f

theorem wit_DiscoveryComplete : (wQd 1 1 id).phase = .running ∧ InOrder (hdr0 0) (wQd 1 1 id) ∧ InOrder (hdr0 0) (wQd 0 1 id) ∧
    ((wQd 0 1 id).isHead = false ∧ (wQd 1 1 id).isHead = true ∧ (wQd 1 1 id).rd bLnk F.Lnk.LSTAT.HEADCONFLICT = 0 ∧
      (wQd 1 1 id).rd bLnk F.Lnk.LSTAT.READY = 0 ∧ (wQd 1 1 id).portUp 1 = true ∧ (wG 1 0).rd bLnk F.Lnk.LSTAT.READY = 1 ∧
      (wQd 1 1 (fun l => { l with stage := 1 })).lnk.stage = 1 ∧ (wQd 1 1 id).lnk.stage ≠ 1 ∧ (wQd 0 1 id).breakDue = false ∧
      ((wQd 1 1 (fun l => { l with mode := 1 })).lnk.mode = 1 ∧ ({ hdr0 0 with port := 1 } : PktHdr).port = 1) ∧
      InOrder { hdr0 0 with port := 1 } (wQd 1 1 id)) ∧
    ((hdr0 0).port = 0 ∧ (wQd 0 1 (fun l => { l with provIdx := some 4 })).lnk.provIdx = some 4) ∧
    (fits 0 3 2 0 = false ∧ fits 0 3 1 0 = true ∧ fits 0 0 0 0 = false ∧ (wQd 1 1 id).lnk.verified ≤ 1 ∧
      (wQd 0 1 id).portUp (1 - ((hdr0 0).port : Nat)) = true) ∧
    Arrives { hdr0 0 with bcast := true } (wQd 0 1 id) ∧
    (let s := { wN 0 0 id with cycle := 6000000, lnk := { token := some (0, 4) } }
     s.lnk.token = some (0, 4) ∧ s.breakDue = true ∧ s.portUp 0 = false ∧ s.portUp 1 = false ∧
       (s.wr (bLp 1) F.Lnk.PSTAT.UP 1).portUp 1 = true ∧
       (s.wr bCtl F.Ctl.STRAP.HEAD 1).isHead = true ∧ s.isHead = false) ∧
    (({ wF with cycle := 20000000 } : State).lnk.tokenSeen = false ∧ wF.thms.pwrAt = some 0 ∧ wF.isHead = false ∧
      0 + 20000000 ≤ ({ wF with cycle := 20000000 } : State).cycle) := by
  unfold Arrives InOrder; decide +kernel

/-! ### Hypotheses that can be met: calibration, the control path and the whole device -/

/-- Skein 31 with its parts changed by `f`. -/
def wK (f : Skein → Skein) : State := { wF.updSkein 31 f with cycle := 20000000 }

/-- A comparator's calibration with every figure zero but its residual. -/
def cal0 (r : Int) : CmpCal :=
  { pairOfs := List.replicate 8 0, residual := r, delayTrim := 0, thrErr := List.replicate 17 0 }

/-- Channel 511 with an incoming path just calibrated and its parts changed by `f`. -/
def wQc (f : Chan → Chan) : State := (wK id).updChan 511 (fun x => f { x with calReady := true, calAt := [0, 20000000] })

theorem wit_UnitCalibrationCompletes : (wK id).phase = .running ∧ (wK id).calOn 31 = true ∧
    ((∃ u ∈ ((wK id).skein 31).units, u.st = .inService) ∧
      (let s := wK (fun z => { z with units := z.units.map (fun u => { u with st := .inService }) })
       s.unitCount 31 .failed + s.unitCount 31 .inCal < 4 ∧
        ((oldestUnit (s.skein 31).units 0).all (fun x => x.2.freeFor s.tapNow)) = true)) ∧
    (let s := wK (fun z => { z with units := [{ st := .inCal, calStart := 18650000, rejects := 1 }] })
     (s.skein 31).units[0]? = some { st := .inCal, calStart := 18650000, rejects := 1 } ∧ 18650000 + 1350000 ≤ s.cycle ∧
       s.unitCount 31 .failed + s.unitCount 31 .inCal < 4 ∧
       (let y : VUnit := { st := .inCal, calStart := 18650000 }
        4 ≤ (wK (fun z => { z with units := List.replicate 4 y })).unitCount 31 .failed +
          (wK (fun z => { z with units := List.replicate 4 y })).unitCount 31 .inCal) ∧
       vernPlausible (List.replicate 16 64) = true ∧ vernPlausible (List.replicate 16 0) = false ∧ 1 + 1 < 3 ∧ 3 ≤ 2 + 1) ∧
    (((wK id).skein 31).run = none ∧ (wK id).rd bCal F.Cal.CCFG.DL_EN = 1 ∧
      ((wK id).skein 31).passAt + 10000000 ≤ (wK id).cycle ∧ (List.replicate 32 64).length = 32 ∧
      0 < (List.replicate 32 64).sum ∧ ((wK id).wr (bSk 31) F.Sk.TCSTAT.DLL_LOCK 1).dllLock 31 = true ∧
      ((wK id).skein 31).lockSince + 1310720 ≤ (wK id).cycle ∧ (wK id).dllLock 31 = false ∧
      (List.replicate 32 64).any (fun x => decide (512 * x < 8 * (64 * 32) ∨ 24 * (64 * 32) < 512 * x)) = false ∧
      (512 * 1 < 8 * (64 * 31 + 1))) ∧
    (let s := wK (fun z => { z with cellTarget := List.replicate 31 8 ++ [9] })
     (s.skein 31).cells.length = 32 ∧ (s.skein 31).cells[31]? ≠ (s.skein 31).cellTarget[31]? ∧
       (s.skein 31).cellTarget.length = 32 ∧ (∀ j, j < 31 → (s.skein 31).cells[j]? = (s.skein 31).cellTarget[j]?) ∧
       s.engRunning 31 = false ∧ (s.skein 31).trimAt + 1000 ≤ s.cycle) ∧
    State.reset.calOn 31 = false := by
  decide +kernel

theorem wit_UnitCalibrationCompletes_paths : (wK id).calOn 31 = true ∧
    (((wK id).skein 31).cmpNext ≠ 15 ∧ ((wK id).chan 511).calReady = false ∧
      (let z := (wK (fun z => { z with cmpNext := 15 })).skein 31
       z.cmpNext = 15 ∧ z.cmpAt + 400000 ≤ (wK id).cycle) ∧ (((wK id).chan 511).calAt[1]?).isSome = true) ∧
    ((wK id).domOn 31 = true ∧ (wK id).rd bCal F.Cal.CCFG.CMP_EN = 1 ∧ (wK id).pathFailed 511 1 = false ∧
      (wK id).rd (bCh 511) F.Ch.PESTAT.ACTIVE_PATH = 0 ∧
      cmpPlausible ((wK id).rd bCal F.Cal.CLIMIT.OFS_MAX) ((wK id).calHalf (rPath 511 1 1 + 3)) (cal0 16) = true ∧
      thrPlausible (cal0 16) = true ∧ cmpPlausible 9 0 (cal0 17) = false ∧ (((wK id).chan 511).rejects[1]?).getD 0 < 2 ∧
      2 ≤ ((((wK id).updChan 511 (fun x => { x with rejects := [0, 2] })).chan 511).rejects[1]?).getD 0) ∧
    (let s := wQc (fun x => { x with swapNow := true })
     (s.chan 511).calReady = true ∧ s.rd (bCh 511) F.Ch.PESTAT.TRK_LOWSWING_CH = 0 ∧
       s.pathFailed 511 1 = false ∧ s.rd (bCh 511) F.Ch.PESTAT.TRK_LOWSWING_CL = 0 ∧ s.rd (bCh 511) F.Ch.PESTAT.SETTLING = 0 ∧ (s.chan 511).swapNow = true ∧
       s.cycle ≤ ((s.chan 511).calAt[1]?).getD 0 + 10 * (max 1 (s.rd bCal F.Cal.CCFG.CMPPER) * 1000000)) ∧
    ((wK id).rd bCal F.Cal.CCFG.LVL_EN = 1 ∧ ((wK id).chan 511).lvlTrim[3]? = some 0 ∧
      (((wK id).chan 511).lvlAt[3]?).getD 0 + 10000 ≤ (wK id).cycle ∧ (-160 : Int).natAbs ≤ 160 ∧ 160 < (161 : Int).natAbs) ∧
    ((wJ 1 1).tbState = 1 ∧ (wJ 1 1).cals.pllAt ≤ (wJ 1 1).cycle ∧ (-50 : Int).natAbs ≤ 50 ∧ 50 < (51 : Int).natAbs) := by
  decide +kernel

/-- A deskew of skein 0 in progress, changed by `f`. -/
def wDk (f : Dsk → Dsk) : State := (wK id).updCals (fun x => { x with dsk := some (f { sk := 0 }) })

/-- Channel 0 of skein 0 enabled and named for a deskew; engine 0 stopped. -/
def wEn : State := (((wL 0 id).wr (bCh 0) F.Ch.PECFG.CH_EN 1).wr bCal F.Cal.CDSK.CHMASK 1).wr bCal F.Cal.CDSK.SK 0

/-- 14 echoes of every interpolator code without skew. -/
def obs0 : DeskewObs := { rising := List.replicate 16 (List.replicate 14 0), falling := List.replicate 16 (List.replicate 14 0) }

/-- A store at block `b`. -/
def store0 (b : Nat) : Store := { slot := 0, seq := 1, stamp := 0#64, data := [], nominal := true, block := b, stop := false }

theorem wit_CalibrationRunsComplete_deskew : (wK id).phase = .running ∧
    (let d : Dsk := { sk := 0, listen := [(0, 7, 19990000)] }
     (wDk (fun x => { x with listen := [(0, 7, 19990000)] })).cals.dsk = some d ∧ 19990000 + 10000 ≤ (wK id).cycle ∧
       0 ∉ d.seen ∧ 0 ∉ d.counted ∧ d.sk = 0 ∧
       (wDk (fun x => { x with listen := [(0, 8, 19990000)], seen := [0] })).cals.dsk =
         some { sk := 0, listen := [(0, 8, 19990000)], seen := [0] }) ∧
    (let s := wDk (fun x => { x with listen := [(0, 7, 19995000)] })
     (wK id).cycle < 19995000 + 10000 ∧ s.calOn 0 = true ∧ s.domOn 0 = true ∧ (s.chan 0).outCl ≠ true ∧ (s.chan 0).outCh ≠ true ∧
       (s.chan 0).lastCh = none ∧ (s.chan 0).lastCl = none) ∧
    ((([(0, 1)] : List (Nat × Nat)).find? (fun p => p.1 == 0)) = some (0, 1) ∧ 19000000 + 1 * 1000000 ≤ (wK id).cycle ∧
      (wK id).cycle < 19000001 + 1 * 1000000) ∧
    (let s := wDk (fun x => { x with pulse := [(0, 19989760)] })
     19989760 + 10240 ≤ s.cycle ∧ s.cals.dsk = some { sk := 0, pulse := [(0, 19989760)] } ∧ (s.chan 0).echoes = [] ∧
       dskPlausible (({ sk := 0, pulse := [(0, 19989760)] } : Dsk).obs 0) (s.rd bCal F.Cal.CLIMIT.DSK_MAX) 0 0 = false) ∧
    (let ks : List DskSkew := (List.range 16).flatMap (fun i => List.replicate 14 ⟨0, true, i, 0⟩ ++ List.replicate 14 ⟨0, false, i, 0⟩)
     ({ sk := 0, skews := ks } : Dsk).obs 0 = obs0 ∧ dskPlausible obs0 3 0 0 = true) ∧
    (let y : Stamp := { stamp0 with t := 19995000 * 512, ch := decide (wF.rd (bCh 0) F.Ch.EPCFG.ECHO_COMP = 1) }
     let s := (wDk (fun x => { x with pulse := [(0, 19992000)] })).updSkein 0 (fun z => { z with bus := [.stamp y] })
     (0, 19992000) ∈ [(0, 19992000)] ∧ (s.skein 0).bus = [.stamp y] ∧ y.g = 0 ∧
       (let q := { s with coarse := 20000000 }
        0 ≤ delta (q.toLocal (19992000 * 512)) y.t ∧ delta (q.toLocal (19992000 * 512)) y.t < 10240 * 512)) := by
  decide +kernel

theorem wit_CalibrationRunsComplete : wF.phase = .running ∧
    (let s := ((wK id).wr bCal F.Cal.CRUN.SKMASK (2 ^ 31)).wr bCal F.Cal.CRUN.ITEMS 15
     (s.rd bCal F.Cal.CRUN.SKMASK).testBit 31 = true ∧ s.rd bCal F.Cal.CRUN.ITEMS % 16 ≠ 0 ∧ s.calOn 31 = true ∧
       s.domOn 31 = true ∧ (s.skein 31).run = none ∧ (15 : Nat).testBit 0 = true) ∧
    ((wK (fun z => { z with run := some ⟨true, true, 1, 0, 0⟩ })).skein 31).run = some ⟨true, true, 1, 0, 0⟩ ∧
    (((wK (fun z => { z with firstDue := true })).skein 31).firstDue = true ∧
      ((wK (fun z => { z with heldTrig := true })).skein 31).firstDue = false ∧
      ((wK (fun z => { z with heldTrig := true })).skein 31).heldTrig = true ∧
      ((wK (fun z => { z with heldTrig := true })).trigFree 31) = true ∧ wF.rd (bThm + 8 * 31) F.Thm.TEMP.FAIL = 0 ∧
      ((wK id).wr (bThm + 8 * 31) F.Thm.TEMP.FAIL 1).rd (bThm + 8 * 31) F.Thm.TEMP.FAIL = 1 ∧
      ((wK (fun z => { z with trigAt := some 1 })).trigFree 31) = false) ∧
    (wEn.cals.dsk = none ∧ (List.range 16).filter (fun c => (wEn.rd bCal F.Cal.CDSK.CHMASK).testBit c) = [0] ∧
      wEn.rd bCal F.Cal.CDSK.SK = 0 ∧ wEn.calOn 0 = true ∧ wEn.domOn 0 = true ∧ wEn.engRunning 0 = false ∧ wEn.frozen = false ∧
      wEn.rd (bCh 0) F.Ch.PECFG.CH_EN = 1 ∧ (wEn.wr (bEng 0) F.Eng.ESTAT.STATE 2).engRunning 0 = true ∧
      (wEn.setReg (bThm + 0x28) 0#64).calOn 0 = false) ∧
    (wF.cals.store = none ∧ wF.rd bThm F.Thm.THMSTAT.STATE ≠ 3 ∧ (store0 1).stamp ≠ stampAt wF.nowFt ∧
      (store0 144).block ≠ 0 ∧ (store0 144).stop = false ∧ (store0 0).bad = false) ∧
    (wF.rd bCal F.Cal.CSTAT.READY = 0 ∧ wF.recValid 0 = false ∧ wF.recValid 0x100000 = false ∧ wF.recValid 0x200000 = false) ∧
    (let s := (wF.wr bCal F.Cal.MRPAGE.PAGE 48).wr bCal F.Cal.MRPAGE.WEN 1
     48 ≤ s.rd bCal F.Cal.MRPAGE.PAGE ∧ s.rd bCal F.Cal.MRPAGE.WEN = 1 ∧ wF.rd bCal F.Cal.MRPAGE.PAGE < 48 ∧
       wF.rd bCal F.Cal.MRPAGE.WEN = 0) := by
  decide +kernel

/-- The header of a record at `b`, without its check word. -/
def wHd (b : Nat) (s : State) : State :=
  (((s.setMramW b 0x5b51ca1b#32).setMramW (b + 4) 0x5b5120a2#32).setMramW (b + 16) (BitVec.ofNat 32 recLen)).setMramW (b + 20) 1#32

/-- A record at `b` that is good, with every value zero. -/
def wRec (b : Nat) (s : State) : State :=
  (wHd b s).setMramW (b + 60) (crc32 ((wHd b s).mramBytes b 60 ++ (wHd b s).mramBytes (b + 64) (recLen - 64)))

/-- Each of the three places can hold a good record (the clauses of CAL_RECORD_LOAD). -/
theorem wit_RecordValid (b : Nat) (s : State) : (wRec b s).recValid b = true := by
  have h : ∀ i, i ≠ b + 60 → (wRec b s).mramW i = (wHd b s).mramW i := fun i hi => mramW_setMramW_other _ _ _ _ hi
  have h1 : (wRec b s).mramBytes b 60 = (wHd b s).mramBytes b 60 := mramBytes_setMramW _ _ _ _ _ (by intro i hi; omega)
  have h2 : (wRec b s).mramBytes (b + 64) (recLen - 64) = (wHd b s).mramBytes (b + 64) (recLen - 64) :=
    mramBytes_setMramW _ _ _ _ _ (by intro i hi; omega)
  have h3 : (wRec b s).mramW (b + 60) = crc32 ((wHd b s).mramBytes b 60 ++ (wHd b s).mramBytes (b + 64) (recLen - 64)) :=
    mramW_setMramW_same _ _ _
  unfold State.recValid
  rw [h1, h2, h3, h _ (by omega), h _ (by omega), h _ (by omega), h _ (by omega)]
  unfold wHd
  rw [mramW_setMramW_other _ (b + 20) b _ (by omega), mramW_setMramW_other _ (b + 16) b _ (by omega),
    mramW_setMramW_other _ (b + 4) b _ (by omega), mramW_setMramW_same, mramW_setMramW_other _ (b + 20) (b + 4) _ (by omega),
    mramW_setMramW_other _ (b + 16) (b + 4) _ (by omega), mramW_setMramW_same,
    mramW_setMramW_other _ (b + 20) (b + 16) _ (by omega), mramW_setMramW_same, mramW_setMramW_same]
  simp

theorem wit_ControlPathComplete : wF.phase = .running ∧
    (let s := wF.wr (bEng 0) F.Eng.ECFG.HGRP 7
     s.unitsOf 7 ≠ [] ∧ s.hgroup 0 = 7 ∧ s.domOn 32 = true ∧ wF.unitsOf 0 ≠ []) ∧
    (let c : Commit := { group := 0, snap := [], at_ := none, waiting := [.cond 15] }
     let s := { wF with commits := [c] }
     s.unitSnap (.cond 15) = some [] ∧ s.unitIdle (.cond 15) = true ∧
       ((wO 2 0 id).wr (bCond 15) F.Trs.TCOND.DOM 3).unitIdle (.cond 15) = false) ∧
    (∀ b ∈ [Blk.ctl, .tb, .hif], wF.reachable (blkNo b * 0x10000 + 0xf8) = true) ∧
    (tget (fun _ => false) wF.onceDone (bCtl + 0x100) = false ∧ (1#32).getLsbD 0 ≠ wF.sealed ∧ (0#32).getLsbD 0 = wF.sealed ∧
      tget (fun _ => false) ({ wF with onceDone := [(bCtl + 0x100, true)] } : State).onceDone (bCtl + 0x100) = true ∧
      wF.rd bCtl F.Ctl.ERR.LOCKVIOL = 0) ∧
    (let s := wF.wr bCtl F.Ctl.CFG_EN (2 ^ 1)
     s.rd bCtl F.Ctl.CFG_EN = 2 ^ 1 ∧ s.cfgOn 1 = true ∧ s.cfgAt ≤ s.cycle ∧ s.cfgBusy 1 = false ∧
       (crc32c (s.cfgBytes 1)).toNat ≠ s.rd (bCtl + 8 * 1) F.Ctl.CFG.REF ∧
       (s.wr bCtl F.Ctl.HITCH_STAT.PEND 255).cfgBusy 1 = true) ∧
    (1#128 ≠ 0#128) := by
  decide +kernel

theorem wit_ControlPathComplete_vote : (∃ i, i < (wF.voted .band).length ∧ (1#128).getLsbD i = true) ∧
    (∀ i, i < (wF.voted .band).length → (1#128 <<< 127).getLsbD i = false) ∧
    (let s := { armed0 2 wF with cycle := 5001 }
     tget (fun _ => none) s.unlockAt (blkNo .thm) = some 5001 ∧ 5001 ≤ s.cycle ∧ (armed0 2 wF).armed (blkNo .thm) = true) := by
  decide +kernel

theorem wit_RegisterWritesComplete : wF.phase = .running ∧ 14#4 ≠ 15#4 ∧ wF.domOn (32 + 31) = true ∧
    (State.reset.phase = .running ∧ State.reset.domOn 32 = false) ∧
    (let b := bSlot 31 63
     let s := { wF with lowBuf := [(8 + 31, some (b + 0x18, 5#32))] }
     s.low (8 + 31) = some (b + 0x18, 5#32) ∧ wF.low (8 + 31) = none ∧ (wF.slot 31 63).mset ≠ some (wF.cycle, 3) ∧
       ((wF.updSlot 31 63 (fun x => { x with mset := some (5000, 3) })).slot 31 63).mset = some (5000, 3)) ∧ View.toggle ≠ .normal ∧
    ((wF.wr bCtl F.Ctl.ERR.LOCKVIOL 1).rd bCtl F.Ctl.ERR.LOCKVIOL = 1 ∧ (2#32).getLsbD 1 = true ∧
      (let s := wF.wr bCtl F.Ctl.ERR.LOCKVIOL 1
       (tget regReset ({ s with regs0 := s.regs } : State).regs0 (bCtl + 0x128)).getLsbD 1 = true)) ∧
    (0x80000 ≤ 0x80000 ∧ 0xffffc < 0x100000) := by
  decide +kernel

/-- The head with interrupts enabled and a lock violation recorded. -/
def wQi (head : Nat) : State := ((wG head 0).setReg (bCtl + F.Ctl.IRQEN.off) (BitVec.allOnes 64)).wr bCtl F.Ctl.ERR.LOCKVIOL 1

/-- Transfer engine 7 of the head: `len` words at word `mem`, DMAEN, BUSY. -/
def wQm (mem len en busy : Nat) : State :=
  ((((wG 1 0).wr (bDma 7) F.Hif.DMAMEM mem).wr (bDma 7) F.Hif.DMALEN.LEN len).wr bHif F.Hif.HIFCTL.DMAEN en).wr (bDma 7)
    F.Hif.DMASTAT.BUSY busy

theorem wit_HostInterfaceComplete : wF.phase = .running ∧
    ((wQi 1).irqSrc 32 = true ∧ (wQi 1).bit bCtl F.Ctl.IRQEN 32 = true ∧ (wQi 1).irqSent.testBit 32 = false ∧
      (wQi 1).isHead = true ∧ (wQi 1).domOn 84 = true ∧ (wQi 0).isHead = false ∧ (wQi 0).rd bLnk F.Lnk.LSTAT.READY = 1 ∧
      (wQi 0).portUp 0 = true ∧ (wQi 0).portUp 1 = true) ∧
    (wF.irqSrc 63 = false ∧ wF.irqLatch.testBit 63 = false ∧ wF.irqAt ≤ wF.cycle) ∧
    ((wQm 0 0 1 0).domOn 84 = true ∧ (wQm 0 0 1 0).rd (bDma 7) F.Hif.DMASTAT.BUSY = 0 ∧
      (wQm 0 0 1 0).rd (bDma 7) F.Hif.DMALEN.LEN * 4 = 0) ∧
    (let s := wQm (2 ^ 32 - 1) 1 1 0
     s.rd (bDma 7) F.Hif.DMAMEM * 4 + s.rd (bDma 7) F.Hif.DMALEN.LEN * 4 = 2 ^ 34 ∧ 0 < s.rd (bDma 7) F.Hif.DMALEN.LEN * 4 ∧
       s.rd bHif F.Hif.HIFCTL.DMAEN = 1 ∧ s.frozen = false ∧ (wQm (2 ^ 32 - 1) 1 0 0).rd bHif F.Hif.HIFCTL.DMAEN = 0 ∧
       (s.wr bMem F.Mem.MSTAT.FROZEN 1).frozen = true) ∧
    (let s := wQm (2 ^ 32 - 1) 2 1 0
     2 ^ 34 < s.rd (bDma 7) F.Hif.DMAMEM * 4 + s.rd (bDma 7) F.Hif.DMALEN.LEN * 4) ∧
    ((wQm 0 1 1 1).rd (bDma 7) F.Hif.DMASTAT.BUSY = 1 ∧ (wQm 0 1 1 1).portHas 71 (.dma 7) = false ∧
      ((wQm 0 1 1 1).updPort 71 (fun x => { x with wait := [req0 0 4 none (.dma 7) false] })).portHas 71 (.dma 7) = true) ∧
    ((wG 1 0).scanOn = false ∧ 5 ∈ [1, 2, 3, 4, 5] ∧ 16 ∈ [1, 2, 4, 8, 16] ∧ 2 ≤ 2 ∧ 5 ≤ 5 ∧ 6 ∉ [1, 2, 3, 4, 5] ∧ ¬ 3 ≤ 2 ∧
      1000000 ≤ ({ wG 1 0 with cycle := 1000000 } : State).cycle ∧ (wG 1 0).cycle < 1000000) ∧
    (({ wQi 0 with irqLatch := 2 ^ 32 } : State).irqLatch.testBit 32 = true ∧ ({ wQi 1 with irqLatch := 2 ^ 32 } : State).isHead = true ∧
      ((wQi 0).wr bLnk F.Lnk.LSTAT.READY 0).irqPath = false) ∧
    ((wQm 0 1 1 1).frozen = false ∧ ((wQm 0 1 1 1).dma 7).stop = 0 ∧
      (((wG 1 0).updHring 4095 (fun x => { x with expect := some 7 })).hring 4095).expect = some 7 ∧
      ((wG 1 0).hring 4095).expect = none) := by
  decide +kernel

theorem wit_BoundaryScanCompletes : State.reset.phase ≠ .off ∧ State.reset.scanOn = false ∧ State.reset.phase = .running ∧
    ({ State.reset with jtag := { ir := 0x09#8 } } : State).scanOn = true ∧ 0xff#8 ≠ 0x09#8 ∧
    ({ State.reset with phase := .off } : State).phase = .off := by
  decide +kernel

theorem wit_BoundaryScanCompletes_lines :
    ((State.reset.dom 3).pulse.isSome = false ∧ State.reset.firePulled 3 = true) ∧
    (let s := { wO 2 0 (fun x => { x with pulse := some 6000 }) with jtag := { bsr := BitVec.allOnes 1168 } }
     (s.dom 3).pulse.isSome = true ∧ s.firePulled 3 = false) := by
  refine ⟨⟨by decide +kernel, by simp [State.firePulled, State.reset]⟩, by decide +kernel, ?_⟩
  show (!(BitVec.allOnes 1168).getLsbD (Config.fireCell 3 % 1168)) = false
  rw [BitVec.getLsbD_allOnes]
  simp [Nat.mod_lt]

theorem wit_PowerCommandsComplete : ({ State.reset with phase := .held } : State).phase = .held ∧ State.reset.cals.store = none ∧
    (let s := State.reset
     let waits := fun e : Nat => s.domEn e && !s.domOn e && !s.thms.rising.any (fun p => p.1 == e)
     waits (domOrder.head?.getD 0) = true ∧ s.thms.onAt ≤ s.cycle ∧ domOrder.head?.getD 0 < 96) ∧
    ((State.reset.updThms (fun x => { x with rising := [(95, 0)] })).thms.rising.any (fun p => p.1 == 95) = true ∧
      State.reset.rd bCal F.Cal.CSTAT.READY = 0) ∧
    (let s := (wF.setReg (bThm + 0x18) (BitVec.allOnes 64 - 1#64)).setReg (bThm + 0x20) 0xffffffff#64
     let falls := fun e : Nat => !s.domEn e && (s.domOn e || s.thms.rising.any (fun p => p.1 == e))
     falls 0 = true ∧ (∀ e ∈ domOrder.reverse.takeWhile (· != 0), falls e = false) ∧ s.thms.offAt ≤ s.cycle) ∧
    (let s := armed0 2 (allOn State.reset)
     s.armed 2 = true ∧ s.sealed = false ∧ viewVal .set (s.reg (bThm + 0x18)) 0#64 = s.reg (bThm + 0x18) ∧
       (∀ d, d < 96 → s.pdFault s.domEn d = false) ∧
       s.pdFault (fun d => if d = 32 then false else s.domEn d) 32 = true ∧
       (∀ e, e < 32 → s.pdFault (fun d => if d = 32 then false else s.domEn d) e = false)) ∧
    (State.reset.armed 2 = false ∧ viewVal .clear (State.reset.reg (bThm + 0x18)) 1#64 ≠ State.reset.reg (bThm + 0x18)) ∧
    (let s := armed0 2 (allOn State.reset)
     let w := 0x100000001#64
     let x := s.reg (bThm + 0x18)
     w &&& loMask ≠ 0#64 ∧ w &&& hiMask ≠ 0#64 ∧ viewVal .toggle x (w &&& loMask) ≠ viewVal .toggle x w ∧
       (∀ d, d < 96 → s.pdFault (fun d => if d < 64 then (viewVal .toggle x (w &&& loMask)).getLsbD d else s.domEn d) d = false)) ∧
    (({ wF with cycle := 5000 }.updThms (fun x => { x with shutAt := some 4000 })).thms.shutAt = some 4000) := by
  decide +kernel

theorem wit_DeviceStandsStill : ¬ Outside (.packetCrcError 1) ∧ ({ State.reset with phase := .held } : State).phase = .held ∧
    ({ State.reset with phase := .undefined } : State).phase = .undefined := by
  refine ⟨?_, rfl, rfl⟩
  unfold Outside
  simp

theorem wit_ThermalCommandsComplete : wF.phase = .running ∧ wF.thms.nextAt ≤ wF.cycle ∧
    wF.cycle < (wF.updThms (fun x => { x with nextAt := 5001 })).thms.nextAt ∧ wF.rd bThm F.Thm.THMSTAT.STATE ≠ 3 ∧
    (List.replicate 40 (some (2400 : Int)))[38]? = some (some 2400) ∧ wF.rd (bThm + 8 * 38) F.Thm.TEMP.FAIL = 0 ∧
    2 ≤ ((wF.updSens 38 (fun x => { x with bad := 2 })).sens 38).bad ∧
    ((armed0 2 wF).armed 2 = true ∧ (armed0 2 wF).sealed = false ∧ wF.armed 2 = false ∧
      fget (viewVal .normal (wF.reg (bThm + 0x10)) 0#64) 23 0 ≠ fget (wF.reg (bThm + 0x10)) 23 0) ∧
    (let s := (wF.wr bThm F.Thm.AVSCFG.EN 1).updThms (fun x => { x with avsRun := true, avsFails := 2 })
     s.rd bThm F.Thm.AVSCFG.EN = 1 ∧ s.thms.pwrAt.isSome = true ∧ s.thms.avsStop = false ∧ s.thms.avsAt ≤ s.cycle ∧
       s.thms.avsRun = true ∧ 3 ≤ s.thms.avsFails + 1 ∧
       ((s.wr bThm F.Thm.AVSCFG.MARGIN 20).rd bThm F.Thm.AVSCFG.MARGIN : Int) = 20) ∧
    (∀ a ∈ [(0 : Int), 5], 0 ≤ a) := by
  decide +kernel

theorem wit_ThermalCommandsComplete_start : let s := wF.wr bThm F.Thm.AVSCFG.EN 1
    s.rd bThm F.Thm.AVSCFG.EN = 1 ∧ s.thms.pwrAt.isSome = true ∧ s.thms.avsStop = false ∧ s.thms.avsAt ≤ s.cycle ∧
      [(5 : Int)] ≠ [] ∧ s.thms.avsRun = false ∧ avsVersionOk 13 = true ∧ avsVersionOk 12 = false ∧ s.thms.avsFails = 0 := by
  decide +kernel

theorem wit_EmptyQueueTicks : State.reset.pending = [] ∧ State.reset.phase = .running ∧
    wE.pending = [] ∧ wE.engState 0 = 2 ∧ wE.engState 31 = 0 := by
  decide +kernel

theorem wit_TymRoundTrip : tymParts (.tymAdd 31 { ops 15 15 15 (-1) with form := true, cond := 15#4 }) =
      some (31, 0x61#8, { ops 15 15 15 (-1) with form := true, cond := 15#4 }) ∧
    tymOneForm (.tymAdd 31 (ops 0 0 0 0)) = false ∧ tymOneForm (.tymNop 31 (ops 0 0 0 0)) = true ∧
    tymDecode 31 0#64 = some (.tymNop 31 (ops 0 0 0 0)) ∧ (0x0cff000000000000#64).extractLsb' 56 8 = 0x0c#8 := by
  decide +kernel

theorem wit_InvariantKept : Inv { wF with pending := [.tbctlAlign] } ∧
    ∃ t, step { wF with pending := [.tbctlAlign] } = .next t :=
  ⟨by constructor <;> decide +kernel, _, rfl⟩

/-! ### What WellFormed refuses -/

/-- A header of one unit. -/
def hdr1 : PktHdr := { hdr0 5 with len := 1 }

theorem test_wf_ranges : ∀ i ∈ [Instr.thmSample (List.replicate 39 none), .avsStep [] 0 0 0 0 0,
    .avsStep (List.replicate 24 0) 65536 0 0 0 0, .avsStep (List.replicate 24 0) 0 65536 0 0 0,
    .avsStep (List.replicate 24 0) 0 0 32768 0 0, .avsStep (List.replicate 24 0) 0 0 0 4 0,
    .pmuConversionComplete 0 [1, 2, 3] false false, .pmuConversionComplete 0 [262144] false false,
    .edge 0 0 .ch true 1000000, .vernierCalComplete 0 0 [], .portUp 0 [1, 2, 3], .portUp 0 [2048, 0, 0, 0],
    .linkctl 0 0 false 0 65536,
    .dlcellPass 0 [], .cmppathCalComplete 0 0 { cal0 0 with pairOfs := [] } (cal0 0),
    .cmppathCalComplete 0 0 (cal0 0) { cal0 0 with thrErr := [] }, .pcieLinkUp 16 0 0 0 true, .pcieLinkUp 0 64 0 0 true,
    .pcieLinkUp 0 0 8 0 true, .pcieLinkUp 0 0 0 8 true], i.wf = false := by
  decide +kernel

theorem test_wf_packets : ∀ i ∈ [Instr.armreq (hdr0 5) 0 0 false, .armreq { hdr1 with len := 68 } 0 0 false,
    .armreq hdr1 0 (2 ^ 52) false, .rread (hdr0 5) 0 true, .rwrite (hdr0 5) 0 true 0, .rresp (hdr0 5) 0 0,
    .sched hdr1 (2 ^ 52) 1 0 0, .sched hdr1 0 0 0 0, .sched hdr1 0 5 0 0, .sched hdr1 0 1 0 (2 ^ 48), .signalPacket (hdr0 5) 0,
    .irqPacket { hdr1 with tag := 64 }, .streamPacket hdr1 0 0 [0], .streamPacket { hdr1 with tag := 64 } 0 0 [],
    .strack { hdr1 with tag := 64 } 0, .disc hdr1 128 false false false, .fixup hdr1 128, .verify hdr1 128 0,
    .verify hdr1 0 128, .done hdr1 128 0, .done hdr1 0 4, .unknownPacket hdr1 0x43], i.wf = false := by
  decide +kernel

theorem test_wf_form : ∀ c ∈ [Instr.tymNop, .tymJmp, .tymJcc, .tymCall, .tymRet, .tymLoop, .tymEndl, .tymRpt, .tymHalt,
    .tymWaitt, .tymWaite, .tymSyncb, .tymMov, .tymMovi, .tymLsel, .tymLmov, .tymPset, .tymPand, .tymVeci, .tymVsub, .tymLevel,
    .tymMatch, .tymFailm, .tymGate, .tymMwait, .tymMget, .tymMgetLane, .tymMclr, .tymMark, .tymEmit, .tymArm, .tymFire,
    .tymTwait, .tymSignal], (c 0 { ops 0 0 0 0 with form := true }).wf = false := by
  decide +kernel

theorem test_wf_accepts : ∀ i ∈ [Instr.thmSample (List.replicate 40 none), .pmuConversionComplete 0 [262143, -262144] false false,
    .edge 0 0 .ch true 999999, .sched hdr1 (2 ^ 52 - 1) 4 0 (2 ^ 48 - 1), .unknownPacket hdr1 0x05,
    .tymAdd 0 { ops 0 0 0 0 with form := true }, .tymJmp 0 (ops 0 0 0 0)], i.wf = true := by
  decide +kernel

/-! ### Words of the encoding of R155: OP [63:56], COND [55:52], DST [51:48], SRCA [47:44], SRCB [43:40], IMM [39:0] -/

/-- Control (R161): `JMP #5`, condition 0. -/
theorem test_word_jmp : tymDecode 0 0x0100000000000005#64 = some (.tymJmp 0 (ops 0 0 0 5)) := by decide +kernel

/-- Scalar (R167): `ADD g1, g2, g3`, opcode 0x60, and the immediate form, 0x61, with #-1. -/
theorem test_word_add : tymDecode 0 0x6001230000000000#64 = some (.tymAdd 0 (ops 1 2 3 0)) ∧
    tymDecode 0 0x610120ffffffffff#64 = some (.tymAdd 0 { ops 1 2 0 (-1) with form := true }) := by decide +kernel

/-- Lanes (R171): the worked encoding of the manual, `LCMP.p1 p2, l3, #0, LT` is 0x7C92_3040_0000_0000. -/
theorem test_word_lcmp : tymDecode 0 0x7c92304000000000#64 =
    some (.tymLcmp 0 { form := true, cond := 0b1001#4, dst := 2, srca := 3, srcb := 0, imm := 0x4000000000 }) := by
  decide +kernel

/-- Vectors (R191), measurement (R200), triggers (R206): `VEC g3, #12`, MSET, ARM. -/
theorem test_word_vector_families : tymDecode 0 0x200030000000000c#64 = some (.tymVec 0 (ops 0 3 0 12)) ∧
    tymDecode 0 0x4000300000000000#64 = some (.tymMset 0 (ops 0 3 0 0)) ∧
    tymDecode 0 0x8202300000000000#64 = some (.tymArm 0 (ops 2 3 0 0)) := by decide +kernel

/-- No table assigns opcode 0x0C or 0x90 (R157). -/
theorem test_word_unassigned : tymDecode 0 0x0c00000000000000#64 = none ∧ tymDecode 0 0x9000000000000000#64 = none := by
  decide +kernel

/-! ### Worked figures of the manual -/

/-- The check values over "123456789" (R181, R306). -/
theorem test_crc_check_values :
    crc32 [0x31, 0x32, 0x33, 0x34, 0x35, 0x36, 0x37, 0x38, 0x39] = 0xcbf43926#32 ∧
    crc32c [0x31, 0x32, 0x33, 0x34, 0x35, 0x36, 0x37, 0x38, 0x39] = 0xe3069283#32 := by decide +kernel

/-- A vector with state 2, 9, 1, 1 on channels 0 to 3 and the same codes on 4 to 15, timing set 1, at position 1 of a line
(the worked encoding beside R182). -/
theorem test_vector_in_line :
    lineVec (List.replicate 18 0 ++ [0x92, 0x11, 0x92, 0x11, 0x92, 0x11, 0x92, 0x11, 0x01, 0x00]) 1 =
      { eor := false, ftrg := false, nolatch := false, tsi := 1, state := 0x1192119211921192#64 } ∧
    (vecOf 0x80000002000200020002).eor = true := by decide +kernel

/-- A = 0x1_2345_6780 goes to PC 10, and to SID 0, bank group 2, bank 0, row 4,660 (the worked address beside R257). -/
theorem test_home_of_an_address : State.reset.pcOf 0x123456780 = 10 ∧
    State.reset.rowKey 0x123456780 = 4660 * 32 + 0 * 16 + 2 := by decide +kernel

/-- The stamps of the example "Eight stamps, worked". -/
def eight : List Ev := [0, 2049, 4095, 6145, 8191, 10241, 12287, 14337].map (fun t => Ev.mk (1024000100 + t) .fine true false)

/-- Their FREQ result: RES 4,194,279,619,189,342, AUX.SECOND 463, CNT.N 8; and as PER, RES 16,384,095. -/
theorem test_eight_stamps :
    let f := fun ty : Nat => { fin0 ty with o := 1024000000, c := 1024014438 }
    let r := fun ty : Nat => (computeRes wF (f ty) eight []).1
    (r 1).res.toNat = 4194279619189342 ∧ (r 1).second = 463 ∧ (r 1).n = 8 ∧ (r 3).res.toNat = 16384095 := by
  decide +kernel

/-- "Four pairs and one loner": RES 82,000, AUX.SECOND 4, CNT.N 5, flags SHED, UNRESOLVED and UNPAIRED (bits 2, 4, 5). -/
theorem test_four_pairs :
    let a := [3584163, 3635363, 3686563, 3737763, 3788963].map (fun t => Ev.mk t .fine true false)
    let b := [Ev.mk 3584162 .fine true false, Ev.mk 3635355 .fine true false, Ev.mk 3686568 .shed true false,
      Ev.mk 3737808 .fine true false]
    let r := (computeRes { wF with holdLog := [] } { fin0 4 with o := 3584000, c := 3790000, param := 512#64 } a b).1
    r.res.toNat = 82000 ∧ r.second = 4 ∧ r.n = 5 ∧ r.flags = 4 + 16 + 32 := by
  decide +kernel

/-- The worked address of the control path: device window offset 0x0001_5010 is the set view of TBSTAT, and 0x40 sets LOSS. -/
theorem test_set_view_of_tbstat : ∃ t, exec (.registerWrite 0x15010#23 0x40#32 15#4) wF = .next t ∧
    t.rd bTb F.Tb.TBSTAT.LOSS = 1 ∧ t.rd bTb F.Tb.TBSTAT.STATE = wF.rd bTb F.Tb.TBSTAT.STATE :=
  ⟨_, rfl, by decide +kernel⟩

/-- ADD wraps, SHR arithmetic keeps the sign, and a source may be the destination (R167, R168, R169). -/
theorem test_scalar_corners :
    (∃ t, exec (.tymAdd 0 (ops 1 1 2 0)) (hold (.tymAdd 0 (ops 1 1 2 0)) (withG 1 (BitVec.allOnes 64) (withG 2 1#64 wE))) = .next t ∧
      t.g 0 1 = 0#64 ∧ t.flags 0 = { z := true, n := false, c := true, v := false }) ∧
    (∃ t, exec (.tymShr 0 { ops 1 1 0 (64 + 63) with form := true })
      (hold (.tymShr 0 { ops 1 1 0 (64 + 63) with form := true }) (withG 1 (1#64 <<< 63) wE)) = .next t ∧
      t.g 0 1 = BitVec.allOnes 64) :=
  ⟨⟨_, rfl, by decide +kernel⟩, ⟨_, rfl, by decide +kernel⟩⟩

end Sys2Proof.Machine.Tests
end

section
/-! SUPPORT. What a stamp meets on its way to its consumers (R8, R55-R69): the registers that accounting, measurement and
power read of it, and what the operations of capture and delivery leave alone. -/

namespace Sys2Proof.Machine

open Host

variable {s t u : State}

/-! ### Loops -/

theorem foldl_keeps_mem {α : Type} (P : State → Prop) (f : α → State → State) (l : List α)
    (h : ∀ a ∈ l, ∀ t, P t → P (f a t)) (hs : P s) : P (l.foldl (fun t a => f a t) s) := by
  induction l generalizing s with
  | nil => exact hs
  | cons a l ih =>
    exact ih (fun b hb => h b (List.mem_cons_of_mem a hb)) (h a (List.mem_cons_self ..) s hs)

theorem forN_keeps_lt (P : State → Prop) (n : Nat) (f : Nat → State → State) (h : ∀ i < n, ∀ t, P t → P (f i t))
    (hs : P s) : P (forN n f s) := foldl_keeps_mem P f _ (fun i hi => h i (List.mem_range.mp hi)) hs

theorem forL_keeps_mem {α : Type} (P : State → Prop) (l : List α) (f : α → State → State)
    (h : ∀ a ∈ l, ∀ t, P t → P (f a t)) (hs : P s) : P (forL l f s) := foldl_keeps_mem P f l h hs

/-- A loop that meets `a` once, whose pass for `a` leads from `P` to `Q` while every other pass keeps each of them. -/
theorem foldl_meets {α : Type} {P Q : State → Prop} (f : α → State → State) (l : List α) (a : α) (hn : l.Nodup)
    (ha : a ∈ l) (hP : ∀ b ∈ l, b ≠ a → ∀ t, P t → P (f b t)) (hQ : ∀ b ∈ l, b ≠ a → ∀ t, Q t → Q (f b t))
    (hit : ∀ t, P t → Q (f a t)) (hs : P s) : Q (l.foldl (fun t a => f a t) s) := by
  obtain ⟨pre, post, rfl⟩ := List.append_of_mem ha
  have hd := List.nodup_append.mp hn
  have hpost : a ∉ post := (List.nodup_cons.mp hd.2.1).1
  have hpre : ∀ b ∈ pre, b ≠ a := fun b hb => hd.2.2 b hb a (List.mem_cons_self ..)
  rw [List.foldl_append, List.foldl_cons]
  refine foldl_keeps_mem Q f post (fun b hb => hQ b (by simp [hb]) (fun h => hpost (h ▸ hb))) (hit _ ?_)
  exact foldl_keeps_mem P f pre (fun b hb => hP b (by simp [hb]) (hpre b hb)) hs

/-! ### The registers that a stamp is judged by -/

/-- The offset of SCFG of the slot with key `i` = 64k + j. -/
def scfgOff (i : Nat) : Nat := bSlot (i / 64) (i % 64)

/-- The registers that the delivery of a stamp reads and its accounting writes: PDSTAT and PDSTAT1, the live counters of the
channels (0x40 to 0x7f of a channel's registers) and SCFG of the slots. -/
def Watched (x : Nat) : Prop :=
  x = bThm + F.Thm.PDSTAT.off ∨ x = bThm + F.Thm.PDSTAT1.off ∨ (0x100000 ≤ x ∧
    ((x % 0x10000 < 0x1000 ∧ 0x40 ≤ x % 0x100 ∧ x % 0x100 < 0x80) ∨
     (0x2000 ≤ x % 0x10000 ∧ x % 0x10000 < 0x3000 ∧ x % 0x40 = 0)))

theorem not_watched_ctl {x : Nat} (h : x < 0x10000) : ¬ Watched (bCtl + x) := by
  simp only [Watched, bCtl, bThm, F.Thm.PDSTAT, F.Thm.PDSTAT1]; omega

theorem not_watched_cal {x : Nat} (h : x < 0x10000) : ¬ Watched (bCal + x) := by
  simp only [Watched, bCal, bThm, F.Thm.PDSTAT, F.Thm.PDSTAT1]; omega

theorem not_watched_trs {x : Nat} (h : x < 0x10000) : ¬ Watched (bTrs + x) := by
  simp only [Watched, bTrs, bThm, F.Thm.PDSTAT, F.Thm.PDSTAT1]; omega

theorem not_watched_str {i : Nat} (hi : i < 64) {f : Fld} (hf : f.off < 0x2000) : ¬ Watched (bStr i + f.off) := by
  rw [bStr, Nat.add_assoc]; exact not_watched_trs (by omega)

theorem not_watched_cond {i : Nat} (hi : i < 16) {f : Fld} (hf : f.off < 0x2000) : ¬ Watched (bCond i + f.off) := by
  rw [bCond, Nat.add_assoc]; exact not_watched_trs (by omega)

theorem not_watched_dom {d : Nat} (hd : d < 4) {f : Fld} (hf : f.off < 0x2000) : ¬ Watched (bDom d + f.off) := by
  rw [bDom, Nat.add_assoc]; exact not_watched_trs (by omega)

/-- The snapshots and the echo registers of a channel are none of them. -/
theorem not_watched_ch (g : Nat) {f : Fld} (hl : 0x80 ≤ f.off) (hh : f.off < 0x100) : ¬ Watched (bCh g + f.off) := by
  simp only [Watched, bCh, bSkein, bThm, F.Thm.PDSTAT, F.Thm.PDSTAT1]; omega

theorem not_watched_sk (k : Nat) {f : Fld} (hf : f.off < 0x1000) : ¬ Watched (bSk k + f.off) := by
  simp only [Watched, bSk, bSkein, bThm, F.Thm.PDSTAT, F.Thm.PDSTAT1]; omega

theorem not_watched_slot (k : Nat) {j : Nat} (hj : j < 64) {y : Nat} (hl : 0 < y) (hh : y < 0x40) :
    ¬ Watched (bSlot k j + y) := by
  simp only [Watched, bSlot, bSkein, bThm, F.Thm.PDSTAT, F.Thm.PDSTAT1]; omega

theorem watched_scfg (k : Nat) {j : Nat} (hj : j < 64) : Watched (bSlot k j) := by
  simp only [Watched, bSlot, bSkein, bThm, F.Thm.PDSTAT, F.Thm.PDSTAT1]; omega

theorem watched_counter (g : Nat) {f : Fld} (hf : f ∈ liveCounters) : Watched (bCh g + f.off) := by
  have hoff : 0x40 ≤ f.off ∧ f.off < 0x80 := (show ∀ f ∈ liveCounters, 0x40 ≤ f.off ∧ f.off < 0x80 by decide) f hf
  simp only [Watched, bCh, bSkein, bThm, F.Thm.PDSTAT, F.Thm.PDSTAT1]; omega

theorem scfgOff_key (k : Nat) {j : Nat} (hj : j < 64) : scfgOff (64 * k + j) = bSlot k j := by
  rw [scfgOff, show (64 * k + j) / 64 = k by omega, show (64 * k + j) % 64 = j by omega]

theorem scfgOff_inj {i j : Nat} (h : scfgOff i = scfgOff j) : i = j := by
  simp only [scfgOff, bSlot, bSkein] at h; omega

/-- No counter is the SCFG of a slot. -/
theorem scfgOff_ne_counter (i g : Nat) {f : Fld} (hf : f ∈ liveCounters) : bCh g + f.off ≠ scfgOff i := by
  have hoff : f.off < 0x80 := (show ∀ f ∈ liveCounters, f.off < 0x80 by decide) f hf
  simp only [scfgOff, bSlot, bCh, bSkein]; omega

theorem scfgOff_ne_low (i : Nat) {x : Nat} (h : x < 0x100000) : x ≠ scfgOff i := by
  simp only [scfgOff, bSlot, bSkein]; omega

/-! ### Operations beside the slots and the counters -/

/-- The watched registers hold what they held. -/
def WatchKept (s t : State) : Prop := ∀ x, Watched x → t.reg x = s.reg x

/-- From `s` to `t` no watched register, no slot, no skein's capture, no byte of the stack and nothing of the timebase has
changed. -/
structure Beside (s t : State) : Prop where
  regs : WatchKept s t
  slots : t.slots = s.slots
  skeins : t.skeins = s.skeins
  hbm : t.hbm = s.hbm
  tbs : t.tbs = s.tbs

theorem Beside.refl (s : State) : Beside s s := ⟨fun _ _ => rfl, rfl, rfl, rfl, rfl⟩

theorem Beside.trans (h : Beside s t) (g : Beside t u) : Beside s u :=
  ⟨fun x hx => (g.regs x hx).trans (h.regs x hx), g.slots.trans h.slots, g.skeins.trans h.skeins, g.hbm.trans h.hbm,
    g.tbs.trans h.tbs⟩

/-- What has the same registers, slots, skeins, stack and timebase. -/
theorem Beside.still (h : Beside s t) (hr : u.regs = t.regs) (hs : u.slots = t.slots) (hk : u.skeins = t.skeins)
    (hm : u.hbm = t.hbm) (ht : u.tbs = t.tbs) : Beside s u :=
  h.trans ⟨fun x _ => by unfold State.reg; rw [hr], hs, hk, hm, ht⟩

theorem Beside.updChan (h : Beside s t) {g : Nat} {f : Chan → Chan} : Beside s (t.updChan g f) :=
  h.still rfl rfl rfl rfl rfl

theorem Beside.updStrm (h : Beside s t) {i : Nat} {f : Strm → Strm} : Beside s (t.updStrm i f) :=
  h.still rfl rfl rfl rfl rfl

theorem Beside.updDom (h : Beside s t) {d : Nat} {f : Dom → Dom} : Beside s (t.updDom d f) := h.still rfl rfl rfl rfl rfl

theorem Beside.updCals (h : Beside s t) {f : Cals → Cals} : Beside s (t.updCals f) := h.still rfl rfl rfl rfl rfl

theorem Beside.out (h : Beside s t) {o : Out} : Beside s (t.out o) := h.still rfl rfl rfl rfl rfl

theorem Beside.setReg (h : Beside s t) {x : Nat} (hx : ¬ Watched x) (w : Word) : Beside s (t.setReg x w) :=
  h.trans ⟨fun y hy => reg_setReg_other t x y w (fun e => hx (e ▸ hy)), rfl, rfl, rfl, rfl⟩

theorem Beside.wr (h : Beside s t) {b : Nat} {f : Fld} (hx : ¬ Watched (b + f.off)) (v : Nat) : Beside s (t.wr b f v) :=
  h.setReg hx _

theorem Beside.inc (h : Beside s t) {b : Nat} {f : Fld} (hx : ¬ Watched (b + f.off)) (n : Nat) : Beside s (t.inc b f n) :=
  h.setReg hx _

theorem Beside.setBit (h : Beside s t) {b : Nat} {f : Fld} (hx : ¬ Watched (b + f.off)) (i : Nat) (v : Bool) :
    Beside s (t.setBit b f i v) := h.setReg hx _

theorem Beside.raise (h : Beside s t) {b : Nat} {f : Fld} (hx : ¬ Watched (b + f.off)) (i : Nat) :
    Beside s (t.raise b f i) := (h.setReg hx _).still rfl rfl rfl rfl rfl

theorem Beside.setTw (h : Beside s t) {x : Nat} {w : BitVec 32} : Beside s (t.setTw x w) := h.still rfl rfl rfl rfl rfl

theorem Beside.setRaised (h : Beside s t) {r : Table Word} : Beside s { t with raised := r } :=
  h.still rfl rfl rfl rfl rfl

theorem Beside.setCommits (h : Beside s t) {l : List Commit} : Beside s { t with commits := l } :=
  h.still rfl rfl rfl rfl rfl

theorem Beside.setCondCnt (h : Beside s t) {c : Table Nat} : Beside s { t with condCnt := c } :=
  h.still rfl rfl rfl rfl rfl

theorem Beside.clr (h : Beside s t) {b : Nat} {f : Fld} (hx : ¬ Watched (b + f.off)) : Beside s (t.clr b f) :=
  (h.setReg hx _).still rfl rfl rfl rfl rfl

theorem Beside.ite {v : State} {c : Prop} [Decidable c] (hu : Beside s u) (hv : Beside s v) :
    Beside s (if c then u else v) := by
  split
  · exact hu
  · exact hv

/-! ### Driver deskew and echoes (R91, R330-R332) -/

/-- The deskew in progress, if there is one, is that of a skein of the device. -/
def DskIn (s : State) : Prop := ∀ d, s.cals.dsk = some d → d.sk < 32

theorem beside_calBusy (h : Beside s t) : Beside s (calBusy t) := h.wr (not_watched_cal (by decide)) _

theorem beside_dskCount (c : Nat) (h : Beside s t) : Beside s (dskCount c t) := by
  unfold dskCount
  split
  · exact h
  · split
    · exact h
    · exact h.updCals.inc (not_watched_cal (by decide)) _

theorem dskIn_dskCount (c : Nat) (hd : DskIn s) : DskIn (dskCount c s) := by
  unfold dskCount
  split
  · exact hd
  · rename_i d hs
    split
    · exact hd
    · intro d' hd'
      cases hd'
      exact hd d hs

theorem beside_dskSweep (hd : DskIn t) (h : Beside s t) : Beside s (dskSweep t) := by
  unfold dskSweep
  split
  · exact h
  · rename_i d hs
    split
    · refine beside_calBusy (h.updCals.wr ?_ _)
      have := hd d hs
      rw [Nat.add_assoc]
      exact not_watched_cal (by simp only [F.Cal.CSKSTAT.DSK]; omega)
    · exact h

theorem beside_dskFinal {c : Nat} (hc : c < 16) (code : Nat) (hd : DskIn t) (h : Beside s t) :
    Beside s (dskFinal c code t) := by
  unfold dskFinal
  split
  · exact h
  · rename_i d hs
    refine (h.updCals.wr ?_ _).updChan
    have := hd d hs
    rw [Nat.add_assoc]
    exact not_watched_cal (by simp only [F.Cal.CCHQ.DSKST]; omega)

theorem dskIn_dskFinal (c code : Nat) (hd : DskIn s) : DskIn (dskFinal c code s) := by
  unfold dskFinal
  split
  · exact hd
  · rename_i d hs
    intro d' hd'
    cases hd'
    exact hd d hs

theorem beside_dskStray {g : Nat} (hg : g < 512) (ch : Bool) (x : Nat) (h : Beside s t) : Beside s (dskStray g ch x t) := by
  unfold dskStray
  split
  · exact h
  · rename_i d hs
    dsimp only
    split
    · rename_i hc
      have hd : DskIn t := fun d' hd' => by
        rw [hs] at hd'
        cases hd'
        have := hc.1
        omega
      have hd1 := dskIn_dskCount (g % 16) hd
      exact beside_dskSweep (dskIn_dskFinal _ _ hd1)
        (beside_dskFinal (Nat.mod_lt _ (by decide)) _ hd1 (beside_dskCount _ h))
    · exact h

theorem beside_noteListen {g : Nat} (hg : g < 512) (h : Beside s t) : Beside s (noteListen g t) := by
  unfold noteListen
  split
  · exact h
  · refine Beside.ite ((beside_dskCount _ h.updCals).wr ?_ _) h
    rw [Nat.add_assoc]
    exact not_watched_cal (by simp only [F.Cal.CCHQ.DSKST]; omega)

theorem beside_echoMiss (g : Nat) (h : Beside s t) : Beside s (echoMiss g t) := by
  unfold echoMiss
  exact Beside.ite (h.inc (not_watched_ch g (by decide) (by decide)) 1) h

theorem beside_echoLockUpd (g : Nat) (h : Beside s t) : Beside s (echoLockUpd g t) :=
  h.wr (not_watched_ch g (by decide) (by decide)) _

theorem beside_echoTake (g : Nat) (e : Echo) (x : Nat) (kind : EvKind) (h : Beside s t) :
    Beside s (echoTake g e x kind t) := by
  have h1 : Beside s (echoOver g e t) := h.updChan
  unfold echoTake
  exact Beside.ite (beside_echoMiss g h1) (Beside.ite h1.updCals (Beside.ite h1
    (beside_echoLockUpd g (h1.updChan.inc (not_watched_ch g (by decide) (by decide)) 1))))

theorem beside_echoSettle (g : Nat) (h : Beside s t) : Beside s (echoSettle g t) := by
  refine forL_keeps (Beside s) _ _ (fun e u hu => ?_) t h
  split
  · exact Beside.ite hu (beside_echoTake g e _ _ hu)
  · exact hu

theorem beside_echoMatch (g : Nat) (ch rising : Bool) (x : Nat) (kind : EvKind) (h : Beside s t) :
    Beside s (echoMatch g ch rising x kind t) := by
  unfold echoMatch
  dsimp only
  split
  · exact beside_echoSettle g h
  · exact beside_echoSettle g h.updChan

/-! ### Trigger conditions (R216, R217) -/

theorem beside_fireDom {d : Nat} (hd : d < 4) (i : Nat) (ref : Word) (h : Beside s t) : Beside s (fireDom d i ref t) := by
  have h1 : Beside s (t.inc (bDom d) F.Trs.DFIRES 1) := h.inc (not_watched_dom hd (by decide)) 1
  unfold fireDom
  exact (Beside.ite h1 h1.out).updDom

theorem beside_condHit {i : Nat} (hi : i < 16) (ref : Word) (h : Beside s t) : Beside s (condHit i ref t) := by
  have h1 : Beside s (t.inc (bCond i) F.Trs.TCHIT 1) := h.inc (not_watched_cond hi (by decide)) 1
  have hd : t.rd (bCond i) F.Trs.TCOND.DOM < 4 := rd_lt ..
  unfold condHit
  exact Beside.ite (Beside.ite (beside_fireDom hd i ref h1.setCondCnt) h1.setCondCnt) h1

theorem beside_raiseCond (kind : Nat) (sel : Nat → Nat → Bool) (ref : Word) (h : Beside s t) :
    Beside s (raiseCond kind sel ref t) := by
  unfold raiseCond
  exact Beside.ite (forN_keeps_lt (Beside s) 16 _ (fun _ hi _ hu => Beside.ite (beside_condHit hi ref hu) hu) h) h

/-! ### The raw formatter (R225-R227, R239, R243-R247) -/

section Formatter

variable {i : Nat}

theorem beside_pushItem (hi : i < 64) (r : Rec) (h : Beside s t) : Beside s (pushItem i r t) :=
  (h.inc (not_watched_str hi (f := F.Trs.GENERATED) (by decide)) 1).updStrm

theorem beside_closeRaw (hi : i < 64) (o : RawOpen) (ref : Nat) (last : Bool) (h : Beside s t) :
    Beside s (closeRaw i o ref last t) := by
  have hgen : ¬ Watched (bStr i + F.Trs.GENERATED.off) := not_watched_str hi (by decide)
  have hdec : ¬ Watched (bStr i + F.Trs.DECIMATED.off) := not_watched_str hi (by decide)
  unfold closeRaw
  exact Beside.ite (Beside.ite ((h.inc hgen _).inc hdec _).updStrm h) (Beside.ite h.updStrm h.updStrm)

theorem beside_closeSplit (hi : i < 64) (o : RawOpen) (bef : Stamp → Bool) (ref : Nat) (last : Bool) (m : RawMode)
    (h : Beside s t) : Beside s (closeSplit i o bef ref last m t) := beside_closeRaw hi _ _ _ h.updStrm

theorem beside_closeWhole (hi : i < 64) (o : RawOpen) (ref : Nat) (h : Beside s t) : Beside s (closeWhole i o ref t) :=
  beside_closeSplit hi _ _ _ _ _ h

theorem beside_keepStamp (hi : i < 64) (x : Stamp) (m : RawMode) (h : Beside s t) : Beside s (keepStamp i x m t) := by
  unfold keepStamp
  generalize (t.strm i).opens.find? _ = found
  cases found with
  | none => exact h.updStrm
  | some o =>
    exact Beside.ite (beside_closeWhole hi _ _ h).updStrm
      (Beside.ite (beside_closeWhole hi _ _ h.updStrm) h.updStrm)

theorem beside_decStamp (hi : i < 64) (x : Stamp) (m : RawMode) (h : Beside s t) : Beside s (decStamp i x m t) := by
  unfold decStamp
  refine Beside.ite (h.inc (not_watched_str hi (f := F.Trs.DECIMATED) (by decide)) 1).updStrm ?_
  split
  · exact h.updStrm
  · exact h.updStrm

theorem beside_placeStamp (hi : i < 64) (m : RawMode) (x : Stamp) (h : Beside s t) : Beside s (placeStamp i m x t) := by
  have place {u : State} (hu : Beside s u) (c : Prop) [Decidable c] :
      Beside s (if c then keepStamp i x m u else decStamp i x m u) :=
    Beside.ite (beside_keepStamp hi x m hu) (beside_decStamp hi x m hu)
  unfold placeStamp
  dsimp only
  split
  · exact place (beside_closeWhole hi _ _ h).updStrm _
  · exact place h.updStrm _

theorem beside_trigFinish (hi : i < 64) (w : Nat) (m : TrigMark) (h : Beside s t) : Beside s (trigFinish i w m t) :=
  beside_pushItem hi _ h.updStrm

theorem beside_decFinish (hi : i < 64) (m : DecMark) (h : Beside s t) : Beside s (decFinish i m t) :=
  beside_pushItem hi _ h.updStrm

theorem beside_placeAll (hi : i < 64) (l : List Stamp) (m : RawMode) (h : Beside s t) :
    Beside s (forL l (fun x t => placeStamp i m x t) t) :=
  forL_keeps (Beside s) _ _ (fun x _ hu => beside_placeStamp hi m x hu) t h

theorem beside_closeAll (hi : i < 64) (l : List RawOpen) (bef : RawOpen → Stamp → Bool) (ref : RawOpen → Nat) (last : Bool)
    (m : State → RawMode) (h : Beside s t) :
    Beside s (forL l (fun o t => closeSplit i o (bef o) (ref o) last (m t) t) t) :=
  forL_keeps (Beside s) _ _ (fun o _ hu => beside_closeSplit hi o _ _ _ _ hu) t h

theorem beside_tryCut (hi : i < 64) (h : Beside s t) : Beside s (tryCut i t) := by
  unfold tryCut
  split
  · exact h
  · rename_i r rest _
    refine Beside.ite h ?_
    rcases r.dec with _ | m
    · rcases r.trig with _ | w
      · exact beside_closeAll hi _ _ _ _ _ (beside_closeAll hi _ _ _ _ _ (beside_placeAll hi _ _ h).updStrm)
      · exact beside_trigFinish hi _ w
          (beside_closeAll hi _ _ _ _ _ (beside_closeAll hi _ _ _ _ _ (beside_placeAll hi _ _ h).updStrm))
    · refine beside_decFinish hi m (Beside.updStrm ?_)
      rcases r.trig with _ | w
      · exact beside_closeAll hi _ _ _ _ _ (beside_closeAll hi _ _ _ _ _ (beside_placeAll hi _ _ h).updStrm)
      · exact beside_trigFinish hi _ w
          (beside_closeAll hi _ _ _ _ _ (beside_closeAll hi _ _ _ _ _ (beside_placeAll hi _ _ h).updStrm))

theorem beside_formatNow (hi : i < 64) (h : Beside s t) : Beside s (formatNow i t) := by
  unfold formatNow
  refine Beside.ite h (forL_keeps (Beside s) _ _ (fun o u hu => ?_) _
    (forL_keeps (Beside s) _ _ (fun x u hu => Beside.ite hu (beside_placeStamp hi _ x hu)) t h))
  split
  · exact Beside.ite hu (beside_closeSplit hi _ _ _ _ _ hu)
  · exact hu

theorem beside_formatCore (hi : i < 64) (h : Beside s t) : Beside s (formatCore i t) :=
  beside_formatNow hi (forN_keeps _ _ _ (fun _ _ hu => beside_tryCut hi hu) t h)

theorem beside_gapBegin (hi : i < 64) (h : Beside s t) : Beside s (gapBegin i t) := by
  unfold gapBegin
  exact Beside.ite h (beside_formatCore hi
    ((h.updStrm (i := i)).wr (not_watched_str hi (f := F.Trs.SSTAT.GAP) (by decide)) 1).updStrm)

theorem beside_gapCheck (hi : i < 64) (h : Beside s t) : Beside s (gapCheck i t) := by
  unfold gapCheck
  exact Beside.ite (beside_gapBegin hi h) h

theorem beside_format (hi : i < 64) (h : Beside s t) : Beside s (format i t) :=
  ((beside_gapCheck hi (beside_formatCore hi h)).wr (not_watched_str hi (f := F.Trs.SSTAT.FILL) (by decide)) _).wr
    (not_watched_str hi (f := F.Trs.SSTAT.IDLE) (by decide)) _

theorem beside_takeStamp (hi : i < 64) (x : Stamp) (h : Beside s t) : Beside s (takeStamp i x t) := by
  have hgen : ¬ Watched (bStr i + F.Trs.GENERATED.off) := not_watched_str hi (by decide)
  have hgap : ¬ Watched (bStr i + F.Trs.GAPPED.off) := not_watched_str hi (by decide)
  unfold takeStamp
  exact Beside.ite (Beside.ite (Beside.ite h ((h.inc hgen 1).inc hgap 1).updStrm)
    (Beside.ite h (h.inc hgen 1).updStrm).updStrm) h

end Formatter

end Sys2Proof.Machine
end

section
/-! SUPPORT. What an operation on one slot leaves of the others (R97-R108). -/

namespace Sys2Proof.Machine

open Host

variable {s t u : State}

/-! ### The frame of the slots -/

/-- The slot with key `i` = 64k + j. -/
def State.slotAt (s : State) (i : Nat) : Slot := tget slot0 s.slots i

/-- From `s` to `t` the slots outside `V` keep their SCFG and the edges of their source A, those outside `E` their CFGERR;
every counter, the power state, the stamp buses, the stack and the timebase are as they were. -/
structure SlotFrame (V E : Nat → Prop) (s t : State) : Prop where
  regs : ∀ x, Watched x → (∀ i, V i → x ≠ scfgOff i) → t.reg x = s.reg x
  evA : ∀ i, ¬ V i → (t.slotAt i).evA = (s.slotAt i).evA
  err : ∀ i, ¬ E i → (t.slotAt i).cfgErr = (s.slotAt i).cfgErr
  bus : ∀ k, (t.skein k).bus = (s.skein k).bus
  hbm : t.hbm = s.hbm
  tbs : t.tbs = s.tbs

variable {V E : Nat → Prop}

theorem SlotFrame.refl (s : State) : SlotFrame V E s s :=
  ⟨fun _ _ _ => rfl, fun _ _ => rfl, fun _ _ => rfl, fun _ => rfl, rfl, rfl⟩

theorem SlotFrame.trans (h : SlotFrame V E s t) (g : SlotFrame V E t u) : SlotFrame V E s u :=
  ⟨fun x hx hv => (g.regs x hx hv).trans (h.regs x hx hv), fun i hi => (g.evA i hi).trans (h.evA i hi),
    fun i hi => (g.err i hi).trans (h.err i hi), fun k => (g.bus k).trans (h.bus k), g.hbm.trans h.hbm, g.tbs.trans h.tbs⟩

theorem SlotFrame.beside (h : SlotFrame V E s t) (g : Beside t u) : SlotFrame V E s u :=
  h.trans ⟨fun x hx _ => g.regs x hx, fun _ _ => by rw [State.slotAt, g.slots]; rfl,
    fun _ _ => by rw [State.slotAt, g.slots]; rfl, fun _ => by rw [State.skein, g.skeins]; rfl, g.hbm, g.tbs⟩

/-- A slot changed in what the frame does not hold of it. -/
theorem SlotFrame.updSlot (h : SlotFrame V E s t) {k j : Nat} {f : Slot → Slot}
    (hv : V (64 * k + j) ∨ (f (t.slot k j)).evA = (t.slot k j).evA)
    (he : E (64 * k + j) ∨ (f (t.slot k j)).cfgErr = (t.slot k j).cfgErr) : SlotFrame V E s (t.updSlot k j f) := by
  have same : (t.updSlot k j f).slotAt (64 * k + j) = f (t.slot k j) := slot_updSlot_same t k j f
  have other : ∀ i, i ≠ 64 * k + j → (t.updSlot k j f).slotAt i = t.slotAt i := fun i hi => tget_tput_other _ _ _ _ _ hi
  refine h.trans ⟨fun _ _ _ => rfl, fun i hi => ?_, fun i hi => ?_, fun _ => rfl, rfl, rfl⟩
  · by_cases hk : i = 64 * k + j
    · subst hk; rw [same]; exact hv.resolve_left hi
    · rw [other i hk]
  · by_cases hk : i = 64 * k + j
    · subst hk; rw [same]; exact he.resolve_left hi
    · rw [other i hk]

/-- A change of a slot that leaves the edges of source A and CFGERR. -/
theorem SlotFrame.slotPart (h : SlotFrame V E s t) {k j : Nat} {f : Slot → Slot}
    (hv : (f (t.slot k j)).evA = (t.slot k j).evA) (he : (f (t.slot k j)).cfgErr = (t.slot k j).cfgErr) :
    SlotFrame V E s (t.updSlot k j f) := h.updSlot (.inr hv) (.inr he)

theorem SlotFrame.setSlot (h : SlotFrame V E s t) {k j : Nat} {v : Slot} (hv : v.evA = (t.slot k j).evA)
    (he : v.cfgErr = (t.slot k j).cfgErr) : SlotFrame V E s (t.setSlot k j v) :=
  h.slotPart (f := fun _ => v) hv he

/-- A register written that the frame does not hold. -/
theorem SlotFrame.setReg (h : SlotFrame V E s t) {x : Nat} (hx : Watched x → ∃ i, V i ∧ x = scfgOff i) (w : Word) :
    SlotFrame V E s (t.setReg x w) := by
  refine h.trans ⟨fun y hy hv => reg_setReg_other t x y w (fun e => ?_), fun _ _ => rfl, fun _ _ => rfl, fun _ => rfl,
    rfl, rfl⟩
  obtain ⟨i, hi, rfl⟩ := hx (e ▸ hy)
  exact hv i hi e

/-- A skein's part changed, but for its stamp bus. -/
theorem SlotFrame.updSkein (h : SlotFrame V E s t) {k : Nat} {f : Skein → Skein} (hb : (f (t.skein k)).bus = (t.skein k).bus) :
    SlotFrame V E s (t.updSkein k f) := by
  refine h.trans ⟨fun _ _ _ => rfl, fun _ _ => rfl, fun _ _ => rfl, fun i => ?_, rfl, rfl⟩
  by_cases hi : i = k
  · subst hi; rw [skein_updSkein_same]; exact hb
  · rw [skein_updSkein_other t k i f hi]

theorem SlotFrame.ite {v : State} {c : Prop} [Decidable c] (hu : SlotFrame V E s u) (hv : SlotFrame V E s v) :
    SlotFrame V E s (if c then u else v) := by
  split
  · exact hu
  · exact hv

theorem SlotFrame.scfg (h : SlotFrame V E s t) {k j : Nat} (hj : j < 64) (hv : ¬ V (64 * k + j)) :
    t.reg (bSlot k j) = s.reg (bSlot k j) :=
  h.regs _ (watched_scfg k hj) (fun _ hi e => hv (scfgOff_inj ((scfgOff_key k hj).trans e) ▸ hi))

theorem SlotFrame.domOn (h : SlotFrame V E s t) (d : Nat) : t.domOn d = s.domOn d := by
  have h0 : t.reg (bThm + F.Thm.PDSTAT.off) = s.reg (bThm + F.Thm.PDSTAT.off) :=
    h.regs _ (.inl rfl) (fun _ _ => scfgOff_ne_low _ (by decide))
  have h1 : t.reg (bThm + F.Thm.PDSTAT1.off) = s.reg (bThm + F.Thm.PDSTAT1.off) :=
    h.regs _ (.inr (.inl rfl)) (fun _ _ => scfgOff_ne_low _ (by decide))
  simp only [State.domOn, State.bit, State.rd, h0, h1]

theorem SlotFrame.counter (h : SlotFrame V E s t) (g : Nat) {f : Fld} (hf : f ∈ liveCounters) :
    t.rd (bCh g) f = s.rd (bCh g) f := by
  rw [State.rd, h.regs _ (watched_counter g hf) (fun _ _ => scfgOff_ne_counter _ g hf), State.rd]

/-! ### Gates (R102-R106) -/

section Gates

variable {k j : Nat}

theorem beside_gstateUpd (hj : j < 64) (h : Beside s t) : Beside s (gstateUpd k j t) :=
  h.wr (f := F.Slot.CNT.GSTATE) (not_watched_slot k hj (by decide) (by decide)) _

theorem frame_gstateUpd (hj : j < 64) (h : SlotFrame V E s t) : SlotFrame V E s (gstateUpd k j t) :=
  h.beside (beside_gstateUpd hj (Beside.refl t))

theorem frame_openGate (hj : j < 64) (o : Nat) (h : SlotFrame V E s t) : SlotFrame V E s (openGate k j o t) :=
  frame_gstateUpd hj (h.slotPart rfl rfl)

theorem frame_slotReady (hj : j < 64) (o : Nat) (h : SlotFrame V E s t) : SlotFrame V E s (slotReady k j o t) := by
  have h1 := h.slotPart (k := k) (j := j) (f := fun x => { x with
    opn := none, deferC := none, str := false, chain := 0, reopen := false,
    armReady := t.slotLive k j && (t.mcfg k j).gmode == 2, armFrom := o, spent := false }) rfl rfl
  unfold slotReady
  exact SlotFrame.ite (frame_openGate hj o h1) (frame_gstateUpd hj h1)

theorem frame_goOn (hj : j < 64) (a : Applied) (h : SlotFrame V E s t) : SlotFrame V E s (goOn k j a t) := by
  have hg := frame_gstateUpd (k := k) hj h
  unfold goOn
  refine SlotFrame.ite (frame_slotReady hj _ h) ?_
  split
  · exact SlotFrame.ite (frame_openGate hj _ h) hg
  · exact SlotFrame.ite hg (SlotFrame.ite (frame_openGate hj _ h) ((frame_openGate hj _ h).slotPart rfl rfl))
  · split
    · exact frame_openGate hj _ h
    · exact frame_gstateUpd hj (h.slotPart rfl rfl)
  · exact SlotFrame.ite (frame_openGate hj _ h) hg

/-! ### Edges into slots (R97-R104) -/

theorem frame_rearmOpen (hj : j < 64) (h : SlotFrame V E s t) : SlotFrame V E s (rearmOpen k j t) := by
  unfold rearmOpen
  refine SlotFrame.ite (h.slotPart rfl rfl) ?_
  split
  · exact frame_openGate hj _ (h.slotPart rfl rfl)
  · exact (h.slotPart rfl rfl).slotPart rfl rfl
  · exact h.slotPart rfl rfl

theorem frame_armStamp (hj : j < 64) (a : Arm) (h : SlotFrame V E s t) : SlotFrame V E s (armStamp k j a t) := by
  unfold armStamp
  extract_lets x arms old fins s1
  have h1 : SlotFrame V E s s1 := h.setSlot rfl rfl
  clear_value s1 fins old
  cases old with
  | some f => exact SlotFrame.ite (frame_gstateUpd hj h1) (frame_gstateUpd hj (h1.slotPart rfl rfl))
  | none => exact SlotFrame.ite (frame_rearmOpen hj h1) h1

theorem frame_slotEdge (hj : j < 64) (hv : V (64 * k + j)) (g : Nat) (ch : Bool) (ep : Nat) (e : Ev) (h : SlotFrame V E s t) :
    SlotFrame V E s (slotEdge k j g ch ep e t) := by
  unfold slotEdge
  exact SlotFrame.updSlot (SlotFrame.ite (frame_armStamp hj _ h) h) (.inl hv) (.inr rfl)

theorem frame_lateCopy (hj : j < 64) (hv : V (64 * k + j)) (g : Nat) (ch : Bool) (ep : Nat) (e : Ev) (h : SlotFrame V E s t) :
    SlotFrame V E s (lateCopy k j g ch ep e t) := by
  unfold lateCopy
  extract_lets e1 add
  exact (frame_slotEdge hj hv g ch ep e1 h).slotPart rfl rfl

theorem frame_fabCopy (g : Nat) (ch : Bool) (ep : Nat) (e : Ev) (js : List Nat) (hjs : ∀ j ∈ js, j < 64 ∧ V (64 * k + j))
    (h : SlotFrame V E s t) : SlotFrame V E s (fabCopy k g ch ep e js t) :=
  forL_keeps_mem (SlotFrame V E s) js _ (fun j hj _ hu => SlotFrame.ite
    (frame_lateCopy (hjs j hj).1 (hjs j hj).2 g ch ep e hu) (frame_slotEdge (hjs j hj).1 (hjs j hj).2 g ch ep e hu))
    (h.updSkein rfl)

/-! ### Commits (R375) -/

theorem beside_commitSweep (h : Beside s t) : Beside s (commitSweep t) := by
  unfold commitSweep
  refine forL_keeps (Beside s) _ _ (fun c u hu => ?_) _ h.setCommits
  have hx : ¬ Watched (bCtl + F.Ctl.HITCH_CNT.off) := not_watched_ctl (by decide)
  have h1 := hu.inc (f := ⟨F.Ctl.HITCH_CNT.off, 8 * c.group + 7, 8 * c.group⟩) hx 1
  exact Beside.ite (Beside.ite h1 (h1.setBit (not_watched_ctl (by decide)) _ _)) hu

theorem beside_unitDone (w : HUnit) (h : Beside s t) : Beside s (unitDone w t) :=
  beside_commitSweep h.setCommits

/-! ### Configurations (R98, R99, R106) -/

theorem frame_judgeCfg (he : E (64 * k + j)) (h : SlotFrame V E s t) : SlotFrame V E s (judgeCfg k j t) := by
  unfold judgeCfg
  have h1 := h.updSlot (k := k) (j := j) (f := fun x => { x with
    cfgErr := (t.mcfg k j).type != 0 && !((t.mcfg k j).valid k j && t.linksOk k j (t.mcfg k j)) }) (.inr rfl) (.inl he)
  exact SlotFrame.ite (h1.beside ((Beside.refl _).raise (not_watched_sk k (by decide)) j)) h1

theorem beside_unErr (k j : Nat) (s : State) : Beside s (unErr k j s) := by
  unfold unErr
  exact Beside.ite (Beside.refl s) (((Beside.refl s).setBit (b := bSk k) (f := F.Sk.MAUERR.CFGERR)
    (not_watched_sk k (by decide)) j false).setRaised)

theorem newGen_cfgErr (a b : Bool) (w : Word) (ep : Nat) (x : Slot) : (newGen a b w ep x).cfgErr = x.cfgErr := rfl

theorem frame_rejudge (hj : j < 64) (he : E (64 * k + j)) (a : Applied) (h : SlotFrame V E s t) :
    SlotFrame V E s (rejudge k j a t) := by
  have h1 : SlotFrame V E s (judgeCfg k j t) := frame_judgeCfg he h
  unfold rejudge
  exact SlotFrame.ite h1 (SlotFrame.ite (frame_goOn hj a (h1.beside (beside_unErr ..)))
    (frame_gstateUpd hj (h1.slotPart rfl rfl)))

theorem frame_judgeFrom (he : ∀ i, E i) (a : Applied) (h : SlotFrame V E s t) : SlotFrame V E s (judgeFrom k j a t) := by
  unfold judgeFrom
  refine forN_keeps_lt (SlotFrame V E s) 64 _ (fun i hi u hu => ?_) (frame_judgeCfg (he _) (h.slotPart rfl rfl))
  split
  · exact SlotFrame.ite (frame_rejudge hi (he _) _ hu) hu
  · exact hu

theorem frame_zeroHist (h : SlotFrame V E s t) : SlotFrame V E s (zeroHist k j t) := by
  unfold zeroHist
  refine SlotFrame.ite (SlotFrame.slotPart ?_ rfl rfl) h
  exact forN_keeps (SlotFrame V E s) 256 _ (fun _ u hu => hu.beside (Beside.refl u).setTw) t h

theorem frame_applyReg (snap : Table Word) {x : Nat} (hx : Watched x → ∃ i, V i ∧ x = scfgOff i) (h : SlotFrame V E s t) :
    SlotFrame V E s (applyReg snap x t) := by
  unfold applyReg
  split
  · exact h
  · exact h.setReg hx _

theorem frame_loadCfg (hj : j < 64) (hv : V (64 * k + j)) (he : ∀ i, E i) (snap : Table Word) (a : Applied)
    (h : SlotFrame V E s t) : SlotFrame V E s (loadCfg snap k j a t) := by
  have words : ∀ x ∈ [bSlot k j, bSlot k j + 0x8, bSlot k j + 0x10, bSlot k j + 0x18, bSlot k j + 0x20],
      Watched x → ∃ i, V i ∧ x = scfgOff i := by
    intro x hx hw
    rcases List.mem_cons.mp hx with rfl | hx
    · exact ⟨_, hv, (scfgOff_key k hj).symm⟩
    · simp only [List.mem_cons, List.not_mem_nil, or_false] at hx
      rcases hx with rfl | rfl | rfl | rfl <;> exact absurd hw (not_watched_slot k hj (by decide) (by decide))
  unfold loadCfg
  extract_lets b old s1 new sameA sameB s2 same s3
  have h1 : SlotFrame V E s s1 := forL_keeps_mem _ _ _ (fun x hx _ hu => frame_applyReg snap (words x hx) hu) h
  have h2 : SlotFrame V E s s2 := frame_judgeFrom he a h1
  have h3 : SlotFrame V E s s3 := SlotFrame.ite h2 (h2.updSlot (.inl hv) (.inr (newGen_cfgErr ..)))
  exact SlotFrame.ite (frame_zeroHist h3) h3

/-! ### Closes (R102-R106) -/

section Close

variable (hj : j < 64) (hv : V (64 * k + j)) (he : ∀ i, E i)

include hj hv he

theorem frame_closeGate (c : Nat) (epj : Bool) (o2 : Nat) (h : SlotFrame V E s t) :
    SlotFrame V E s (closeGate k j c epj o2 t) := by
  unfold closeGate
  split
  · exact h
  · extract_lets x m next fin s1 a s2
    have h1 : SlotFrame V E s s1 := h.setSlot rfl rfl
    refine frame_goOn hj a ?_
    clear_value s1
    revert s2
    cases s1.unitSnap (uSlot k j) with
    | none => exact SlotFrame.ite h1 (h1.slotPart rfl rfl)
    | some snap => exact ((frame_loadCfg hj hv he snap a h1).slotPart rfl rfl).beside (beside_unitDone _ (Beside.refl _))

theorem frame_closeAt (c : Nat) (h : SlotFrame V E s t) : SlotFrame V E s (closeAt k j c t) := by
  unfold closeAt
  refine SlotFrame.ite h ?_
  split
  · exact SlotFrame.ite (h.slotPart rfl rfl) (frame_closeGate hj hv he c false 0 h)
  · exact frame_closeGate hj hv he c false 0 h

theorem frame_countCheck (h : SlotFrame V E s t) : SlotFrame V E s (countCheck k j t) := by
  unfold countCheck
  refine SlotFrame.ite h ?_
  split
  · exact h
  · split
    · exact SlotFrame.ite (frame_closeAt hj hv he _ h) h
    · exact h

end Close

/-- A slot in another mode than COUNT is not judged. -/
theorem countCheck_other (hm : (s.mcfg k j).gmode ≠ 3) : countCheck k j s = s := by
  unfold countCheck
  exact if_pos (.inr (.inl hm))

theorem frame_countOld (hj : j < 64) (h : SlotFrame V E s t) : SlotFrame V E s (countOld k j t) := by
  unfold countOld
  extract_lets x
  split
  · exact h
  · split
    · exact h
    · refine SlotFrame.ite h (SlotFrame.ite (h.slotPart rfl rfl) ?_)
      exact frame_gstateUpd hj ((h.slotPart rfl rfl).slotPart rfl rfl)

end Gates

theorem mcfg_congr {k j : Nat} (h : t.reg (bSlot k j) = s.reg (bSlot k j)) : (t.mcfg k j).scfg = (s.mcfg k j).scfg := h

/-- What judging the COUNT slots leaves: every slot that is in another mode keeps its SCFG and its edges (R103). -/
theorem frame_countChecks (s : State) :
    SlotFrame (fun i => (s.mcfg (i / 64) (i % 64)).gmode = 3) (fun _ => True) s (countChecks s) := by
  refine forL_keeps _ _ _ (fun i u hu => ?_) s (SlotFrame.refl s)
  have hj : i % 64 < 64 := Nat.mod_lt _ (by decide)
  have hkey : 64 * (i / 64) + i % 64 = i := Nat.div_add_mod ..
  refine frame_countOld hj ?_
  by_cases hm : (u.mcfg (i / 64) (i % 64)).gmode = 3
  · refine frame_countCheck hj ?_ (fun _ => trivial) hu
    rw [hkey]
    refine Decidable.byContradiction (fun hn => ?_)
    have hreg := hu.scfg (k := i / 64) hj (by rw [hkey]; exact hn)
    exact hn (by rw [← hm, MCfg.gmode, MCfg.gmode, mcfg_congr hreg])
  · rw [countCheck_other hm]
    exact hu

end Sys2Proof.Machine
end

section
/-! SUPPORT. The delivery of a stamp (R8, R57, R97-R103): it enters the live TIMED slots of its skein, and everything else that
it meets leaves their edges. -/

namespace Sys2Proof.Machine

open Host

variable {s t u : State} {V E : Nat → Prop}

/-! ### Slots that take a stamp -/

/-- A live TIMED slot whose source A, of some slope, takes the stamp. -/
structure TimedTaker (s : State) (k j : Nat) (x : Stamp) : Prop where
  live : s.slotLive k j = true
  timed : (s.mcfg k j).gmode = 0
  takes : srcTakes (s.mcfg k j).srcA x.g x.ch x.rising = true
  slope : srcSlope (s.mcfg k j).srcA ≠ 0

/-- The edge that a stamp is to a slot (R100). -/
def Stamp.ev (x : Stamp) : Ev := { t := x.t, kind := if x.shed then .shed else .fine, rising := x.rising }

/-- The state with an edge among those of source A of slot j of skein k. -/
def State.enterA (s : State) (k j : Nat) (e : Ev) : State := s.updSlot k j (fun y => { y with evA := insEvt e y.evA })

/-- The slots other than slot j of skein k. -/
def OtherSlot (k j : Nat) : Nat → Prop := fun i => i ≠ 64 * k + j

/-- No slot at all. -/
def NoSlot : Nat → Prop := fun _ => False

theorem TimedTaker.frame {k j : Nat} {x : Stamp} (hj : j < 64) (h : SlotFrame (OtherSlot k j) NoSlot s t)
    (ht : TimedTaker s k j x) : TimedTaker t k j x := by
  have hreg : (t.mcfg k j).scfg = (s.mcfg k j).scfg := mcfg_congr (h.scfg hj (fun hn => hn rfl))
  have herr : (t.slot k j).cfgErr = (s.slot k j).cfgErr := h.err _ id
  obtain ⟨live, timed, takes, slope⟩ := ht
  simp only [State.slotLive, MCfg.type, MCfg.gmode, MCfg.srcA] at live timed takes slope
  constructor <;> simp only [State.slotLive, MCfg.type, MCfg.gmode, MCfg.srcA, hreg, herr] <;> assumption

theorem TimedTaker.takesEdge {k j : Nat} {x : Stamp} (ht : TimedTaker s k j x) (hep : x.ep = s.loads) :
    s.takesEdge k j x.ep x.g x.ch x.rising = true := by
  have htype : (s.mcfg k j).type ≠ 0 := by
    have := ht.live
    simp only [State.slotLive, Bool.and_eq_true, bne_iff_ne] at this
    exact this.1
  have htaker : s.mcfg k j ∈ s.takers k j x.ep := by simp [State.takers, ht.live, hep]
  have hsource : (s.mcfg k j).srcA ∈ (s.mcfg k j).sources := by simp [MCfg.sources, htype, ht.slope]
  exact List.any_eq_true.mpr ⟨_, htaker, List.any_eq_true.mpr ⟨_, hsource, ht.takes⟩⟩

/-- One slot changed in both states, to the same edges and CFGERR. -/
theorem SlotFrame.updBoth (h : SlotFrame V E s t) {k j : Nat} {f f' : Slot → Slot}
    (hv : (f' (t.slot k j)).evA = (f (s.slot k j)).evA) (he : (f' (t.slot k j)).cfgErr = (f (s.slot k j)).cfgErr) :
    SlotFrame V E (s.updSlot k j f) (t.updSlot k j f') := by
  have same : ∀ (r : State) (f : Slot → Slot), (r.updSlot k j f).slotAt (64 * k + j) = f (r.slot k j) :=
    fun r f => slot_updSlot_same r k j f
  have other : ∀ (r : State) (f : Slot → Slot) i, i ≠ 64 * k + j → (r.updSlot k j f).slotAt i = r.slotAt i :=
    fun _ _ _ hi => tget_tput_other _ _ _ _ _ hi
  refine ⟨h.regs, fun i hi => ?_, fun i hi => ?_, h.bus, h.hbm, h.tbs⟩
  · by_cases hk : i = 64 * k + j
    · subst hk; rw [same, same]; exact hv
    · rw [other _ _ i hk, other _ _ i hk]; exact h.evA i hi
  · by_cases hk : i = 64 * k + j
    · subst hk; rw [same, same]; exact he
    · rw [other _ _ i hk, other _ _ i hk]; exact h.err i hi

/-- A stamp that reaches a slot which takes it enters its edges of source A. -/
theorem slotEdge_taker {k j : Nat} {x : Stamp} (hj : j < 64) (ht : TimedTaker s k j x) (hep : x.ep = s.loads)
    (h : SlotFrame (OtherSlot k j) NoSlot s t) :
    SlotFrame (OtherSlot k j) NoSlot (s.enterA k j x.ev) (slotEdge k j x.g x.ch x.ep x.ev t) := by
  have htt := ht.frame hj h
  unfold slotEdge
  extract_lets m cur s0 takes
  have h0 : SlotFrame (OtherSlot k j) NoSlot s s0 := SlotFrame.ite (frame_armStamp hj _ h) h
  have hin : (cur && (takes m).1) = true := by
    have hep' : x.ep = t.loads := by rw [hep, State.loads, State.loads, h.tbs]
    simp only [Bool.and_eq_true, cur, takes, m, htt.live, hep', beq_self_eq_true, and_self, true_and]
    exact htt.takes
  have hev : (s0.slot k j).evA = (s.slot k j).evA := h0.evA _ (fun hn => hn rfl)
  refine h0.updBoth ?_ ?_
  · rw [if_pos hin, hev]
  · exact h0.err (64 * k + j) id

/-! ### The offer to every skein (R8, R97, R98) -/

/-- An edge offered to the slots of skein k. -/
def offerSkein (g : Nat) (ch : Bool) (ep : Nat) (e : Ev) (k : Nat) (t : State) : State :=
  let sk := g / 16
  if !t.domOn (32 + k) then t
  else
    let js := (List.range 64).filter (fun j => t.takesEdge k j ep g ch e.rising)
    if k = sk ∨ k + 1 = sk ∨ sk + 1 = k then forL js (fun j u => slotEdge k j g ch ep e u) t
    else if js = [] then t else fabCopy k g ch ep e js t

theorem offerSlots_eq (g : Nat) (ch : Bool) (ep : Nat) (e : Ev) (s : State) :
    offerSlots g ch ep e s = forN 32 (offerSkein g ch ep e) s := rfl

theorem frame_offerSkein {k : Nat} (hv : ∀ j < 64, V (64 * k + j)) (g : Nat) (ch : Bool) (ep : Nat) (e : Ev)
    (h : SlotFrame V E s t) : SlotFrame V E s (offerSkein g ch ep e k t) := by
  unfold offerSkein
  extract_lets sk js
  have hjs : ∀ j ∈ js, j < 64 := fun j hj => List.mem_range.mp (List.mem_filter.mp hj).1
  refine SlotFrame.ite h (SlotFrame.ite ?_ (SlotFrame.ite h ?_))
  · exact forL_keeps_mem _ _ _ (fun j hj _ hu => frame_slotEdge (hjs j hj) (hv j (hjs j hj)) g ch ep e hu) h
  · exact frame_fabCopy g ch ep e js (fun j hj => ⟨hjs j hj, hv j (hjs j hj)⟩) h

theorem frame_offerSlots (g : Nat) (ch : Bool) (ep : Nat) (e : Ev) (s : State) :
    SlotFrame (fun _ => True) E s (offerSlots g ch ep e s) := by
  rw [offerSlots_eq]
  exact forN_keeps _ _ _ (fun _ _ hu => frame_offerSkein (fun _ _ => trivial) g ch ep e hu) s (SlotFrame.refl s)

section Offer

variable {j : Nat} {x : Stamp} (hj : j < 64) (ht : TimedTaker s (x.g / 16) j x) (hep : x.ep = s.loads)

include hj ht hep

theorem offerSkein_taker (hd : s.domOn (32 + x.g / 16) = true) (h : SlotFrame (OtherSlot (x.g / 16) j) NoSlot s t) :
    SlotFrame (OtherSlot (x.g / 16) j) NoSlot (s.enterA (x.g / 16) j x.ev)
      (offerSkein x.g x.ch x.ep x.ev (x.g / 16) t) := by
  unfold offerSkein
  extract_lets sk js
  rw [if_neg (by rw [h.domOn, hd]; decide), if_pos (.inl rfl)]
  have hmem : j ∈ js := by
    have hloads : x.ep = t.loads := by rw [hep, State.loads, State.loads, h.tbs]
    exact List.mem_filter.mpr ⟨List.mem_range.mpr hj, (ht.frame hj h).takesEdge hloads⟩
  have others : ∀ {r : State}, ∀ i ∈ js, i ≠ j → ∀ v, SlotFrame (OtherSlot sk j) NoSlot r v →
      SlotFrame (OtherSlot sk j) NoSlot r (slotEdge sk i x.g x.ch x.ep x.ev v) := fun i hi hne v hv => by
    refine frame_slotEdge (List.mem_range.mp (List.mem_filter.mp hi).1) ?_ _ _ _ _ hv
    unfold OtherSlot
    omega
  exact foldl_meets _ js j (List.nodup_range.filter _) hmem others others (fun v hv => slotEdge_taker hj ht hep hv) h

/-- A stamp offered to all skeins enters a slot of its own that takes it once, and no other edge enters that slot. -/
theorem offerSlots_taker (hk : x.g / 16 < 32) (hd : s.domOn (32 + x.g / 16) = true) :
    SlotFrame (OtherSlot (x.g / 16) j) NoSlot (s.enterA (x.g / 16) j x.ev) (offerSlots x.g x.ch x.ep x.ev s) := by
  have others : ∀ {r : State}, ∀ k ∈ List.range 32, k ≠ x.g / 16 → ∀ v, SlotFrame (OtherSlot (x.g / 16) j) NoSlot r v →
      SlotFrame (OtherSlot (x.g / 16) j) NoSlot r (offerSkein x.g x.ch x.ep x.ev k v) := fun k _ hne v hv => by
    refine frame_offerSkein (fun i hi => ?_) _ _ _ _ hv
    unfold OtherSlot
    omega
  rw [offerSlots_eq]
  exact foldl_meets _ _ _ List.nodup_range (List.mem_range.mpr hk) others others
    (fun v hv => offerSkein_taker hj ht hep hd hv) (SlotFrame.refl s)

end Offer

/-! ### Delivery -/

/-- The state whose stamp bus of skein k is `rest`. -/
def State.setBus (s : State) (k : Nat) (rest : List BusItem) : State := s.updSkein k (fun z => { z with bus := rest })

/-- Behind the slots, a stamp's further consumers leave them alone. -/
theorem beside_deliver_stamp {k : Nat} {x : Stamp} {rest : List BusItem} (hb : (s.skein k).bus = .stamp x :: rest)
    (hg : x.g < 512) :
    Beside (countChecks (offerSlots x.g x.ch x.ep x.ev (s.setBus k rest))) (deliver k s) := by
  unfold deliver
  rw [hb]
  refine forN_keeps_lt _ 64 _ (fun i hi u hu => beside_format hi (beside_takeStamp hi x hu)) ?_
  exact beside_raiseCond _ _ _ (beside_dskStray hg _ _ (beside_echoMatch _ _ _ _ _ (Beside.refl _)))

/-- The edge that a crowded notice is to a slot (R100). -/
def Stamp.crowdEv (x : Stamp) : Ev := { t := x.t, kind := .crowd, rising := x.rising }

theorem beside_deliver_notice {k : Nat} {x : Stamp} {rest : List BusItem} (hb : (s.skein k).bus = .notice x :: rest) :
    Beside (countChecks (offerSlots x.g x.ch x.ep x.crowdEv (s.setBus k rest))) (deliver k s) := by
  unfold deliver
  rw [hb]
  exact beside_echoMatch _ _ _ _ _ (Beside.refl _)

/-- A delivered stamp leaves the bus, and the stack's bytes are as they were. -/
theorem deliver_stamp_bus {k : Nat} {x : Stamp} {rest : List BusItem} (hb : (s.skein k).bus = .stamp x :: rest)
    (hg : x.g < 512) : ((deliver k s).skein k).bus = rest ∧ (deliver k s).hbm = s.hbm := by
  have hbes := beside_deliver_stamp hb hg
  have hcnt := frame_countChecks (offerSlots x.g x.ch x.ep x.ev (s.setBus k rest))
  have hoff := frame_offerSlots (E := NoSlot) x.g x.ch x.ep x.ev (s.setBus k rest)
  constructor
  · rw [State.skein, hbes.skeins]
    refine (hcnt.bus k).trans ((hoff.bus k).trans ?_)
    rw [State.setBus, skein_updSkein_same]
  · rw [hbes.hbm, hcnt.hbm, hoff.hbm]; rfl

/-- The delivered stamp has entered every slot of its skein that takes it. -/
theorem deliver_stamp_taker {k j : Nat} {x : Stamp} {rest : List BusItem} (hb : (s.skein k).bus = .stamp x :: rest)
    (hj : j < 64) (hk : x.g / 16 < 32) (hep : x.ep = s.loads) (hd : s.domOn (32 + x.g / 16) = true)
    (ht : TimedTaker s (x.g / 16) j x) :
    ((deliver k s).slot (x.g / 16) j).evA = insEvt x.ev (s.slot (x.g / 16) j).evA := by
  have ht1 : TimedTaker (s.setBus k rest) (x.g / 16) j x := ⟨ht.live, ht.timed, ht.takes, ht.slope⟩
  have hoff := offerSlots_taker hj ht1 hep hk hd
  have hcnt := frame_countChecks (offerSlots x.g x.ch x.ep x.ev (s.setBus k rest))
  have hbes := beside_deliver_stamp hb (by omega)
  have htimed : ¬ ((offerSlots x.g x.ch x.ep x.ev (s.setBus k rest)).mcfg ((64 * (x.g / 16) + j) / 64)
      ((64 * (x.g / 16) + j) % 64)).gmode = 3 := by
    rw [show (64 * (x.g / 16) + j) / 64 = x.g / 16 by omega, show (64 * (x.g / 16) + j) % 64 = j by omega, MCfg.gmode,
      mcfg_congr (hoff.scfg hj (fun hn => hn rfl))]
    exact fun h => absurd (ht.timed.symm.trans h) (by decide)
  calc ((deliver k s).slot (x.g / 16) j).evA
      = ((countChecks (offerSlots x.g x.ch x.ep x.ev (s.setBus k rest))).slot (x.g / 16) j).evA := by
        rw [State.slot, hbes.slots]; rfl
    _ = ((offerSlots x.g x.ch x.ep x.ev (s.setBus k rest)).slot (x.g / 16) j).evA := hcnt.evA _ htimed
    _ = (((s.setBus k rest).enterA (x.g / 16) j x.ev).slot (x.g / 16) j).evA := hoff.evA _ (fun hn => hn rfl)
    _ = insEvt x.ev (s.slot (x.g / 16) j).evA := by rw [State.enterA, slot_updSlot_same]; rfl

/-- Whatever a delivery brings to its consumers, the counters of the channels hold what they held. -/
theorem deliver_counter {k : Nat} (hb : ∀ x rest, (s.skein k).bus = .stamp x :: rest → x.g < 512) (g : Nat) {f : Fld}
    (hf : f ∈ liveCounters) : (deliver k s).rd (bCh g) f = s.rd (bCh g) f := by
  have slots : ∀ h ch ep e r, (countChecks (offerSlots h ch ep e r)).rd (bCh g) f = r.rd (bCh g) f := fun h ch ep e r =>
    ((frame_countChecks _).counter g hf).trans ((frame_offerSlots (E := NoSlot) h ch ep e r).counter g hf)
  have beside_ : ∀ {r : State}, Beside r (deliver k s) → (deliver k s).rd (bCh g) f = r.rd (bCh g) f := fun h => by
    rw [State.rd, h.regs _ (watched_counter g hf), State.rd]
  cases hbus : (s.skein k).bus with
  | nil => unfold deliver; rw [hbus]
  | cons b rest =>
    cases b with
    | stamp x => exact (beside_ (beside_deliver_stamp hbus (hb x rest hbus))).trans (slots ..)
    | notice x => exact (beside_ (beside_deliver_notice hbus)).trans (slots ..)

end Sys2Proof.Machine
end

section
/-! SUPPORT. The accounting of edges (R66-R69): what counts an edge, and that EDGES = FINE + SHED + CROWDED outlives every
event of capture. -/

namespace Sys2Proof.Machine

open Host

variable {s t u : State}

/-! ### The live counters -/

/-- The counter that advances with EDGES for an edge of each kind (R66, R67): fine, shed, crowded. -/
def fKind (ch : Bool) : Nat → Fld
  | 0 => fFine ch
  | 1 => fShed ch
  | _ => fCrowded ch

theorem fEdges_live (ch : Bool) : fEdges ch ∈ liveCounters := by cases ch <;> decide
theorem fFine_live (ch : Bool) : fFine ch ∈ liveCounters := by cases ch <;> decide
theorem fShed_live (ch : Bool) : fShed ch ∈ liveCounters := by cases ch <;> decide
theorem fCrowded_live (ch : Bool) : fCrowded ch ∈ liveCounters := by cases ch <;> decide

theorem fKind_cases (ch : Bool) (kind : Nat) :
    fKind ch kind = fFine ch ∨ fKind ch kind = fShed ch ∨ fKind ch kind = fCrowded ch :=
  match kind with
  | 0 => .inl rfl
  | 1 => .inr (.inl rfl)
  | _ + 2 => .inr (.inr rfl)

theorem fKind_live (ch : Bool) (kind : Nat) : fKind ch kind ∈ liveCounters := by
  rcases fKind_cases ch kind with h | h | h <;> rw [h]
  · exact fFine_live ch
  · exact fShed_live ch
  · exact fCrowded_live ch

theorem fKind_ne_fEdges (ch : Bool) (kind : Nat) : fKind ch kind ≠ fEdges ch := by
  rcases fKind_cases ch kind with h | h | h <;> rw [h] <;> cases ch <;> decide

/-- Two live counters lie at one offset only if they are one counter of one channel. -/
theorem counter_off_inj {g g' : Nat} {f f' : Fld} (hf : f ∈ liveCounters) (hf' : f' ∈ liveCounters)
    (h : bCh g + f.off = bCh g' + f'.off) : g = g' ∧ f = f' := by
  have range : ∀ f ∈ liveCounters, f.off < 0x80 := by decide
  have one : ∀ f ∈ liveCounters, ∀ f' ∈ liveCounters, f.off = f'.off → f = f' := by decide
  have h1 := range f hf
  have h2 := range f' hf'
  simp only [bCh, bSkein] at h
  exact ⟨by omega, one f hf f' hf' (by omega)⟩

theorem counter_width {f : Fld} (hf : f ∈ liveCounters) : f.hi < 64 ∧ f.hi + 1 - f.lo = 48 :=
  (show ∀ f ∈ liveCounters, f.hi < 64 ∧ f.hi + 1 - f.lo = 48 by decide) f hf

/-- A counter written, read as any counter. -/
theorem rd_wr_counter {f f' : Fld} (hf : f ∈ liveCounters) (hf' : f' ∈ liveCounters) (g g' v : Nat) (s : State) :
    (s.wr (bCh g) f v).rd (bCh g') f' = if g' = g ∧ f' = f then v % 2 ^ 48 else s.rd (bCh g') f' := by
  split
  · rename_i h
    obtain ⟨rfl, rfl⟩ := h
    rw [rd_wr_same s _ _ v (counter_width hf).1, (counter_width hf).2]
  · rename_i h
    exact rd_wr_reg s _ _ _ _ v (fun e => h (counter_off_inj hf' hf e))

theorem WatchKept.counter (h : WatchKept s t) (g : Nat) {f : Fld} (hf : f ∈ liveCounters) :
    t.rd (bCh g) f = s.rd (bCh g) f := by
  rw [State.rd, h _ (watched_counter g hf), State.rd]

/-- An edge counts in EDGES and in the counter of its kind, and beside the counters at most in UNLOCKED_EDGES. -/
theorem beside_countEdge (g : Nat) (ch : Bool) (kind : Nat) (s : State) :
    Beside ((s.inc (bCh g) (fEdges ch) 1).inc (bCh g) (fKind ch kind) 1) (countEdge g ch kind s) := by
  have hk : countEdge g ch kind s =
      if ((s.inc (bCh g) (fEdges ch) 1).inc (bCh g) (fKind ch kind) 1).dllLock (g / 16) then
        (s.inc (bCh g) (fEdges ch) 1).inc (bCh g) (fKind ch kind) 1
      else ((s.inc (bCh g) (fEdges ch) 1).inc (bCh g) (fKind ch kind) 1).inc (bSk (g / 16)) F.Sk.UNLOCKED_EDGES 1 := by
    cases ch <;> match kind with | 0 => rfl | 1 => rfl | _ + 2 => rfl
  rw [hk]
  exact Beside.ite (Beside.refl _) ((Beside.refl _).inc (not_watched_sk _ (by decide)) 1)

/-- Every counter of every channel after an edge has been counted. -/
theorem rd_countEdge {f : Fld} (hf : f ∈ liveCounters) (g g' : Nat) (ch : Bool) (kind : Nat) (s : State) :
    (countEdge g ch kind s).rd (bCh g') f =
      if g' = g ∧ (f = fEdges ch ∨ f = fKind ch kind) then (s.rd (bCh g') f + 1) % 2 ^ 48 else s.rd (bCh g') f := by
  have hne := fKind_ne_fEdges ch kind
  rw [(beside_countEdge g ch kind s).regs.counter g' hf, inc_eq, rd_wr_counter (fKind_live ch kind) hf,
    inc_eq, rd_wr_counter (fEdges_live ch) hf, rd_wr_counter (fEdges_live ch) (fKind_live ch kind)]
  by_cases hg : g' = g
  · subst hg
    by_cases h1 : f = fKind ch kind
    · subst h1; simp [hne]
    · by_cases h2 : f = fEdges ch
      · subst h2; simp [Ne.symm hne]
      · simp [h1, h2]
  · simp [hg]

/-! ### EDGES = FINE + SHED + CROWDED -/

/-- The counters of a comparator add up, modulo their width (R66). -/
def Balanced (g : Nat) (ch : Bool) (s : State) : Prop :=
  s.rd (bCh g) (fEdges ch) = (s.rd (bCh g) (fFine ch) + s.rd (bCh g) (fShed ch) + s.rd (bCh g) (fCrowded ch)) % 2 ^ 48

/-- The counters of every comparator that added up in `s` add up in `t`. -/
def BalanceKept (s t : State) : Prop := ∀ g ch, Balanced g ch s → Balanced g ch t

theorem balanceKept_of_counters (h : ∀ g, ∀ f ∈ liveCounters, t.rd (bCh g) f = s.rd (bCh g) f) : BalanceKept s t := by
  intro g ch hs
  rw [Balanced, h g _ (fEdges_live ch), h g _ (fFine_live ch), h g _ (fShed_live ch), h g _ (fCrowded_live ch)]
  exact hs

theorem BalanceKept.refl (s : State) : BalanceKept s s := fun _ _ h => h

theorem BalanceKept.trans (h : BalanceKept s t) (g : BalanceKept t u) : BalanceKept s u :=
  fun c ch hs => g c ch (h c ch hs)

theorem BalanceKept.beside (h : BalanceKept s t) (g : Beside t u) : BalanceKept s u :=
  h.trans (balanceKept_of_counters (fun c _ hf => g.regs.counter c hf))

theorem BalanceKept.updSkein (h : BalanceKept s t) {k : Nat} {f : Skein → Skein} : BalanceKept s (t.updSkein k f) := h

theorem BalanceKept.updChan (h : BalanceKept s t) {g : Nat} {f : Chan → Chan} : BalanceKept s (t.updChan g f) := h

/-- The four counters of a comparator. -/
def comparatorCounters (ch : Bool) : List Fld := [fEdges ch, fFine ch, fShed ch, fCrowded ch]

/-- An edge leaves the counters of every comparator but its own. -/
theorem rd_countEdge_other {g g' : Nat} {ch ch' : Bool} (h : ¬ (g' = g ∧ ch' = ch)) (kind : Nat) (s : State) :
    ∀ f ∈ comparatorCounters ch', (countEdge g ch kind s).rd (bCh g') f = s.rd (bCh g') f := by
  have live : ∀ ch, ∀ f ∈ comparatorCounters ch, f ∈ liveCounters := by decide
  have apart : ∀ ch ch', ch' ≠ ch → ∀ f ∈ comparatorCounters ch', ∀ f' ∈ comparatorCounters ch, f ≠ f' := by decide
  have kind_mem : fKind ch kind ∈ comparatorCounters ch := by
    rcases fKind_cases ch kind with hk | hk | hk <;> simp [hk, comparatorCounters]
  intro f hf
  rw [rd_countEdge (live ch' f hf), if_neg]
  rintro ⟨hg, hcount⟩
  have hne := apart ch ch' (fun e => h ⟨hg, e⟩) f hf
  rcases hcount with he | he
  · exact hne _ (List.mem_cons_self ..) he
  · exact hne _ kind_mem he

theorem kinds_distinct (ch : Bool) : fFine ch ≠ fShed ch ∧ fFine ch ≠ fCrowded ch ∧ fShed ch ≠ fCrowded ch := by
  cases ch <;> decide

/-- An edge of any kind counted keeps the sum: EDGES and one of the other three advance together. -/
theorem balanceKept_countEdge (g : Nat) (ch : Bool) (kind : Nat) (h : BalanceKept s t) :
    BalanceKept s (countEdge g ch kind t) := by
  refine h.trans (fun g' ch' hs => ?_)
  unfold Balanced at hs ⊢
  by_cases hown : g' = g ∧ ch' = ch
  · obtain ⟨rfl, rfl⟩ := hown
    obtain ⟨hfs, hfc, hsc⟩ := kinds_distinct ch'
    have hf : fFine ch' ≠ fEdges ch' := fKind_ne_fEdges ch' 0
    have hsh : fShed ch' ≠ fEdges ch' := fKind_ne_fEdges ch' 1
    have hcr : fCrowded ch' ≠ fEdges ch' := fKind_ne_fEdges ch' 2
    rw [rd_countEdge (fEdges_live ch'), rd_countEdge (fFine_live ch'), rd_countEdge (fShed_live ch'),
      rd_countEdge (fCrowded_live ch')]
    rcases fKind_cases ch' kind with hk | hk | hk
    · simp only [hk, hf, hsh, hcr, hfs.symm, hfc.symm, true_and, true_or, or_true, or_self, if_true, if_false]; omega
    · simp only [hk, hf, hsh, hcr, hfs, hsc.symm, true_and, true_or, or_true, or_self, if_true, if_false]; omega
    · simp only [hk, hf, hsh, hcr, hfc, hsc, true_and, true_or, or_true, or_self, if_true, if_false]; omega
  · have kept := rd_countEdge_other hown kind t
    rw [kept _ (by simp [comparatorCounters]), kept _ (by simp [comparatorCounters]),
      kept _ (by simp [comparatorCounters]), kept _ (by simp [comparatorCounters])]
    exact hs

/-! ### Edges and conversions -/

theorem beside_poolUpd (k : Nat) (h : Beside s t) : Beside s (poolUpd k t) := by
  have at_ {f : Fld} (hf : f.off < 0x1000) : ¬ Watched (bSk k + f.off) := not_watched_sk k hf
  exact ((((((h.wr (at_ (f := F.Sk.POOLSTAT.IN_SERVICE) (by decide)) _).wr (at_ (f := F.Sk.POOLSTAT.IN_CAL) (by decide)) _).wr
    (at_ (f := F.Sk.POOLSTAT.FAILED) (by decide)) _).wr (at_ (f := F.Sk.UNIT_CAL) (by decide)) _).wr
    (at_ (f := F.Sk.UNIT_FAIL) (by decide)) _).wr (at_ (f := F.Sk.TCSTAT.NOROT) (by decide)) _).wr
    (at_ (f := F.Sk.TCSTAT.POOL_DEGRADED) (by decide)) _

theorem balanceKept_crowdNotice (k g : Nat) (ch rising : Bool) (h : BalanceKept s t) :
    BalanceKept s (crowdNotice k g ch rising t) := by
  unfold crowdNotice
  extract_lets c ep n
  split
  · exact h.updSkein
  · exact h.updSkein

/-- An edge that the pool serves is either with a unit, and not yet counted, or counted as shed (R59, R63). -/
theorem balanceKept_serveEdge (k : Nat) (x : Stamp) (notes : List Stamp) (h : BalanceKept s t) :
    BalanceKept s (serveEdge k x notes t) := by
  unfold serveEdge
  extract_lets a
  split
  · exact h.updSkein.beside (beside_poolUpd k ((Beside.refl _).wr (not_watched_sk k (f := F.Sk.POOLSTAT.PEAK) (by decide)) _))
  · exact (balanceKept_countEdge _ _ _ h.updSkein).updChan

theorem balanceKept_takeEdge (k g : Nat) (ch rising : Bool) (fs : Nat) (h : BalanceKept s t) :
    BalanceKept s (takeEdge k g ch rising fs t) := by
  unfold takeEdge
  extract_lets c now last crowded open_ s0 tap x later s1 s2
  have h0 : BalanceKept s s0 := by
    dsimp only [s0]
    split
    · exact h
    · exact h
  split
  · exact balanceKept_crowdNotice _ _ _ _ (balanceKept_countEdge _ _ _ h0)
  · exact forL_keeps (BalanceKept s) _ _ (fun p _ hu => balanceKept_serveEdge k p.1 p.2 hu) _
      (balanceKept_serveEdge k x [] h0.updSkein.updChan)

theorem balanceKept_edge {k c : Nat} (hg : 16 * k + c < 512) (ch rising : Bool) (fs : Nat) (s : State) :
    BalanceKept s (edge k c ch rising fs s) := by
  unfold edge
  extract_lets g out early s1
  have h1 : BalanceKept s s1 := (BalanceKept.refl s).updChan.beside (beside_noteListen hg (Beside.refl _))
  split
  · exact BalanceKept.refl s
  · split
    · exact balanceKept_takeEdge _ _ _ _ _ h1
    · exact h1

theorem balanceKept_convComplete (k u q : Nat) (s : State) : BalanceKept s (convComplete k u q s) := by
  unfold convComplete
  split
  · exact BalanceKept.refl s
  · exact forL_keeps (BalanceKept s) _ _ (fun p _ hu => balanceKept_countEdge _ _ _ hu.updSkein) _
      (BalanceKept.refl s).updSkein.updChan.updSkein

/-! ### Snapshot and clear (R68, R69) -/

theorem beside_snapCounters (k : Nat) (h : Beside s t) : Beside s (snapCounters k t) := by
  have snap : ∀ f ∈ liveCounters, 0x80 ≤ f.off + 0x40 ∧ f.off + 0x40 < 0x100 := by decide
  refine Beside.inc ?_ (f := F.Sk.TCSTAT.SNAP_SEQ) (not_watched_sk k (by decide)) 1
  refine forN_keeps (Beside s) 16 _ (fun c u hu => ?_) t h
  exact forL_keeps_mem (Beside s) _ _ (fun f hf _ hv =>
    hv.wr (f := { f with off := f.off + 0x40 }) (not_watched_ch _ (snap f hf).1 (snap f hf).2) _) hu

/-- The eight counters of channel g cleared. -/
def clearChan (g : Nat) (s : State) : State := forL liveCounters (fun f t => t.clr (bCh g) f) s

theorem rd_clr_counter {f f' : Fld} (hf : f ∈ liveCounters) (hf' : f' ∈ liveCounters) (g g' : Nat) (s : State) :
    (s.clr (bCh g) f).rd (bCh g') f' = if g' = g ∧ f' = f then 0 else s.rd (bCh g') f' :=
  rd_wr_counter hf hf' g g' 0 s

theorem rd_clearChan {f : Fld} (hf : f ∈ liveCounters) (g g' : Nat) (s : State) :
    (clearChan g s).rd (bCh g') f = if g' = g then 0 else s.rd (bCh g') f := by
  have clears : ∀ l : List Fld, (∀ a ∈ l, a ∈ liveCounters) → ∀ s : State,
      (forL l (fun f t => t.clr (bCh g) f) s).rd (bCh g') f = if g' = g ∧ f ∈ l then 0 else s.rd (bCh g') f := by
    intro l
    induction l with
    | nil => intro _ s; simp [forL]
    | cons a l ih =>
      intro hl s
      have hrec := ih (fun b hb => hl b (List.mem_cons_of_mem a hb)) (s.clr (bCh g) a)
      rw [rd_clr_counter (hl a (List.mem_cons_self ..)) hf] at hrec
      refine hrec.trans ?_
      by_cases hg : g' = g <;> by_cases ha : f = a <;> by_cases hm : f ∈ l <;> simp [hg, ha, hm]
  refine (clears liveCounters (fun _ h => h) s).trans ?_
  simp only [hf, and_true]

theorem balanceKept_clearChan (g : Nat) (h : BalanceKept s t) : BalanceKept s (clearChan g t) := by
  refine h.trans (fun g' ch hs => ?_)
  rw [Balanced, rd_clearChan (fEdges_live ch), rd_clearChan (fFine_live ch), rd_clearChan (fShed_live ch),
    rd_clearChan (fCrowded_live ch)]
  by_cases hg : g' = g
  · simp [hg]
  · simp only [hg, if_false]
    exact hs

theorem balanceKept_clearCounters (k : Nat) (h : BalanceKept s t) : BalanceKept s (clearCounters k t) := by
  have hc : BalanceKept s (forN 16 (fun c t => clearChan (16 * k + c) t) t) :=
    forN_keeps (BalanceKept s) 16 _ (fun _ _ hu => balanceKept_clearChan _ hu) t h
  have at_ {f : Fld} (hf : f.off < 0x1000) : ¬ Watched (bSk k + f.off) := not_watched_sk k hf
  exact hc.beside ((((Beside.refl _).clr (at_ (f := F.Sk.UNLOCKED_EDGES) (by decide))).wr
    (at_ (f := F.Sk.POOLSTAT.PEAK) (by decide)) _).wr (at_ (f := F.Sk.TCSTAT.ACCT_VOID) (by decide)) 0)

/-- A command access that is not guarded keeps what its command keeps: a domain that is off counts nothing. -/
theorem balanceKept_cmdAccess {x : Nat} {f : State → State} (hf : ∀ u, BalanceKept s u → BalanceKept s (f u))
    (h : BalanceKept s t) : BalanceKept s (cmdAccess x false false f t) := by
  cases hr : t.reachable x with
  | true => rw [cmdAccess_on t x false f hr]; exact hf _ h
  | false =>
    rw [cmdAccess_off t x false false f hr]
    exact BalanceKept.beside (t := touch x t) h ((Beside.refl _).raise (not_watched_ctl (by decide)) 0)

/-! ### Conversions (R55-R57) -/

theorem getElem?_updAt {α : Type} (f : α → α) (l : List α) (i j : Nat) :
    (updAt i f l)[j]? = if j = i then l[j]?.map f else l[j]? := by
  induction l generalizing i j with
  | nil => cases i <;> simp [updAt]
  | cons a l ih =>
    cases i with
    | zero => cases j <;> simp [updAt]
    | succ i => cases j <;> simp [updAt, ih]

/-- A conversion that ends while its skein holds no assembled stamp back and no earlier edge of its comparator converts. -/
structure EndsFirst (s : State) (k u : Nat) (v : VUnit) (x : Stamp) : Prop where
  unit : (s.skein k).units[u]? = some v
  busy : v.busy = some x
  alone : v.notices = []
  clear : (s.skein k).asm = []
  first : ∀ (i : Nat) (w : VUnit) (z : Stamp), i ≠ u → (s.skein k).units[i]? = some w → w.busy = some z →
    z.g = x.g → z.ch = x.ch → x.tap ≤ z.tap

/-- The fine stamp of a conversion with raw code q (R55). -/
def VUnit.fine (v : VUnit) (x : Stamp) (q : Nat) : Stamp := { x with t := x.t + atD v.table q 0 }

/-- What the end of a conversion leaves of its unit (R56). -/
def VUnit.converted (q : Nat) (w : VUnit) : VUnit := { w with busy := none, notices := [], freeAt := w.tap + 65 + 16 * q }

/-- The skein with unit u's conversion at its end. -/
def Skein.converted (u q : Nat) (y : Stamp) (notes : List Stamp) (z : Skein) : Skein :=
  { z with units := updAt u (VUnit.converted q) z.units, asm := insAsm (y, notes) z.asm }

theorem convComplete_eq {k u q : Nat} {v : VUnit} {x : Stamp} (hu : (s.skein k).units[u]? = some v) (hb : v.busy = some x) :
    convComplete k u q s = assembleAll k
      ((s.updSkein k (Skein.converted u q (v.fine x q) v.notices)).updChan x.g (noteLast (v.fine x q))) := by
  unfold convComplete
  rw [hu, Option.bind_some, hb, Option.map_some]
  rfl

theorem assembleAll_one {k : Nat} {y : Stamp} (ha : (s.skein k).asm = [(y, [])]) (hb : (s.skein k).before y = false) :
    assembleAll k s = assemble k y [] (s.updSkein k (fun z => { z with asm := [] })) := by
  have hdrop : s.updSkein k (fun z => { z with asm := z.asm.filter (fun p => z.before p.1) }) =
      s.updSkein k (fun z => { z with asm := [] }) := by
    dsimp only [State.updSkein]
    rw [ha]
    simp [hb]
  unfold assembleAll
  dsimp only
  rw [hdrop, ha]
  simp [hb, forL]

section Conversion

variable {k u : Nat} {v : VUnit} {x : Stamp} (q : Nat) (h : EndsFirst s k u v x)

include h

theorem EndsFirst.before_converted :
    (Skein.converted u q (v.fine x q) v.notices (s.skein k)).before (v.fine x q) = false := by
  rw [Skein.before, List.any_eq_false]
  intro w hw hbusy
  obtain ⟨i, hi⟩ := List.mem_iff_getElem?.mp hw
  obtain ⟨z, hz, hmine⟩ := (Option.any_eq_true ..).mp hbusy
  simp only [Bool.and_eq_true, beq_iff_eq, decide_eq_true_eq] at hmine
  obtain ⟨⟨hg, hch⟩, htap⟩ := hmine
  rw [Skein.converted, getElem?_updAt] at hi
  split at hi
  · rename_i hiu
    rw [hiu, h.unit] at hi
    cases hi
    cases hz
  · rename_i hiu
    exact absurd htap (Nat.not_lt.mpr (h.first i w z hiu hi hz hg hch))

/-- Such a conversion has its stamp assembled at once (R57). -/
theorem EndsFirst.convComplete_eq : convComplete k u q s = assemble k (v.fine x q) [] (((s.updSkein k
    (Skein.converted u q (v.fine x q) v.notices)).updChan x.g (noteLast (v.fine x q))).updSkein k
      (fun z => { z with asm := [] })) := by
  rw [Machine.convComplete_eq h.unit h.busy]
  refine assembleAll_one ?_ ?_
  · rw [updChan_skein, skein_updSkein_same, Skein.converted, h.clear, h.alone]; rfl
  · rw [updChan_skein, skein_updSkein_same]; exact h.before_converted q

end Conversion

theorem countEdge_skein (g : Nat) (ch : Bool) (kind k : Nat) (s : State) :
    (countEdge g ch kind s).skein k = s.skein k := by
  rw [State.skein, (beside_countEdge ..).skeins]; rfl

/-- What the assembly of a stamp without notices leaves of its skein (R57, R67). -/
theorem assemble_skein (k : Nat) (y : Stamp) (s : State) :
    (assemble k y [] s).skein k = { s.skein k with bus := (s.skein k).bus ++ [.stamp y] } := by
  rw [assemble, countEdge_skein, skein_updSkein_same, List.map_nil]
  dsimp only
  rw [List.append_nil]

theorem assemble_hbm (k : Nat) (y : Stamp) (s : State) : (assemble k y [] s).hbm = s.hbm := (beside_countEdge ..).hbm

/-- An assembled stamp counts as fine (R67). -/
theorem rd_assemble {f : Fld} (hf : f ∈ liveCounters) (k : Nat) (y : Stamp) (s : State) :
    (assemble k y [] s).rd (bCh y.g) f =
      if f = fEdges y.ch ∨ f = fFine y.ch then (s.rd (bCh y.g) f + 1) % 2 ^ 48 else s.rd (bCh y.g) f := by
  unfold assemble
  rw [rd_countEdge hf]
  simp only [true_and, fKind]
  rfl

section Conversion

variable {k u : Nat} {v : VUnit} {x : Stamp} (q : Nat) (h : EndsFirst s k u v x)

include h

theorem EndsFirst.bus : ((convComplete k u q s).skein k).bus = (s.skein k).bus ++ [.stamp (v.fine x q)] := by
  rw [h.convComplete_eq, assemble_skein, skein_updSkein_same, updChan_skein, skein_updSkein_same]; rfl

theorem EndsFirst.unit_freed : ((convComplete k u q s).skein k).units[u]? = some (v.converted q) := by
  rw [h.convComplete_eq, assemble_skein, skein_updSkein_same, updChan_skein, skein_updSkein_same, Skein.converted]
  rw [getElem?_updAt, if_pos rfl, h.unit]; rfl

theorem EndsFirst.hbm : (convComplete k u q s).hbm = s.hbm := by rw [h.convComplete_eq, assemble_hbm]; rfl

theorem EndsFirst.counter {f : Fld} (hf : f ∈ liveCounters) : (convComplete k u q s).rd (bCh x.g) f =
    if f = fEdges x.ch ∨ f = fFine x.ch then (s.rd (bCh x.g) f + 1) % 2 ^ 48 else s.rd (bCh x.g) f := by
  rw [h.convComplete_eq]
  exact rd_assemble hf k (v.fine x q) _

end Conversion

/-- A released unit, its occupancy over, is free for every later tap (R56). -/
theorem unitRelease_unit {k u : Nat} {v : VUnit} (hu : (s.skein k).units[u]? = some v) (hb : v.busy = none)
    (hf : v.freeAt ≤ s.cycle * 32) : ((unitRelease k u s).skein k).units[u]? = some { v with freeAt := 0 } := by
  rw [unitRelease, skein_updSkein_same]
  dsimp only
  rw [getElem?_updAt, if_pos rfl, hu, Option.map_some, if_pos ⟨by rw [hb]; rfl, hf⟩]

/-! ### The statement -/

/-- A command whose meaning is a state change does it while the device runs. -/
theorem runs_of_act {c : Instr} {f : State → State} {P : State → Prop} (hc : exec c s = act s f) (hr : s.phase = .running)
    (hp : P (f s)) : Runs c s P := ⟨f s, hc.trans (act_running s f hr), hp⟩

/-- Every command of the accounting keeps EDGES = FINE + SHED + CROWDED (R66-R69). -/
theorem runs_balanceKept {k : Fin 32} {c : Instr} (hr : s.phase = .running)
    (hc : (∃ i comp rising fs, c = .edge k i comp rising fs) ∨ (∃ u q, c = .vernierConversionComplete k u q) ∨
      (c = .stampDelivery k ∧ ∀ x rest, (s.skein k).bus = .stamp x :: rest → x.g < 512) ∨ (∃ b, c = .cntSnap k b) ∨
      c = .cntClr k) : Runs c s (BalanceKept s) := by
  rcases hc with ⟨i, comp, rising, fs, rfl⟩ | ⟨u, q, rfl⟩ | ⟨rfl, hbus⟩ | ⟨both, rfl⟩ | rfl
  · exact runs_of_act (f := edge k i (comp == .ch) rising fs) rfl hr (balanceKept_edge (by omega) _ _ _ s)
  · exact runs_of_act (f := convComplete k u q) rfl hr (balanceKept_convComplete k u q s)
  · exact runs_of_act (f := deliver k) rfl hr (balanceKept_of_counters (fun g _ hf => deliver_counter hbus g hf))
  · refine runs_of_act rfl hr (balanceKept_cmdAccess (fun t ht => ?_) (BalanceKept.refl s))
    have hs : BalanceKept s (snapCounters k t) := ht.beside (beside_snapCounters k (Beside.refl t))
    split
    · exact balanceKept_clearCounters k hs
    · exact hs
  · exact runs_of_act rfl hr (balanceKept_cmdAccess (fun _ ht => balanceKept_clearCounters k ht) (BalanceKept.refl s))

/-- Settles O29: the conversion's four effects from its equation, the release from the unit's list, the delivery from the
frames of the slots, and the accounting from the commands that keep the balance. -/
theorem stampsAreDelivered : Obligations.StampsAreDelivered := by
  unfold Obligations.StampsAreDelivered
  intro s k hr
  refine ⟨?_, ?_, ?_, ?_⟩
  · intro u q v x hu hb hn ha y hfirst
    have h : EndsFirst s k u v x := ⟨hu, hb, hn, ha, hfirst⟩
    have shed : fShed x.ch ≠ fEdges x.ch ∧ fShed x.ch ≠ fFine x.ch := by cases x.ch <;> decide
    have crowded : fCrowded x.ch ≠ fEdges x.ch ∧ fCrowded x.ch ≠ fFine x.ch := by cases x.ch <;> decide
    refine runs_of_act (f := convComplete k u q) rfl hr
      ⟨h.bus q, ⟨_, h.unit_freed q, rfl, rfl⟩, ?_, ?_, ?_, ?_, fun _ => by rw [h.hbm q]⟩
    · rw [Grew, h.counter q (fEdges_live _), if_pos (.inl rfl), (counter_width (fEdges_live _)).2]
    · rw [Grew, h.counter q (fFine_live _), if_pos (.inr rfl), (counter_width (fFine_live _)).2]
    · rw [Held, h.counter q (fShed_live _), if_neg (not_or.mpr shed)]
    · rw [Held, h.counter q (fCrowded_live _), if_neg (not_or.mpr crowded)]
  · intro u v hu hb hf
    exact runs_of_act (f := unitRelease k u) rfl hr ⟨unitRelease_unit hu hb hf, fun _ _ => rfl, fun _ => rfl⟩
  · intro x rest hbus hk hep hd e
    have hpop := deliver_stamp_bus hbus (by omega)
    exact runs_of_act (f := deliver k) rfl hr ⟨hpop.1, fun _ => by rw [hpop.2], fun j hj hlive htimed htakes hslope =>
      deliver_stamp_taker hbus hj hk hep hd ⟨hlive, htimed, htakes, hslope⟩⟩
  · intro adds c hc _ _
    obtain ⟨t, ht, hbal⟩ := runs_balanceKept hr (hc.imp_right (Or.imp_right (Or.imp_left (And.imp_right
      (fun hhead x rest hbus => hhead (.stamp x) (by rw [hbus]; rfl))))))
    exact ⟨t, ht, fun g ch _ hs => hbal g ch hs⟩

end Sys2Proof.Machine
end

section
/-! SUPPORT. A TBCLK cycle in a state that no command leads to: a vector unit that holds a USER mark for a stream beyond 63
(R51, R185, R223). -/

namespace Sys2Proof.Machine

open Host

/-- A mark that waits for its S in vector unit 0 and names stream 6208. The counters of such a stream would lie where the
registers of engine 0 lie: its SCTL at ECTL, its GENERATED at ECYCLES. TRS is on and ECTL.START reads 1, so that the stream
counts as enabled. -/
def strayMark : State :=
  ((State.reset.wr bThm F.Thm.PDSTAT1 (2 ^ 23)).wr (bEng 0) F.Eng.ECTL.START 1).updVu 0
    (fun v => { v with atS := [(0, .mark 6208 0 0#64)] })

theorem bStr_6208_is_bEng : bStr 6208 + F.Trs.SCTL.EN.off = bEng 0 + F.Eng.ECTL.START.off ∧
    bStr 6208 + F.Trs.GENERATED.off = bEng 0 + F.Eng.ECYCLES.off := by decide

theorem strayMark_idle : strayMark.pending = [] ∧ strayMark.phase = .running ∧ strayMark.viewOps = [] ∧
    strayMark.engState 0 = 0 ∧ strayMark.rd (bEng 0) F.Eng.ECYCLES = 0 := by decide +kernel

/-! ### The servos leave the engines alone -/

theorem setThr_reg {x : Nat} (hx : 0x1000 ≤ x % 0x10000) (g : Nat) (ch : Bool) (v : Int) (s : State) :
    (setThr g ch v s).reg x = s.reg x := by
  have hne : ∀ f : Fld, f.off < 0x100 → x ≠ bCh g + f.off := fun f hf => by simp only [bCh, bSkein]; omega
  unfold setThr
  split
  · exact reg_wr_other _ _ F.Ch.THR_NOW.VCH_NOW _ x (hne _ (by decide))
  · exact reg_wr_other _ _ F.Ch.THR_NOW.VCL_NOW _ x (hne _ (by decide))

theorem servo_reg {x : Nat} (hx : 0x1000 ≤ x % 0x10000) (g : Nat) (ch : Bool) (s : State) :
    (servo g ch s).reg x = s.reg x := by
  have hlow : ∀ v, (s.wr (bCh g) (fLow ch) v).reg x = s.reg x := fun v => by
    have hoff : (fLow ch).off < 0x100 := by cases ch <;> decide
    exact reg_wr_other _ _ _ _ x (by simp only [bCh, bSkein]; omega)
  unfold servo
  split
  · rfl
  · dsimp only
    split
    · exact hlow 1
    · rw [setThr_reg hx, hlow 0]

/-- What a cycle does before the servos take their step (R32). -/
def beforeServos (s : State) : State :=
  let t := irqWatch (replayViews (forN 32 tickEngine (forN 4 armTick s)))
  forN 32 dueTick (hitchTick { (slewTick t) with
    cycle := s.cycle + 1, coarse := (s.coarse + 1) % coarseMod, regs0 := t.regs, staged0 := t.staged, raised := [] })

theorem tick_running {s : State} (h : s.phase = .running) : tick s = servoTick (beforeServos s) := by
  unfold tick
  rw [h]
  rfl

theorem servoTick_reg {x : Nat} (hx : 0x1000 ≤ x % 0x10000) (s : State) : (servoTick s).reg x = s.reg x := by
  unfold servoTick
  exact forN_keeps (fun t => t.reg x = s.reg x) _ _
    (fun g t ht => ((servo_reg hx g false _).trans (servo_reg hx g true t)).trans ht) s rfl

theorem servoTick_cycles (k : Nat) (s : State) :
    (servoTick s).rd (bEng k) F.Eng.ECYCLES = s.rd (bEng k) F.Eng.ECYCLES := by
  rw [State.rd, servoTick_reg (by simp only [bEng, bSkein, F.Eng.ECYCLES]; omega), State.rd]

/-! ### The cycle -/

/-- The cycle brings the mark to its stream, and its count lands in ECYCLES of an engine that is IDLE. -/
theorem beforeServos_strayMark : (beforeServos strayMark).rd (bEng 0) F.Eng.ECYCLES = 1 := by decide +kernel

/-- Refutes O57: the statement takes any state, and in one where a waiting mark names stream 6208 the mark counts in ECYCLES
of engine 0, which is IDLE and should hold it. MARK itself names streams 0 to 63 alone (R206). -/
theorem not_emptyQueueTicks : ¬ Obligations.EmptyQueueTicks := by
  unfold Obligations.EmptyQueueTicks
  intro h
  obtain ⟨hpending, hphase, hviews, hidle, hcycles⟩ := strayMark_idle
  obtain ⟨t, ht, -, -, -, -, -, hheld, -⟩ := h strayMark hpending hphase hviews
  have htick : tick strayMark = t := by
    rw [step, hpending] at ht
    exact Outcome.next.inj ht
  have hsame : t.rd (bEng 0) F.Eng.ECYCLES = strayMark.rd (bEng 0) F.Eng.ECYCLES :=
    hheld 0 (by decide) (by rw [hidle]; decide) (by rw [hidle]; decide)
  rw [← htick, tick_running hphase, servoTick_cycles, beforeServos_strayMark, hcycles] at hsame
  exact absurd hsame (by decide)

end Sys2Proof.Machine
end

section
/-! SUPPORT. What capture, measurement, trigger and link operations leave to the engines and the lock loops: the words of
ESTAT, TCSTAT and DLLRES, the repetition counts, the cycle and the stack. -/

namespace Sys2Proof.Machine

open Host

variable {s t : State}

/-! ### The anchor of a state -/

/-- The offsets of TCSTAT, DLLRES and ESTAT of the skeins. -/
abbrev Anchored (x : Nat) : Prop :=
  0x100000 ≤ x ∧ (x % 0x10000 = 0x1008 ∨ x % 0x10000 = 0x1028 ∨ x % 0x10000 = 0x3028)

/-- What the operations of this part leave alone. An operation on parts that are not in it (slots, streams, channels, the
ports) leaves it by computation. -/
structure Anchor where
  word : Nat → Word
  rpt : Nat → Option Nat
  cycle : Nat
  stack : Hbm

/-- The anchor of a state. -/
def State.anchor (s : State) : Anchor where
  word := fun x => if Anchored x then s.reg x else 0#64
  rpt := fun k => (s.eng k).rpt
  cycle := s.cycle
  stack := s.hbm

theorem reg_of_anchor (h : t.anchor = s.anchor) {x : Nat} (hx : Anchored x) : t.reg x = s.reg x := by
  have hw := congrFun (congrArg Anchor.word h) x
  simpa only [State.anchor, if_pos hx] using hw

theorem rd_of_anchor (h : t.anchor = s.anchor) {b : Nat} {f : Fld} (hx : Anchored (b + f.off)) : t.rd b f = s.rd b f := by
  rw [State.rd, reg_of_anchor h hx, State.rd]

theorem rpt_of_anchor (h : t.anchor = s.anchor) (k : Nat) : (t.eng k).rpt = (s.eng k).rpt :=
  congrFun (congrArg Anchor.rpt h) k

theorem cycle_of_anchor (h : t.anchor = s.anchor) : t.cycle = s.cycle := congrArg Anchor.cycle h

theorem memKept_of_anchor (h : t.anchor = s.anchor) : MemKept s t := fun l =>
  congrArg (fun a => a.stack.get l) h

theorem anchored_estat (k : Nat) : Anchored (estatOff k) := by
  simp only [Anchored, estatOff, bEng, bSkein]; omega

theorem anchored_sk (k : Nat) {y : Nat} (hy : y = 0x8 ∨ y = 0x28) : Anchored (bSk k + y) := by
  simp only [Anchored, bSk, bSkein]; omega

/-! ### The registers outside it -/

theorem not_anchored_low {x : Nat} (h : x < 0x100000) : ¬ Anchored x := by simp only [Anchored]; omega

theorem not_anchored_str {i : Nat} (hi : i < 64) {y : Nat} (hy : y < 0x2000) : ¬ Anchored (bStr i + y) :=
  not_anchored_low (by simp only [bStr, bTrs]; omega)

theorem not_anchored_cond {i : Nat} (hi : i < 16) {y : Nat} (hy : y < 0x2000) : ¬ Anchored (bCond i + y) :=
  not_anchored_low (by simp only [bCond, bTrs]; omega)

theorem not_anchored_dom {d : Nat} (hd : d < 4) {y : Nat} (hy : y < 0x2000) : ¬ Anchored (bDom d + y) :=
  not_anchored_low (by simp only [bDom, bTrs]; omega)

theorem not_anchored_cred (q v : Nat) {y : Nat} (hy : y < 0x2000) : ¬ Anchored (bCred q v + y) :=
  not_anchored_low (by simp only [bCred, bLp, bLnk]; omega)

theorem not_anchored_slot (k : Nat) {j : Nat} (hj : j < 64) {y : Nat} (hy : y < 0x40) : ¬ Anchored (bSlot k j + y) := by
  simp only [Anchored, bSlot, bSkein]; omega

theorem not_anchored_mauerr (k : Nat) : ¬ Anchored (bSk k + F.Sk.MAUERR.CFGERR.off) := by
  simp only [Anchored, bSk, bSkein, F.Sk.MAUERR.CFGERR]; omega

/-- The registers of an engine beside ESTAT. -/
theorem not_anchored_eng (k : Nat) {y : Nat} (hy : y < 0x1000) (hne : y ≠ 0x28) : ¬ Anchored (bEng k + y) := by
  simp only [Anchored, bEng, bSkein]; omega

/-! ### Writes, branches and loops -/

/-- What has the same registers, engines, cycle and stack has the same anchor. -/
theorem anchor_congr (hr : t.regs = s.regs) (he : t.engs = s.engs) (hc : t.cycle = s.cycle) (hm : t.hbm = s.hbm) :
    t.anchor = s.anchor := by
  unfold State.anchor State.reg State.eng
  rw [hr, he, hc, hm]

section Updates

variable (s : State)

theorem anchor_updStrm (i : Nat) (f : Strm → Strm) : (s.updStrm i f).anchor = s.anchor := anchor_congr rfl rfl rfl rfl
theorem anchor_updDom (d : Nat) (f : Dom → Dom) : (s.updDom d f).anchor = s.anchor := anchor_congr rfl rfl rfl rfl
theorem anchor_updSkein (k : Nat) (f : Skein → Skein) : (s.updSkein k f).anchor = s.anchor := anchor_congr rfl rfl rfl rfl
theorem anchor_updSlot (k j : Nat) (f : Slot → Slot) : (s.updSlot k j f).anchor = s.anchor := anchor_congr rfl rfl rfl rfl
theorem anchor_setSlot (k j : Nat) (v : Slot) : (s.setSlot k j v).anchor = s.anchor := anchor_congr rfl rfl rfl rfl
theorem anchor_updLp (q : Nat) (f : LPort → LPort) : (s.updLp q f).anchor = s.anchor := anchor_congr rfl rfl rfl rfl
theorem anchor_updLnk (f : Lnk → Lnk) : (s.updLnk f).anchor = s.anchor := anchor_congr rfl rfl rfl rfl
theorem anchor_setStg (x : Nat) (w : Word) : (s.setStg x w).anchor = s.anchor := anchor_congr rfl rfl rfl rfl
theorem anchor_setTw (x : Nat) (w : BitVec 32) : (s.setTw x w).anchor = s.anchor := anchor_congr rfl rfl rfl rfl
theorem anchor_out (o : Out) : (s.out o).anchor = s.anchor := anchor_congr rfl rfl rfl rfl
theorem anchor_fresh : s.fresh.anchor = s.anchor := anchor_congr rfl rfl rfl rfl
theorem anchor_commits (l : List Commit) : { s with commits := l }.anchor = s.anchor := anchor_congr rfl rfl rfl rfl
theorem anchor_condCnt (c : Table Nat) : { s with condCnt := c }.anchor = s.anchor := anchor_congr rfl rfl rfl rfl
theorem anchor_raised (r : Table Word) : { s with raised := r }.anchor = s.anchor := anchor_congr rfl rfl rfl rfl
theorem anchor_noteDll (k : Nat) (lock : Bool) : (noteDll k lock s).anchor = s.anchor := anchor_congr rfl rfl rfl rfl

end Updates

theorem anchor_setReg {x : Nat} (hx : ¬ Anchored x) (w : Word) (s : State) : (s.setReg x w).anchor = s.anchor := by
  have hword : (s.setReg x w).anchor.word = s.anchor.word := by
    funext y
    dsimp only [State.anchor]
    by_cases hy : Anchored y
    · rw [if_pos hy, if_pos hy, reg_setReg_other s x y w (fun h => hx (h ▸ hy))]
    · rw [if_neg hy, if_neg hy]
  exact congrArg (fun a => Anchor.mk a s.anchor.rpt s.anchor.cycle s.anchor.stack) hword

theorem anchor_wr {b : Nat} {f : Fld} (hx : ¬ Anchored (b + f.off)) (v : Nat) (s : State) :
    (s.wr b f v).anchor = s.anchor := anchor_setReg hx _ s

theorem anchor_inc {b : Nat} {f : Fld} (hx : ¬ Anchored (b + f.off)) (n : Nat) (s : State) :
    (s.inc b f n).anchor = s.anchor := anchor_setReg hx _ s

theorem anchor_raise {b : Nat} {f : Fld} (hx : ¬ Anchored (b + f.off)) (i : Nat) (s : State) :
    (s.raise b f i).anchor = s.anchor := (anchor_raised _ _).trans (anchor_setReg hx _ s)

theorem anchor_setBit {b : Nat} {f : Fld} (hx : ¬ Anchored (b + f.off)) (i : Nat) (v : Bool) (s : State) :
    (s.setBit b f i v).anchor = s.anchor := anchor_setReg hx _ s

/-- A change of an engine that leaves its repetition count. -/
theorem anchor_updEng (k : Nat) {f : Eng → Eng} (hf : ∀ e, (f e).rpt = e.rpt) (s : State) :
    (s.updEng k f).anchor = s.anchor := by
  have hrpt : (s.updEng k f).anchor.rpt = s.anchor.rpt := by
    funext j
    by_cases hj : j = k
    · subst hj; exact (congrArg Eng.rpt (eng_updEng_same s j f)).trans (hf _)
    · exact congrArg Eng.rpt (eng_updEng_other s k j f hj)
  exact congrArg (fun a => Anchor.mk s.anchor.word a s.anchor.cycle s.anchor.stack) hrpt

theorem anchor_ite {a : Anchor} {c : Prop} [Decidable c] (hs : s.anchor = a) (ht : t.anchor = a) :
    (if c then s else t).anchor = a := by
  split
  · exact hs
  · exact ht

theorem anchor_forN (n : Nat) (f : Nat → State → State) (h : ∀ i < n, ∀ t, (f i t).anchor = t.anchor) (s : State) :
    (forN n f s).anchor = s.anchor :=
  forN_keeps_lt (fun t => t.anchor = s.anchor) n f (fun i hi t ht => (h i hi t).trans ht) rfl

theorem anchor_forL {α : Type} (l : List α) (f : α → State → State) (h : ∀ a ∈ l, ∀ t, (f a t).anchor = t.anchor)
    (s : State) : (forL l f s).anchor = s.anchor :=
  forL_keeps_mem (fun t => t.anchor = s.anchor) l f (fun a ha t ht => (h a ha t).trans ht) rfl

/-! ### The raw formatter (R225-R227, R239, R243-R247) -/

section Formatter

variable {i : Nat} (hi : i < 64)

include hi

theorem anchor_pushItem (r : Rec) (s : State) : (pushItem i r s).anchor = s.anchor :=
  (anchor_updStrm ..).trans (anchor_inc (f := F.Trs.GENERATED) (not_anchored_str hi (by decide)) 1 s)

theorem anchor_offer (r : Rec) (s : State) : (offer i r s).anchor = s.anchor := anchor_ite (anchor_pushItem hi r s) rfl

theorem anchor_closeRaw (o : RawOpen) (ref : Nat) (last : Bool) (s : State) :
    (closeRaw i o ref last s).anchor = s.anchor := by
  unfold closeRaw
  dsimp only
  have hcount : ∀ n, (((s.inc (bStr i) F.Trs.GENERATED n).inc (bStr i) F.Trs.DECIMATED n)).anchor = s.anchor := fun n =>
    (anchor_inc (not_anchored_str hi (by decide)) n _).trans (anchor_inc (not_anchored_str hi (by decide)) n s)
  exact anchor_ite (anchor_ite ((anchor_updStrm ..).trans (hcount _)) rfl)
    (anchor_ite (anchor_updStrm ..) (anchor_updStrm ..))

theorem anchor_closeSplit (o : RawOpen) (bef : Stamp → Bool) (ref : Nat) (last : Bool) (m : RawMode) (s : State) :
    (closeSplit i o bef ref last m s).anchor = s.anchor := 
  (anchor_closeRaw hi _ ref last _).trans (anchor_updStrm ..)

theorem anchor_closeWhole (o : RawOpen) (ref : Nat) (s : State) : (closeWhole i o ref s).anchor = s.anchor :=
  anchor_closeSplit hi ..

theorem anchor_keepStamp (x : Stamp) (m : RawMode) (s : State) : (keepStamp i x m s).anchor = s.anchor := by
  unfold keepStamp
  dsimp only
  generalize (s.strm i).opens.find? _ = found
  cases found with
  | none => exact anchor_updStrm ..
  | some o =>
    exact anchor_ite ((anchor_updStrm ..).trans (anchor_closeWhole hi ..))
      (anchor_ite ((anchor_closeWhole hi ..).trans (anchor_updStrm ..)) (anchor_updStrm ..))

theorem anchor_decStamp (x : Stamp) (m : RawMode) (s : State) : (decStamp i x m s).anchor = s.anchor := by
  unfold decStamp
  refine anchor_ite ((anchor_updStrm ..).trans (anchor_inc (f := F.Trs.DECIMATED) (not_anchored_str hi (by decide)) 1 s)) ?_
  split
  · exact anchor_updStrm ..
  · exact anchor_updStrm ..

theorem anchor_placeStamp (m : RawMode) (x : Stamp) (s : State) : (placeStamp i m x s).anchor = s.anchor := by
  have place (c : Prop) [Decidable c] {t : State} (ht : t.anchor = s.anchor) :
      (if c then keepStamp i x m t else decStamp i x m t).anchor = s.anchor :=
    anchor_ite ((anchor_keepStamp hi x m t).trans ht) ((anchor_decStamp hi x m t).trans ht)
  unfold placeStamp
  dsimp only
  split
  · exact place _ ((anchor_updStrm ..).trans (anchor_closeWhole hi ..))
  · exact place _ (anchor_updStrm ..)

theorem anchor_closeAll (l : List RawOpen) (bef : RawOpen → Stamp → Bool) (ref : RawOpen → Nat) (last : Bool)
    (m : State → RawMode) (s : State) :
    (forL l (fun o t => closeSplit i o (bef o) (ref o) last (m t) t) s).anchor = s.anchor :=
  anchor_forL _ _ (fun o _ t => anchor_closeSplit hi o _ _ _ _ t) s

/-- The marks with which a cut ends. -/
theorem anchor_cutMarks (r : RawCut) (w : Nat) (s : State) :
    (match r.dec with
      | some m => decFinish i m ((match r.trig with | some m => trigFinish i w m s | none => s).updStrm i
          (fun y => { y with idx := List.replicate 16 0 }))
      | none => match r.trig with | some m => trigFinish i w m s | none => s).anchor = s.anchor := by
  have htrig : ∀ m, (trigFinish i w m s).anchor = s.anchor := fun _ =>
    (anchor_pushItem hi ..).trans (anchor_updStrm ..)
  have hdec : ∀ d (t : State), t.anchor = s.anchor →
      (decFinish i d (t.updStrm i (fun y => { y with idx := List.replicate 16 0 }))).anchor = s.anchor := fun _ _ ht =>
    (anchor_pushItem hi ..).trans ((anchor_updStrm ..).trans ht)
  rcases r.dec with _ | d <;> rcases r.trig with _ | m
  · rfl
  · exact htrig m
  · exact hdec d s rfl
  · exact hdec d _ (htrig m)

theorem anchor_tryCut (s : State) : (tryCut i s).anchor = s.anchor := by
  unfold tryCut
  split
  · rfl
  · rename_i r rest _
    extract_lets bef s1 s2 s3 s4 s5
    have h2 : s2.anchor = s.anchor := 
      (anchor_updStrm ..).trans (anchor_forL _ _ (fun x _ t => anchor_placeStamp hi r.mode x t) s)
    have h4 : s4.anchor = s2.anchor := (anchor_closeAll hi ..).trans (anchor_closeAll hi ..)
    exact anchor_ite rfl ((anchor_cutMarks hi r _ s4).trans (h4.trans h2))

theorem anchor_formatNow (s : State) : (formatNow i s).anchor = s.anchor := by
  unfold formatNow
  refine anchor_ite rfl ((anchor_forL _ _ (fun o _ t => ?_) _).trans
    (anchor_forL _ _ (fun x _ t => anchor_ite rfl (anchor_placeStamp hi _ x t)) s))
  split
  · exact anchor_ite rfl (anchor_closeSplit hi ..)
  · rfl

theorem anchor_formatCore (s : State) : (formatCore i s).anchor = s.anchor :=
  (anchor_formatNow hi _).trans (anchor_forN _ _ (fun _ _ t => anchor_tryCut hi t) s)

theorem anchor_gapCheck (s : State) : (gapCheck i s).anchor = s.anchor := by
  unfold gapCheck gapBegin
  exact anchor_ite (anchor_ite rfl ((anchor_formatCore hi _).trans
    ((anchor_updStrm ..).trans
    ((anchor_wr (f := F.Trs.SSTAT.GAP) (not_anchored_str hi (by decide)) 1 _).trans (anchor_updStrm ..))))) rfl

theorem anchor_cutAll (ref : Nat) (last : Bool) (s : State) : (cutAll i ref last s).anchor = s.anchor :=
  calc (cutAll i ref last s).anchor
      = (fillUpd i (gapCheck i (formatCore i (pushCut i ref last none s)))).anchor :=
        anchor_wr (f := F.Trs.SSTAT.IDLE) (not_anchored_str hi (by decide)) _ _
    _ = (gapCheck i (formatCore i (pushCut i ref last none s))).anchor :=
        anchor_wr (f := F.Trs.SSTAT.FILL) (not_anchored_str hi (by decide)) _ _
    _ = s.anchor := (anchor_gapCheck hi _).trans ((anchor_formatCore hi _).trans (anchor_updStrm ..))

end Formatter

theorem anchor_cutSkein (k : Nat) (s : State) : (cutSkein k s).anchor = s.anchor :=
  anchor_forN _ _ (fun _ hi t => anchor_ite (anchor_cutAll hi _ _ t) rfl) s

/-! ### Trigger conditions (R216, R217) -/

theorem anchor_fireDom {d : Nat} (hd : d < 4) (i : Nat) (ref : Word) (s : State) : (fireDom d i ref s).anchor = s.anchor := by
  have h1 : (s.inc (bDom d) F.Trs.DFIRES 1).anchor = s.anchor := anchor_inc (not_anchored_dom hd (by decide)) 1 s
  unfold fireDom
  extract_lets len s1 s2
  have h2 : s2.anchor = s.anchor := anchor_ite h1 ((anchor_out ..).trans h1)
  exact (anchor_updDom ..).trans h2

theorem anchor_condHit {i : Nat} (hi : i < 16) (ref : Word) (s : State) : (condHit i ref s).anchor = s.anchor := by
  have h1 : (s.inc (bCond i) F.Trs.TCHIT 1).anchor = s.anchor := anchor_inc (not_anchored_cond hi (by decide)) 1 s
  have hd : s.rd (bCond i) F.Trs.TCOND.DOM < 4 := rd_lt ..
  unfold condHit
  exact anchor_ite (anchor_ite ((anchor_fireDom hd i ref _).trans ((anchor_condCnt ..).trans h1)) ((anchor_condCnt ..).trans h1)) h1

theorem anchor_raiseCond (kind : Nat) (sel : Nat → Nat → Bool) (ref : Word) (s : State) :
    (raiseCond kind sel ref s).anchor = s.anchor := by
  unfold raiseCond
  exact anchor_ite (anchor_forN _ _ (fun _ hi t => anchor_ite (anchor_condHit hi ref t) rfl) s) rfl

/-! ### Slots (R98, R102-R107, R201) -/

section Slots

variable {k j : Nat} (hj : j < 64)

theorem anchor_zeroHist (k j : Nat) (s : State) : (zeroHist k j s).anchor = s.anchor := by
  unfold zeroHist
  exact anchor_ite ((anchor_updSlot ..).trans (anchor_forN 256 _ (fun _ _ t => anchor_setTw t ..) s)) rfl

theorem anchor_judgeCfg (k j : Nat) (s : State) : (judgeCfg k j s).anchor = s.anchor := by
  unfold judgeCfg
  exact anchor_ite ((anchor_raise (not_anchored_mauerr k) j _).trans (anchor_updSlot ..)) (anchor_updSlot ..)

theorem anchor_unErr (k j : Nat) (s : State) : (unErr k j s).anchor = s.anchor := by
  unfold unErr
  exact anchor_ite rfl ((anchor_raised ..).trans (anchor_setBit (not_anchored_mauerr k) j false s))

include hj

theorem anchor_gstateUpd (s : State) : (gstateUpd k j s).anchor = s.anchor :=
  anchor_wr (f := F.Slot.CNT.GSTATE) (not_anchored_slot k hj (by decide)) _ s

theorem anchor_openGate (o : Nat) (s : State) : (openGate k j o s).anchor = s.anchor :=
  (anchor_gstateUpd hj _).trans (anchor_updSlot ..)

theorem anchor_slotReady (o : Nat) (s : State) : (slotReady k j o s).anchor = s.anchor := by
  unfold slotReady
  exact anchor_ite ((anchor_openGate hj o _).trans (anchor_updSlot ..)) ((anchor_gstateUpd hj _).trans (anchor_updSlot ..))

theorem anchor_goOn (a : Applied) (s : State) : (goOn k j a s).anchor = s.anchor := by
  have hopen : ∀ o, (openGate k j o s).anchor = s.anchor := fun o => anchor_openGate hj o s
  have hstate : (gstateUpd k j s).anchor = s.anchor := anchor_gstateUpd hj s
  unfold goOn
  refine anchor_ite (anchor_slotReady hj _ s) ?_
  split
  · exact anchor_ite (hopen _) hstate
  · exact anchor_ite hstate (anchor_ite (hopen _) ((anchor_updSlot ..).trans (hopen _)))
  · split
    · exact hopen _
    · exact (anchor_gstateUpd hj _).trans (anchor_updSlot ..)
  · exact anchor_ite (hopen _) hstate

theorem anchor_rejudge (a : Applied) (s : State) : (rejudge k j a s).anchor = s.anchor := by
  have h1 : (judgeCfg k j s).anchor = s.anchor := anchor_judgeCfg k j s
  unfold rejudge
  exact anchor_ite h1 (anchor_ite ((anchor_goOn hj a _).trans ((anchor_unErr k j _).trans h1))
    ((anchor_gstateUpd hj _).trans ((anchor_updSlot ..).trans h1)))

omit hj in
theorem anchor_judgeFrom (a : Applied) (s : State) : (judgeFrom k j a s).anchor = s.anchor := by
  unfold judgeFrom
  refine (anchor_forN _ _ (fun i hi t => ?_) _).trans ((anchor_judgeCfg k j _).trans (anchor_updSlot ..))
  split
  · exact anchor_ite (anchor_rejudge hi _ t) rfl
  · rfl

omit hj in
theorem anchor_applyReg (snap : Table Word) {x : Nat} (hx : ¬ Anchored x) (s : State) :
    (applyReg snap x s).anchor = s.anchor := by
  unfold applyReg
  split
  · rfl
  · exact anchor_setReg hx _ s

theorem anchor_loadCfg (snap : Table Word) (a : Applied) (s : State) : (loadCfg snap k j a s).anchor = s.anchor := by
  have words : ∀ x ∈ [bSlot k j, bSlot k j + 0x8, bSlot k j + 0x10, bSlot k j + 0x18, bSlot k j + 0x20], ¬ Anchored x := by
    simp only [List.forall_mem_cons, List.not_mem_nil, false_implies, implies_true, and_true]
    refine ⟨?_, ?_, ?_, ?_, ?_⟩
    · exact not_anchored_slot k hj (y := 0) (by decide)
    all_goals exact not_anchored_slot k hj (by decide)
  unfold loadCfg
  extract_lets b old s1 new sameA sameB s2 same s3
  have h1 : s1.anchor = s.anchor := anchor_forL _ _ (fun x hx t => anchor_applyReg snap (words x hx) t) s
  have h3 : s3.anchor = s1.anchor := anchor_ite (anchor_judgeFrom a s1) ((anchor_updSlot ..).trans (anchor_judgeFrom a s1))
  exact anchor_ite ((anchor_zeroHist k j s3).trans (h3.trans h1)) (h3.trans h1)

theorem anchor_msetApply (s : State) : (msetApply k j s).anchor = s.anchor := by
  unfold msetApply applySlotNow
  exact anchor_ite (anchor_commits ..) ((anchor_goOn hj _ _).trans (anchor_loadCfg hj _ _ s))

theorem anchor_clearSlot (s : State) : (clearSlot k j s).anchor = s.anchor := by
  unfold clearSlot
  extract_lets x n s1 s2 s3
  have h2 : s2.anchor = s.anchor :=
    (anchor_updSkein ..).trans ((anchor_setSlot ..).trans (anchor_inc (f := F.Slot.CNT.ABANDONED) (not_anchored_slot k hj (by decide)) n s))
  exact (anchor_slotReady hj _ s3).trans (anchor_ite ((anchor_zeroHist k j s2).trans h2) h2)

omit hj in
theorem anchor_clearSlots (mask : Nat) (s : State) : (clearSlots k mask s).anchor = s.anchor :=
  anchor_forN _ _ (fun _ hj t => anchor_ite (anchor_clearSlot hj t) rfl) s

omit hj in
theorem anchor_stageSlot (r : Nat) (w : Word) (s : State) : (stageSlot k j r w s).anchor = s.anchor := by
  unfold stageSlot
  dsimp only
  split
  · rfl
  · exact (anchor_updSlot ..).trans (anchor_setStg ..)

omit hj in
theorem anchor_clearRdy (s : State) : (clearRdy k j s).anchor = s.anchor := by
  unfold clearRdy
  exact anchor_ite rfl (anchor_updSlot ..)

end Slots

/-! ### Packets and signals (R209, R308-R310) -/

theorem anchor_releaseRx (r : Option (Nat × Nat)) (s : State) : (releaseRx r s).anchor = s.anchor := by
  unfold releaseRx
  split
  · rfl
  · split
    · rfl
    · exact anchor_ite (anchor_updLp ..) ((anchor_out ..).trans
        ((anchor_wr (f := F.Lnk.PCRED.RXUSED) (not_anchored_cred _ _ (by decide)) _ _).trans (anchor_updLp ..)))

theorem anchor_transmit {q : Nat} {p : Pkt} (h : transmit q p s = some t) : t.anchor = s.anchor := by
  unfold transmit at h
  extract_lets b av x kept p1 s1 at h
  split at h
  · cases h
  · cases h
    have h1 : s1.anchor = s.anchor :=
      (anchor_inc (f := F.Lnk.PCRED.OUT) (not_anchored_cred _ _ (by decide)) _ _).trans
        (anchor_wr (f := F.Lnk.PCRED.AVAIL) (not_anchored_cred _ _ (by decide)) _ s)
    exact (anchor_releaseRx p.held _).trans ((anchor_out ..).trans ((anchor_updLp ..).trans h1))

theorem anchor_pumpList (q : Nat) (l : List Pkt) (blocked : List Nat) (s : State) :
    (pumpList q l blocked s).2.anchor = s.anchor := by
  induction l generalizing blocked s with
  | nil => rfl
  | cons p l ih =>
    unfold pumpList
    split
    · exact ih blocked s
    · split
      · rename_i s1 hs1
        exact (ih blocked s1).trans (anchor_transmit hs1)
      · exact ih _ s

theorem anchor_pump (q : Nat) (s : State) : (pump q s).anchor = s.anchor :=
  (anchor_updLp ..).trans (anchor_pumpList q _ [] s)

theorem anchor_sendBy (q : Nat) (p : Pkt) (s : State) : (sendBy q p s).anchor = s.anchor := by
  unfold sendBy
  exact anchor_ite ((anchor_pump q _).trans (anchor_updLp ..)) (anchor_ite (anchor_releaseRx p.held s)
    (anchor_ite ((anchor_pump (1 - q) _).trans (anchor_updLp ..)) (anchor_updLp ..)))

theorem anchor_broadcast (kind len : Nat) (payload : List Nat) (s : State) :
    (broadcast kind len payload s).anchor = s.anchor := 
  (anchor_sendBy 1 _ _).trans ((anchor_sendBy 0 _ _).trans (anchor_updLnk ..))

theorem anchor_deliverSignal (mask : Nat) (s : State) : (deliverSignal mask s).anchor = s.anchor :=
  anchor_forN _ _ (fun j _ t => anchor_ite (anchor_updEng j (f := fun e => { e with signalEv := true }) (fun _ => rfl) t) rfl) s

theorem anchor_signalTo (mask pos : Nat) (s : State) : (signalTo mask pos s).anchor = s.anchor := by
  unfold signalTo
  exact anchor_ite (anchor_deliverSignal mask s) (anchor_ite ((anchor_broadcast ..).trans (anchor_deliverSignal mask s))
    ((anchor_sendBy _ _ _).trans (anchor_fresh s)))

end Sys2Proof.Machine
end

section
/-! SUPPORT. The snapshot and the clear of the edge counters (R68, R69), and the updates of the delay-line lock (R53). -/

namespace Sys2Proof.Machine

open Host

variable {s t : State} {k : Nat}

/-! ### Loops and clears -/

/-- A loop over a list that meets `a` once, whose pass for `a` leads from `P` to `Q` while every other pass keeps each. -/
theorem forL_meets {α : Type} {P Q : State → Prop} (f : α → State → State) {l : List α} {a : α} (hn : l.Nodup) (ha : a ∈ l)
    (hP : ∀ b ∈ l, b ≠ a → ∀ t, P t → P (f b t)) (hQ : ∀ b ∈ l, b ≠ a → ∀ t, Q t → Q (f b t))
    (hit : ∀ t, P t → Q (f a t)) (hs : P s) : Q (forL l f s) := foldl_meets f l a hn ha hP hQ hit hs

/-- A loop over 0 to n - 1 whose pass for `c` leads from `P` to `Q` while every other pass keeps each of them. -/
theorem forN_meets {P Q : State → Prop} (f : Nat → State → State) {n c : Nat} (hc : c < n)
    (hP : ∀ i, i ≠ c → ∀ t, P t → P (f i t)) (hQ : ∀ i, i ≠ c → ∀ t, Q t → Q (f i t)) (hit : ∀ t, P t → Q (f c t))
    (hs : P s) : Q (forN n f s) :=
  foldl_meets f (List.range n) c List.nodup_range (List.mem_range.mpr hc) (fun i _ => hP i) (fun i _ => hQ i) hit hs

theorem clr_reg (b : Nat) (f : Fld) (x : Nat) (s : State) : (s.clr b f).reg x = (s.wr b f 0).reg x := rfl
theorem clr_rd (b c : Nat) (f g : Fld) (s : State) : (s.clr b f).rd c g = (s.wr b f 0).rd c g := rfl
theorem clr_hbm (b : Nat) (f : Fld) (s : State) : (s.clr b f).hbm = s.hbm := rfl

/-! ### Snapshots (R68) -/

/-- The snapshot of a live counter, 0x40 above it. -/
def snapOf (f : Fld) : Fld := { f with off := f.off + 0x40 }

/-- A counter of channel g copied to its snapshot. -/
def snapCounter (g : Nat) (f : Fld) (s : State) : State := s.wr (bCh g) (snapOf f) (s.rd (bCh g) f)

/-- The counters of channel g copied. -/
def snapChan (g : Nat) (s : State) : State := forL liveCounters (snapCounter g) s

/-- The counters of the sixteen channels of skein k copied. -/
def snapChans (k : Nat) (s : State) : State := forN 16 (fun c t => snapChan (16 * k + c) t) s

theorem snapCounters_eq (k : Nat) (s : State) :
    snapCounters k s = (snapChans k s).inc (bSk k) F.Sk.TCSTAT.SNAP_SEQ 1 := rfl

theorem counter_off {f : Fld} (hf : f ∈ liveCounters) : 0x40 ≤ f.off ∧ f.off < 0x80 :=
  (show ∀ f ∈ liveCounters, 0x40 ≤ f.off ∧ f.off < 0x80 by decide) f hf

/-- Two snapshots lie at one offset only if they are of one counter of one channel. -/
theorem snap_off_inj {g g' : Nat} {f f' : Fld} (hf : f ∈ liveCounters) (hf' : f' ∈ liveCounters)
    (h : bCh g + (snapOf f).off = bCh g' + (snapOf f').off) : g = g' ∧ f = f' :=
  counter_off_inj hf hf' (by simp only [snapOf] at h; omega)

theorem snap_ne_counter {f f' : Fld} (hf : f ∈ liveCounters) (hf' : f' ∈ liveCounters) (g g' : Nat) :
    bCh g + (snapOf f).off ≠ bCh g' + f'.off := by
  have h1 := counter_off hf
  have h2 := counter_off hf'
  simp only [snapOf, bCh, bSkein]; omega

theorem sk_ne_snap (k g : Nat) {f f' : Fld} (hf : f ∈ liveCounters) (hx : f'.off < 0x1000) :
    bSk k + f'.off ≠ bCh g + (snapOf f).off := by
  have h1 := counter_off hf
  simp only [snapOf, bSk, bCh, bSkein]; omega

theorem sk_ne_counter (k g : Nat) {f f' : Fld} (hf : f ∈ liveCounters) (hx : f'.off < 0x1000) :
    bSk k + f'.off ≠ bCh g + f.off := by
  have h1 := counter_off hf
  simp only [bSk, bCh, bSkein]; omega

/-- Copying touches nothing but snapshots. -/
theorem snapCounter_reg {x g : Nat} {f : Fld} (hx : x ≠ bCh g + (snapOf f).off) (s : State) :
    (snapCounter g f s).reg x = s.reg x := reg_wr_other s _ _ _ x hx

theorem snapChan_reg {x : Nat} (g : Nat) (hx : ∀ f ∈ liveCounters, x ≠ bCh g + (snapOf f).off) (s : State) :
    (snapChan g s).reg x = s.reg x :=
  forL_keeps_mem (fun t => t.reg x = s.reg x) liveCounters (snapCounter g)
    (fun f hf t ht => (snapCounter_reg (hx f hf) t).trans ht) rfl

theorem snapChans_reg {x : Nat} (hx : ∀ g, ∀ f ∈ liveCounters, x ≠ bCh g + (snapOf f).off) (k : Nat) (s : State) :
    (snapChans k s).reg x = s.reg x :=
  forN_keeps (fun t => t.reg x = s.reg x) _ _ (fun _ t ht => (snapChan_reg _ (hx _) t).trans ht) s rfl

theorem rd_snapChan_counter {f : Fld} (hf : f ∈ liveCounters) (g g' : Nat) (s : State) :
    (snapChan g s).rd (bCh g') f = s.rd (bCh g') f := by
  rw [State.rd, snapChan_reg g (fun f' hf' => (snap_ne_counter hf' hf g g').symm), State.rd]

theorem rd_snapCounter_same {f : Fld} (hf : f ∈ liveCounters) (g : Nat) (s : State) :
    (snapCounter g f s).rd (bCh g) (snapOf f) = s.rd (bCh g) f := by
  rw [snapCounter, rd_wr_same s _ (snapOf f) _ (counter_width hf).1]
  exact Nat.mod_eq_of_lt (rd_lt s (bCh g) f)

theorem rd_snapCounter_counter {f f' : Fld} (hf : f ∈ liveCounters) (hf' : f' ∈ liveCounters) (g : Nat) (s : State) :
    (snapCounter g f s).rd (bCh g) f' = s.rd (bCh g) f' := rd_wr_reg s _ _ _ _ _ (snap_ne_counter hf hf' g g).symm

theorem rd_snapCounter_other {f f' : Fld} (hf : f ∈ liveCounters) (hf' : f' ∈ liveCounters) (hne : f ≠ f') (g : Nat)
    (s : State) : (snapCounter g f s).rd (bCh g) (snapOf f') = s.rd (bCh g) (snapOf f') :=
  rd_wr_reg s _ _ _ _ _ (fun h => hne (snap_off_inj hf' hf h).2.symm)

/-- The snapshot of each of the channel's counters holds the counter. -/
theorem rd_snapChan_snap {f : Fld} (hf : f ∈ liveCounters) (g : Nat) (s : State) :
    (snapChan g s).rd (bCh g) (snapOf f) = s.rd (bCh g) f := by
  unfold snapChan
  exact forL_meets (P := fun t => t.rd (bCh g) f = s.rd (bCh g) f) (Q := fun t => t.rd (bCh g) (snapOf f) = s.rd (bCh g) f)
    (snapCounter g) (by decide) hf
    (fun _ hf' _ t ht => (rd_snapCounter_counter hf' hf g t).trans ht)
    (fun _ hf' hne t ht => (rd_snapCounter_other hf' hf hne g t).trans ht)
    (fun t ht => (rd_snapCounter_same hf g t).trans ht) rfl

theorem rd_snapChans_snap {c : Nat} (hc : c < 16) {f : Fld} (hf : f ∈ liveCounters) (k : Nat) (s : State) :
    (snapChans k s).rd (bCh (16 * k + c)) (snapOf f) = s.rd (bCh (16 * k + c)) f := by
  have other : ∀ c', c' ≠ c → ∀ t : State, (snapChan (16 * k + c') t).rd (bCh (16 * k + c)) (snapOf f) =
      t.rd (bCh (16 * k + c)) (snapOf f) := fun c' hne t => by
    rw [State.rd, snapChan_reg, State.rd]
    intro f' hf' h
    have := (snap_off_inj hf hf' h).1
    omega
  exact forN_meets (P := fun t => t.rd (bCh (16 * k + c)) f = s.rd (bCh (16 * k + c)) f)
    (Q := fun t => t.rd (bCh (16 * k + c)) (snapOf f) = s.rd (bCh (16 * k + c)) f)
    (fun c t => snapChan (16 * k + c) t) hc
    (fun c' _ t ht => (rd_snapChan_counter hf _ _ t).trans ht) (fun c' hne t ht => (other c' hne t).trans ht)
    (fun t ht => (rd_snapChan_snap hf _ t).trans ht) rfl

/-- What a snapshot does to skein k: every snapshot takes its counter, the counters hold what they held, and SNAP_SEQ advances. -/
structure Snapped (k : Nat) (s t : State) : Prop where
  snap : ∀ c, c < 16 → ∀ f ∈ liveCounters, t.rd (bCh (16 * k + c)) (snapOf f) = s.rd (bCh (16 * k + c)) f
  live : ∀ g, ∀ f ∈ liveCounters, t.rd (bCh g) f = s.rd (bCh g) f
  seq : Grew (bSk k) F.Sk.TCSTAT.SNAP_SEQ 1 s t
  stack : t.hbm = s.hbm

theorem snapped_snapCounters (k : Nat) (s : State) : Snapped k s (snapCounters k s) where
  snap := fun c hc f hf => by
    rw [snapCounters_eq, inc_eq, rd_wr_reg _ _ _ _ _ _ (sk_ne_snap k _ hf (by decide)).symm, rd_snapChans_snap hc hf]
  live := fun g f hf => (beside_snapCounters k (Beside.refl s)).regs.counter g hf
  seq := by
    have hkept : (snapChans k s).rd (bSk k) F.Sk.TCSTAT.SNAP_SEQ = s.rd (bSk k) F.Sk.TCSTAT.SNAP_SEQ := by
      rw [State.rd, snapChans_reg (fun g f hf => sk_ne_snap k g hf (by decide)), State.rd]
    rw [Grew, snapCounters_eq, rd_inc_same _ _ _ _ (by decide), hkept]
  stack := (beside_snapCounters k (Beside.refl s)).hbm

/-! ### Clears (R69) -/

/-- The counters of the sixteen channels of skein k cleared. -/
def clearChans (k : Nat) (s : State) : State := forN 16 (fun c t => clearChan (16 * k + c) t) s

theorem clearCounters_eq (k : Nat) (s : State) : clearCounters k s =
    (((clearChans k s).clr (bSk k) F.Sk.UNLOCKED_EDGES).wr (bSk k) F.Sk.POOLSTAT.PEAK
      ((s.skein k).units.filter (fun u => u.busyAt s.tapNow)).length).wr (bSk k) F.Sk.TCSTAT.ACCT_VOID 0 := rfl

theorem clearChan_reg {x : Nat} (g : Nat) (hx : ∀ f ∈ liveCounters, x ≠ bCh g + f.off) (s : State) :
    (clearChan g s).reg x = s.reg x :=
  forL_keeps_mem (fun t => t.reg x = s.reg x) liveCounters (fun f t => t.clr (bCh g) f)
    (fun f hf t ht => (clr_reg ..).trans ((reg_wr_other t _ _ 0 _ (hx f hf)).trans ht)) rfl

theorem clearChans_reg {x : Nat} (hx : ∀ g, ∀ f ∈ liveCounters, x ≠ bCh g + f.off) (k : Nat) (s : State) :
    (clearChans k s).reg x = s.reg x :=
  forN_keeps (fun t => t.reg x = s.reg x) 16 (fun c t => clearChan (16 * k + c) t)
    (fun _ t ht => (clearChan_reg _ (hx _) t).trans ht) s rfl

theorem clearChans_hbm (k : Nat) (s : State) : (clearChans k s).hbm = s.hbm :=
  forN_same State.hbm 16 (fun c t => clearChan (16 * k + c) t)
    (fun c t => forL_same State.hbm liveCounters (fun f t => t.clr (bCh (16 * k + c)) f) (fun _ t => clr_hbm _ _ t) t) s

theorem rd_clearChans {c : Nat} (hc : c < 16) {f : Fld} (hf : f ∈ liveCounters) (k : Nat) (s : State) :
    (clearChans k s).rd (bCh (16 * k + c)) f = 0 :=
  forN_meets (P := fun _ => True) (Q := fun t => t.rd (bCh (16 * k + c)) f = 0) (fun c t => clearChan (16 * k + c) t) hc
    (fun _ _ _ _ => trivial) (fun _ _ t ht => by rw [rd_clearChan hf, ht, ite_self])
    (fun t _ => by rw [rd_clearChan hf, if_pos rfl]) trivial

/-- Beside the counters a clear writes UNLOCKED_EDGES, POOLSTAT and TCSTAT. -/
theorem rd_clearCounters {b : Nat} {f : Fld} (h1 : b + f.off ≠ bSk k + 0x30) (h2 : b + f.off ≠ bSk k + 0x10)
    (h3 : b + f.off ≠ bSk k + 0x8) (s : State) : (clearCounters k s).rd b f = (clearChans k s).rd b f := by
  rw [clearCounters_eq, rd_wr_reg _ _ _ _ _ _ h3, rd_wr_reg _ _ _ _ _ _ h2, clr_rd, rd_wr_reg _ _ _ _ _ _ h1]

/-- What a clear does to skein k: every counter and UNLOCKED_EDGES read 0, the accounting is valid, and the snapshots and
SNAP_SEQ hold what they held. -/
structure Cleared (k : Nat) (s t : State) : Prop where
  live : ∀ c, c < 16 → ∀ f ∈ liveCounters, t.rd (bCh (16 * k + c)) f = 0
  snap : ∀ g, ∀ f ∈ liveCounters, t.rd (bCh g) (snapOf f) = s.rd (bCh g) (snapOf f)
  unlocked : t.rd (bSk k) F.Sk.UNLOCKED_EDGES = 0
  void : t.rd (bSk k) F.Sk.TCSTAT.ACCT_VOID = 0
  seq : Held (bSk k) F.Sk.TCSTAT.SNAP_SEQ s t
  stack : t.hbm = s.hbm

/-- No register of a channel is one of those. -/
theorem rd_clearCounters_ch {f : Fld} (hf : f.off < 0x100) (k g : Nat) (s : State) :
    (clearCounters k s).rd (bCh g) f = (clearChans k s).rd (bCh g) f := by
  refine rd_clearCounters ?_ ?_ ?_ s <;> simp only [bSk, bCh, bSkein] <;> omega

theorem cleared_clearCounters (k : Nat) (s : State) : Cleared k s (clearCounters k s) where
  live := fun c hc f hf => by
    rw [rd_clearCounters_ch (by have := counter_off hf; omega), rd_clearChans hc hf]
  snap := fun g f hf => by
    rw [rd_clearCounters_ch (by have := counter_off hf; simp only [snapOf]; omega), State.rd,
      clearChans_reg (fun g' f' hf' => snap_ne_counter hf hf' g g'), State.rd]
  unlocked := by
    have hne : ∀ f : Fld, f.off ≠ 0x30 → bSk k + F.Sk.UNLOCKED_EDGES.off ≠ bSk k + f.off := fun f hf h =>
      hf (Nat.add_left_cancel h).symm
    rw [clearCounters_eq, rd_wr_reg _ _ _ _ _ _ (hne _ (by decide)), rd_wr_reg _ _ _ _ _ _ (hne _ (by decide)), clr_rd,
      rd_wr_same _ _ _ _ (by decide)]
    rfl
  void := by rw [clearCounters_eq, rd_wr_same _ _ _ _ (by decide)]; rfl
  seq := by
    have hne : ∀ f : Fld, f.off ≠ 0x8 → bSk k + F.Sk.TCSTAT.SNAP_SEQ.off ≠ bSk k + f.off := fun f hf h =>
      hf (Nat.add_left_cancel h).symm
    rw [Held, clearCounters_eq, rd_wr_field _ _ _ _ _ _ (by decide), rd_wr_reg _ _ _ _ _ _ (hne _ (by decide)), clr_rd,
      rd_wr_reg _ _ _ _ _ _ (hne _ (by decide)), State.rd, clearChans_reg (fun g f hf => sk_ne_counter k g hf (by decide)),
      State.rd]
  stack := by rw [clearCounters_eq, wr_hbm, wr_hbm, clr_hbm, clearChans_hbm]

end Sys2Proof.Machine
end

section
/-! SUPPORT. The updates of the delay-line lock (R53). -/

namespace Sys2Proof.Machine

open Host

variable {s t : State} {k : Nat}

/-! ### Raised bits and signed fields -/

theorem raise_reg (b : Nat) (f : Fld) (i : Nat) (s : State) :
    (s.raise b f i).reg (b + f.off) = s.reg (b + f.off) ||| fmask (f.lo + i) (f.lo + i) := reg_setReg_same ..

theorem raise_reg_other {b x : Nat} {f : Fld} (hx : x ≠ b + f.off) (i : Nat) (s : State) :
    (s.raise b f i).reg x = s.reg x := reg_setReg_other _ _ _ _ hx

theorem raise_hbm (b : Nat) (f : Fld) (i : Nat) (s : State) : (s.raise b f i).hbm = s.hbm := rfl

/-- A raised flag of one bit reads 1. -/
theorem rd_raise_flag {b : Nat} {f : Fld} (h : f.hi = f.lo) (hf : f.hi < 64) (s : State) : (s.raise b f 0).rd b f = 1 := by
  rw [State.rd, raise_reg]
  apply Nat.eq_of_testBit_eq
  intro i
  rw [testBit_fget, BitVec.getLsbD_or, getLsbD_fmask]
  by_cases hi : i = 0
  · subst hi
    have hlo : f.lo < 64 := h ▸ hf
    simp [h, hlo]
  · have hwide : ¬ i < f.hi + 1 - f.lo := by omega
    have hone : Nat.testBit 1 i = false := Nat.testBit_lt_two_pow (Nat.one_lt_two_pow hi)
    rw [decide_eq_false hwide, Bool.false_and, hone]

/-- A raised flag leaves every field that does not hold it. -/
theorem rd_raise_other {b c : Nat} {f g : Fld} (h : c + g.off ≠ b + f.off ∨ g.hi < f.lo ∨ f.lo < g.lo) (s : State) :
    (s.raise b f 0).rd c g = s.rd c g := by
  by_cases hx : c + g.off = b + f.off
  · rw [State.rd, hx, raise_reg, State.rd, hx]
    apply Nat.eq_of_testBit_eq
    intro i
    rw [testBit_fget, testBit_fget, BitVec.getLsbD_or, getLsbD_fmask]
    by_cases hi : i < g.hi + 1 - g.lo
    · rw [decide_eq_false (p := f.lo + 0 ≤ g.lo + i ∧ g.lo + i ≤ f.lo + 0) (by omega), Bool.and_false, Bool.or_false]
    · rw [decide_eq_false hi, Bool.false_and, Bool.false_and]
  · exact rd_setReg_other s _ _ _ _ hx

/-- A signed value read from the 16-bit field it was written to. -/
theorem rdInt_wrInt {b : Nat} {f : Fld} (hf : f.hi + 1 - f.lo = 16) (h64 : f.hi < 64) {v : Int} (hl : -32768 ≤ v)
    (hh : v ≤ 32767) (s : State) : (s.wrInt b f v).rdInt b f = v := by
  unfold State.rdInt State.wrInt
  rw [rd_wr_same _ _ _ _ h64, hf]
  unfold toSigned ofSigned
  dsimp only
  split <;> omega

/-! ### One update -/

/-- The update's error and control code recorded: the counts, the errors of the last 1,024 updates, RESID and CTRL. -/
def dllRecord (k : Nat) (err : Int) (ctrl : BitVec 16) (s : State) : State :=
  let z := s.skein k
  let errs := (err :: z.dllErrs).take 1024
  let s1 := s.setSkein k { z with
    dllBad := if 4000 < err.natAbs then z.dllBad + 1 else 0, dllGood := if err.natAbs ≤ 2000 then z.dllGood + 1 else 0,
    dllErrs := errs, dllNext := s.cycle + 64 }
  (s1.wrInt (bSk k) F.Sk.DLLRES.RESID
    (clampInt (-32768) 32767 (roundDiv (errs.foldl (· + ·) 0) errs.length))).wr (bSk k) F.Sk.DLLRES.CTRL ctrl.toNat

/-- The lock changes in cycle `now`: open records are cut, and the change is noted. -/
def dllTurn (k : Nat) (lock : Bool) (now : Nat) (s : State) : State :=
  (noteDll k lock (cutSkein k s)).updSkein k (fun z => { z with lockSince := now })

theorem anchor_dllTurn (k : Nat) (lock : Bool) (now : Nat) (s : State) : (dllTurn k lock now s).anchor = s.anchor :=
  (anchor_updSkein ..).trans ((anchor_noteDll ..).trans (anchor_cutSkein k s))

/-- An update that is due: the lock is lost or gained by the 16th update in a row that says so, else it stays. -/
theorem dllUpdate_due (hd : s.domOn (32 + k) = true) (hn : (s.skein k).dllNext ≤ s.cycle) (err : Int) (ctrl : BitVec 16) :
    dllUpdate k err ctrl s =
      if s.dllLock k then
        if 4000 < err.natAbs ∧ 15 ≤ (s.skein k).dllBad then
          dllTurn k false s.cycle
            (((dllRecord k err ctrl s).wr (bSk k) F.Sk.TCSTAT.DLL_LOCK 0).raise (bSk k) F.Sk.TCSTAT.DLL_ERR 0)
        else dllRecord k err ctrl s
      else if err.natAbs ≤ 2000 ∧ 15 ≤ (s.skein k).dllGood then
        dllTurn k true s.cycle ((dllRecord k err ctrl s).wr (bSk k) F.Sk.TCSTAT.DLL_LOCK 1)
      else dllRecord k err ctrl s := by
  have hcount : ∀ (c : Prop) [Decidable c] (n : Nat), (16 ≤ if c then n + 1 else 0) ↔ c ∧ 15 ≤ n := fun c _ n => by
    by_cases hc : c <;> simp [hc]
  unfold dllUpdate
  dsimp only
  rw [if_neg (by simp [hd, hn])]
  simp only [hcount]
  rfl

/-! ### What an update leaves -/

theorem dllRecord_hbm (k : Nat) (err : Int) (ctrl : BitVec 16) (s : State) : (dllRecord k err ctrl s).hbm = s.hbm := by
  unfold dllRecord
  dsimp only
  rw [wr_hbm, State.wrInt, wr_hbm, setSkein_hbm]

/-- TCSTAT is not among the registers that an update records in. -/
theorem rd_dllRecord {f : Fld} (hf : f.off ≠ 0x28) (k : Nat) (err : Int) (ctrl : BitVec 16) (s : State) :
    (dllRecord k err ctrl s).rd (bSk k) f = s.rd (bSk k) f := by
  have hne : bSk k + f.off ≠ bSk k + 0x28 := fun h => hf (Nat.add_left_cancel h)
  unfold dllRecord
  dsimp only
  rw [rd_wr_reg _ _ _ _ _ _ hne, State.wrInt, rd_wr_reg _ _ _ _ _ _ hne, setSkein_rd]

theorem rd_dllRecord_ctrl (k : Nat) (err : Int) (ctrl : BitVec 16) (s : State) :
    (dllRecord k err ctrl s).rd (bSk k) F.Sk.DLLRES.CTRL = ctrl.toNat :=
  (rd_wr_same _ _ _ _ (by decide)).trans (Nat.mod_eq_of_lt ctrl.isLt)

theorem rdInt_dllRecord_resid (k : Nat) (err : Int) (ctrl : BitVec 16) (s : State) :
    let errs := (err :: (s.skein k).dllErrs).take 1024
    (dllRecord k err ctrl s).rdInt (bSk k) F.Sk.DLLRES.RESID =
      max (-32768) (min 32767 (roundDiv (errs.foldl (· + ·) 0) errs.length)) := by
  intro errs
  unfold dllRecord
  dsimp only
  rw [State.rdInt, rd_wr_field _ _ _ _ _ _ (by decide)]
  exact rdInt_wrInt (by decide) (by decide) (Int.le_max_left ..) (by omega) _

/-- What every update that is due leaves: the control code and the mean error of the updates kept in DLLRES, and the stack. -/
structure Recorded (k : Nat) (err : Int) (ctrl : BitVec 16) (s t : State) : Prop where
  code : t.rd (bSk k) F.Sk.DLLRES.CTRL = ctrl.toNat
  resid : let errs := (err :: (s.skein k).dllErrs).take 1024
    t.rdInt (bSk k) F.Sk.DLLRES.RESID = max (-32768) (min 32767 (roundDiv (errs.foldl (· + ·) 0) errs.length))
  mem : MemKept s t

theorem recorded_dllRecord (k : Nat) (err : Int) (ctrl : BitVec 16) (s : State) :
    Recorded k err ctrl s (dllRecord k err ctrl s) where
  code := rd_dllRecord_ctrl ..
  resid := rdInt_dllRecord_resid ..
  mem := fun l => by rw [dllRecord_hbm]

theorem Recorded.congr {u : State} {err : Int} {ctrl : BitVec 16} (h : Recorded k err ctrl s u)
    (hreg : t.reg (bSk k + 0x28) = u.reg (bSk k + 0x28)) (hmem : MemKept u t) : Recorded k err ctrl s t where
  code := by rw [State.rd, show F.Sk.DLLRES.CTRL.off = 0x28 from rfl, hreg]; exact h.code
  resid := by rw [State.rdInt, State.rd, show F.Sk.DLLRES.RESID.off = 0x28 from rfl, hreg]; exact h.resid
  mem := fun l => (hmem l).trans (h.mem l)

/-- The lock after an update with error `err`. -/
def lockAfter (k : Nat) (err : Int) (s : State) : Bool :=
  if s.dllLock k then !decide (4000 < err.natAbs ∧ 15 ≤ (s.skein k).dllBad)
  else decide (err.natAbs ≤ 2000 ∧ 15 ≤ (s.skein k).dllGood)

/-- What an update that is due does: it records, the lock is as `lockAfter` says, a loss sets DLL_ERR and nothing else does. -/
structure LockUpdated (k : Nat) (err : Int) (ctrl : BitVec 16) (s t : State) : Prop where
  recorded : Recorded k err ctrl s t
  lock : t.dllLock k = lockAfter k err s
  error : if s.dllLock k ∧ lockAfter k err s = false then t.rd (bSk k) F.Sk.TCSTAT.DLL_ERR = 1
    else Held (bSk k) F.Sk.TCSTAT.DLL_ERR s t

/-- What has the same lock registers and stack has been updated in the same way. -/
theorem LockUpdated.of_anchor {u : State} {err : Int} {ctrl : BitVec 16} (h : LockUpdated k err ctrl s u)
    (ha : t.anchor = u.anchor) : LockUpdated k err ctrl s t where
  recorded := h.recorded.congr (reg_of_anchor ha (anchored_sk k (by decide))) (memKept_of_anchor ha)
  lock := by rw [State.dllLock, rd_of_anchor ha (anchored_sk k (by decide)), ← State.dllLock, h.lock]
  error := by
    unfold Held
    rw [rd_of_anchor ha (anchored_sk k (Or.inl rfl))]
    exact h.error

theorem dllLock_dllRecord (k : Nat) (err : Int) (ctrl : BitVec 16) (s : State) :
    (dllRecord k err ctrl s).dllLock k = s.dllLock k := by
  rw [State.dllLock, rd_dllRecord (by decide), State.dllLock]

theorem held_dllRecord (k : Nat) (err : Int) (ctrl : BitVec 16) (s : State) :
    Held (bSk k) F.Sk.TCSTAT.DLL_ERR s (dllRecord k err ctrl s) := rd_dllRecord (by decide) ..

/-- The update is recorded and the lock stays. -/
theorem lockUpdated_stays {err : Int} {ctrl : BitVec 16} (h : lockAfter k err s = s.dllLock k) :
    LockUpdated k err ctrl s (dllRecord k err ctrl s) where
  recorded := recorded_dllRecord ..
  lock := (dllLock_dllRecord ..).trans h.symm
  error := by
    rw [h, if_neg (by simp)]
    exact held_dllRecord ..

/-- A write of the lock leaves what the update has recorded. -/
theorem recorded_lock (k : Nat) (err : Int) (ctrl : BitVec 16) (v : Nat) (s : State) :
    Recorded k err ctrl s ((dllRecord k err ctrl s).wr (bSk k) F.Sk.TCSTAT.DLL_LOCK v) :=
  (recorded_dllRecord k err ctrl s).congr
    (reg_wr_other _ _ _ _ _ (fun h => absurd (Nat.add_left_cancel h) (by decide))) (fun l => by rw [wr_hbm])

/-- The lock is gained. -/
theorem lockUpdated_gained {err : Int} {ctrl : BitVec 16} (hs : s.dllLock k = false) (h : lockAfter k err s = true) :
    LockUpdated k err ctrl s ((dllRecord k err ctrl s).wr (bSk k) F.Sk.TCSTAT.DLL_LOCK 1) where
  recorded := recorded_lock ..
  lock := by rw [h, State.dllLock, rd_wr_same _ _ _ _ (by decide)]; rfl
  error := by
    rw [hs, if_neg (by simp), Held, rd_wr_field _ _ _ _ _ _ (by decide)]
    exact held_dllRecord ..

/-- The lock is lost. -/
theorem lockUpdated_lost {err : Int} {ctrl : BitVec 16} (hs : s.dllLock k = true) (h : lockAfter k err s = false) :
    LockUpdated k err ctrl s
      (((dllRecord k err ctrl s).wr (bSk k) F.Sk.TCSTAT.DLL_LOCK 0).raise (bSk k) F.Sk.TCSTAT.DLL_ERR 0) where
  recorded := (recorded_lock k err ctrl 0 s).congr
    (raise_reg_other (fun h => absurd (Nat.add_left_cancel h) (by decide)) 0 _) (fun l => by rw [raise_hbm])
  lock := by
    rw [h, State.dllLock, rd_raise_other (Or.inr (by decide)), rd_wr_same _ _ _ _ (by decide)]
    rfl
  error := by
    rw [if_pos ⟨hs, h⟩]
    exact rd_raise_flag (by decide) (by decide) _

/-- Every update that is due does that. -/
theorem lockUpdated_dllUpdate (hd : s.domOn (32 + k) = true) (hn : (s.skein k).dllNext ≤ s.cycle) (err : Int)
    (ctrl : BitVec 16) : LockUpdated k err ctrl s (dllUpdate k err ctrl s) := by
  rw [dllUpdate_due hd hn]
  cases hs : s.dllLock k with
  | true =>
    by_cases hbad : 4000 < err.natAbs ∧ 15 ≤ (s.skein k).dllBad
    · rw [if_pos rfl, if_pos hbad]
      exact (lockUpdated_lost hs (by simp [lockAfter, hs, hbad])).of_anchor (anchor_dllTurn ..)
    · rw [if_pos rfl, if_neg hbad]
      exact lockUpdated_stays (by rw [lockAfter, if_pos hs, decide_eq_false hbad, hs, Bool.not_false])
  | false =>
    rw [if_neg Bool.false_ne_true]
    by_cases hgood : err.natAbs ≤ 2000 ∧ 15 ≤ (s.skein k).dllGood
    · rw [if_pos hgood]
      exact (lockUpdated_gained hs (by simp [lockAfter, hs, hgood])).of_anchor (anchor_dllTurn ..)
    · rw [if_neg hgood]
      exact lockUpdated_stays (by rw [lockAfter, if_neg (by simp [hs]), decide_eq_false hgood, hs])

/-! ### The statement of O30 -/

/-- The access itself is no part of what a snapshot or a clear does. -/
theorem Snapped.of_touch {x : Nat} (h : Snapped k (touch x s) t) : Snapped k s t where
  snap := fun c hc f hf => (h.snap c hc f hf).trans (touch_rd ..)
  live := fun g f hf => (h.live g f hf).trans (touch_rd ..)
  seq := h.seq
  stack := h.stack

theorem Cleared.of_touch {x : Nat} (h : Cleared k (touch x s) t) : Cleared k s t where
  live := h.live
  snap := fun g f hf => (h.snap g f hf).trans (touch_rd ..)
  unlocked := h.unlocked
  void := h.void
  seq := h.seq
  stack := h.stack

/-- A snapshot, with a clear after it where both are written. -/
theorem runs_cntSnap {k : Fin 32} (hr : s.phase = .running) (hreach : s.reachable (bSk k) = true) (both : Bool) :
    Runs (.cntSnap k both) s (fun t => ∃ u, Snapped k s u ∧ if both then Cleared k u t else t = u) := by
  refine runs_of_act rfl hr ?_
  rw [cmdAccess_on _ _ _ _ hreach]
  refine ⟨snapCounters k (touch (bSk k) s), (snapped_snapCounters k _).of_touch, ?_⟩
  cases both with
  | false => rfl
  | true => exact cleared_clearCounters k _

theorem runs_cntClr {k : Fin 32} (hr : s.phase = .running) (hreach : s.reachable (bSk k) = true) :
    Runs (.cntClr k) s (Cleared k s) := by
  refine runs_of_act rfl hr ?_
  rw [cmdAccess_on _ _ _ _ hreach]
  exact (cleared_clearCounters k _).of_touch

theorem runs_dllUpdate {k : Fin 32} (hr : s.phase = .running) (hd : s.domOn (32 + k) = true)
    (hn : (s.skein k).dllNext ≤ s.cycle) (err : Int) (ctrl : BitVec 16) :
    Runs (.dllUpdate k err ctrl) s (LockUpdated k err ctrl s) :=
  runs_of_act (f := dllUpdate k err ctrl) rfl hr (lockUpdated_dllUpdate hd hn err ctrl)

theorem Runs.mono {c : Instr} {P Q : State → Prop} (h : Runs c s P) (hpq : ∀ t, P t → Q t) : Runs c s Q :=
  h.imp fun t ⟨he, hp⟩ => ⟨he, hpq t hp⟩

/-- Settles O30: a snapshot and a clear counter by counter, the second after the first where both are written, and the lock
by what one update does to it. -/
theorem countersAndLockComplete : Obligations.CountersAndLockComplete := by
  unfold Obligations.CountersAndLockComplete
  intro s k hr
  refine ⟨fun hreach => ⟨fun both => (runs_cntSnap hr hreach both).mono fun t ⟨u, h, ht⟩ => ?_,
    (runs_cntClr hr hreach).mono fun t h => ?_⟩, fun err ctrl hd hn => (runs_dllUpdate hr hd hn err ctrl).mono fun t h => ?_⟩
  · cases both with
    | false =>
      obtain rfl : t = u := ht
      exact ⟨fun c hc f hf => ⟨h.snap c hc f hf, h.live _ f hf⟩, h.seq, fun l => by rw [h.stack]⟩
    | true =>
      have h' : Cleared k u t := ht
      exact ⟨fun c hc f hf => ⟨(h'.snap _ f hf).trans (h.snap c hc f hf), h'.live c hc f hf⟩, h'.seq.trans h.seq,
        fun l => by rw [h'.stack, h.stack]⟩
  · exact ⟨fun c hc f hf => ⟨h.live c hc f hf, h.snap _ f hf⟩, h.unlocked, h.void, h.seq, fun l => by rw [h.stack]⟩
  · refine ⟨h.recorded.code, h.recorded.mem, h.recorded.resid, fun hs herr hgood => ?_, fun hs herr hbad => ?_,
      fun hs herr => ?_, fun hs herr => ?_⟩
    · have hlock : lockAfter k err s = true := by simp [lockAfter, hs, herr, hgood]
      have herror := h.error
      rw [hs, if_neg (by simp)] at herror
      exact ⟨h.lock.trans hlock, herror⟩
    · have hlock : lockAfter k err s = false := by simp [lockAfter, hs, herr, hbad]
      have herror := h.error
      rw [if_pos ⟨hs, hlock⟩] at herror
      exact ⟨h.lock.trans hlock, herror⟩
    · rw [h.lock, lockAfter, if_pos hs, decide_eq_false (by omega), Bool.not_false]
    · rw [h.lock, lockAfter, if_neg (by simp [hs]), decide_eq_false (by omega)]

end Sys2Proof.Machine
end

section
/-! SUPPORT. The counter, loop, measure and stream commands complete (R53, R68, R69, R162, R163, R200-R209). -/

namespace Sys2Proof.Machine

open Host

variable {s t : State} {k : Fin 32} {o : TymOps} {c : Instr} {P : State → Prop}

/-! ### Instructions of one cycle -/

section Step

variable {op : BitVec 8} {reads : List Dst} {legal ctl gate stall : Bool} {body : State → State}

/-- A TYM command that is one step of its engine does the step's work where the step is due, legal, gated and not stalled. -/
theorem tymRuns_of_step (hexec : exec c s = act s (tymStep k op o reads legal ctl gate stall body))
    (hcode : tymParts c = some (k, op, o)) (h : TymDue k o reads s) (hl : legal = true) (hg : gate = true)
    (hs : stall = false) (hc : (ctl = false ∧ PcRoom k s) ∨ (ctl = true ∧ (s.eng k).rpt = none))
    (hp : P (body (fetchTouch k s))) : TymRuns k c s P := by
  intro hf
  have hw : s.codeWord k = tymWord op o := by
    rw [Fetched, tymEncode, hcode] at hf
    exact (Option.some.inj hf).symm
  subst hl hg hs
  refine runs_of_act hexec h.running ?_
  rw [tymStep_fires h hw ctl hc]
  exact hp

end Step

/-- What has moved neither the engine nor the time since the fetch takes its one cycle. -/
theorem tookOne_advance (hr : PcRoom k s) (ha : t.anchor = (fetchTouch k s).anchor) : TookOne k s (advance k 1 t) := by
  have hpc : t.pc k = s.pc k := (rd_of_anchor ha (anchored_estat k)).trans (fetchTouch_pc s)
  refine advance_took s t ?_ ((cycle_of_anchor ha).trans (fetchTouch_cycle s)) hpc
    ((rpt_of_anchor ha k).trans (fetchTouch_rpt s))
  rwa [PcRoom, hpc]

theorem immF_lt (o : TymOps) (hi lo : Nat) : immF o hi lo < 2 ^ (hi + 1 - lo) := Nat.mod_lt _ (Nat.two_pow_pos _)

theorem anchor_setG (r : Nat) (w : Word) (s : State) : (setG k r w s).anchor = s.anchor := by
  refine anchor_setReg ?_ w s
  simp only [Anchored, bEng, bSkein]; omega

theorem anchor_setLane (r i : Nat) (w : Word) (s : State) : (setLane k r i w s).anchor = s.anchor := by
  refine anchor_setReg ?_ w s
  simp only [Anchored, bEng, bSkein]; omega

theorem anchor_setLanes (d m : Nat) (f : Nat → Word) (s : State) : (setLanes k d m f s).anchor = s.anchor :=
  anchor_forL _ _ (fun i _ t => anchor_setLane d i (f i) t) s

theorem anchor_setP (j v : Nat) (s : State) : (setP k j v s).anchor = s.anchor := by
  have hoff : ¬ Anchored (bEng k + (pFld (j % 8)).off) := by
    unfold pFld
    dsimp only
    split <;> exact not_anchored_eng k (by decide) (by decide)
  unfold setP
  exact anchor_ite rfl (anchor_wr hoff _ s)

theorem anchor_busyUntil (ds : List Dst) (n : Nat) (s : State) : (busyUntil k ds n s).anchor = s.anchor :=
  anchor_updEng k (by exact fun _ => rfl) s

theorem anchor_userMark {i : Nat} (hi : i < 64) (code : Nat) (w : Word) (n : Nat) (s : State) :
    (userMark k i code w n s).anchor = s.anchor := anchor_offer hi _ s

/-! ### Measure instructions (R200-R205) -/

theorem tymRuns_mset (h : TymDue k o (.g o.srca.toNat :: if o.form then [.g o.srcb.toNat] else []) s)
    (hl : msetLegal o = true) (hg : s.condOk k o.cond = true) (hr : PcRoom k s) : TymRuns k (.tymMset k o) s (TookOne k s) := by
  have hj : (if o.form then (s.g k o.srcb.toNat).toNat % 64 else immF o 5 0) < 64 := by
    split
    · exact Nat.mod_lt _ (by decide)
    · exact immF_lt ..
  exact tymRuns_of_step rfl rfl h hl hg rfl (.inl ⟨rfl, hr⟩)
    (tookOne_advance hr ((anchor_msetApply hj _).trans (anchor_stageSlot ..)))

theorem tymRuns_mget (h : TymDue k o [] s) (hl : mgetLegal o = true) (hg : s.condOk k o.cond = true) (hr : PcRoom k s) :
    TymRuns k (.tymMget k o) s (TookOne k s) :=
  tymRuns_of_step rfl rfl h hl hg rfl (.inl ⟨rfl, hr⟩) (tookOne_advance hr ((anchor_busyUntil ..).trans
    ((anchor_clearRdy ..).trans ((anchor_setG ..).trans ((anchor_setG ..).trans (anchor_setG ..))))))

theorem tymRuns_mgetLane (h : TymDue k o [] s) (hl : mgetLaneLegal o = true) (hg : s.laneCondOk k o.cond = true)
    (hr : PcRoom k s) : TymRuns k (.tymMgetLane k o) s (TookOne k s) :=
  tymRuns_of_step rfl rfl h hl hg rfl (.inl ⟨rfl, hr⟩) (tookOne_advance hr ((anchor_busyUntil ..).trans
    ((anchor_forL _ _ (fun _ _ t => anchor_clearRdy t) _).trans ((anchor_setP ..).trans (anchor_setLanes ..)))))

theorem tymRuns_mclr (h : TymDue k o [.g o.srca.toNat] s) (hl : mclrLegal o = true) (hg : s.condOk k o.cond = true)
    (hr : PcRoom k s) : TymRuns k (.tymMclr k o) s (TookOne k s) :=
  tymRuns_of_step rfl rfl h hl hg rfl (.inl ⟨rfl, hr⟩) (tookOne_advance hr (anchor_clearSlots ..))

/-! ### Stream and trigger instructions (R206-R209) -/

theorem tymRuns_arm (h : TymDue k o [.g o.srca.toNat] s) (hl : armLegal o = true) (hg : s.condOk k o.cond = true)
    (hr : PcRoom k s) : TymRuns k (.tymArm k o) s (TookOne k s) :=
  tymRuns_of_step rfl rfl h hl hg rfl (.inl ⟨rfl, hr⟩) (tookOne_advance hr (anchor_updDom ..))

theorem tymRuns_signal (h : TymDue k o [.g o.srca.toNat] s) (hl : signalLegal o = true) (hg : s.condOk k o.cond = true)
    (hr : PcRoom k s) : TymRuns k (.tymSignal k o) s (TookOne k s) :=
  tymRuns_of_step rfl rfl h hl hg rfl (.inl ⟨rfl, hr⟩) (tookOne_advance hr (anchor_signalTo ..))

/-- A MARK that is not of a vector is put down at once. -/
theorem tymRuns_mark (hv : o.imm.getLsbD 39 = false) (h : TymDue k o [.g o.srca.toNat] s) (hl : markLegal o = true)
    (hg : s.condOk k o.cond = true) (hr : PcRoom k s) : TymRuns k (.tymMark k o) s (TookOne k s) := by
  refine tymRuns_of_step rfl rfl h hl hg (by rw [hv, Bool.false_and]) (.inl ⟨rfl, hr⟩) ?_
  rw [hv]
  exact tookOne_advance hr (anchor_userMark (immF_lt ..) _ _ _ _)

/-- A FIRE that is not of a vector raises its condition at once. -/
theorem tymRuns_fire (hv : o.imm.getLsbD 39 = false) (h : TymDue k o [] s) (hl : fireLegal o = true)
    (hg : s.condOk k o.cond = true) (hr : PcRoom k s) : TymRuns k (.tymFire k o) s (TookOne k s) := by
  refine tymRuns_of_step rfl rfl h hl hg (by rw [hv, Bool.false_and]) (.inl ⟨rfl, hr⟩) ?_
  rw [hv]
  exact tookOne_advance hr (anchor_raiseCond ..)

/-- An EMIT with room in the record queue, whether or not its stream is on. -/
theorem tymRuns_emit (h : TymDue k o [.l o.srca.toNat, .p o.srcb.toNat] s) (hl : emitLegal o = true)
    (hg : s.laneCondOk k o.cond = true) (hr : PcRoom k s) (hq : (s.eng k).recQ.length < 8) :
    TymRuns k (.tymEmit k o) s (TookOne k s) := by
  refine tymRuns_of_step rfl rfl h hl hg (by rw [decide_eq_false (by omega), Bool.and_false]) (.inl ⟨rfl, hr⟩) ?_
  split
  · exact tookOne_advance hr rfl
  · exact tookOne_advance hr (anchor_updEng k (by exact fun _ => rfl) _)

/-! ### Loop instructions (R162, R163) -/

/-- Outside a repetition PC moves on, and nothing of the engine changes but when it issues next. -/
theorem advance_next (hr : PcRoom k t) (hn : (t.eng k).rpt = none) :
    (advance k 1 t).pc k = t.pc k + 1 ∧ (advance k 1 t).eng k = { t.eng k with nextAt := t.cycle + 1 } := by
  have hone : ¬ 2 ≤ (t.eng k).rpt.getD 1 := by rw [hn]; decide
  rw [advance_eq 1 t hr, if_neg hone]
  refine ⟨setPc_pc _ _ hr, ?_⟩
  rw [setPc_eng, eng_updEng_same, eng_updEng_same, ← hn]

/-- The loops of engine k and their depth in ESTAT. -/
def pushLoops (k : Nat) (ls : List Loop) (s : State) : State :=
  (s.updEng k (fun e => { e with loops := ls })).wr (bEng k) F.Eng.ESTAT.LOOP_DEPTH ls.length

theorem pushLoops_pc (ls : List Loop) (s : State) : (pushLoops k ls s).pc k = s.pc k :=
  (rd_wr_field _ _ _ _ _ _ (by decide)).trans (updEng_pc ..)

theorem pushLoops_eng (ls : List Loop) (s : State) : (pushLoops k ls s).eng k = { s.eng k with loops := ls } := by
  rw [pushLoops, wr_eng, eng_updEng_same]

/-- The next instruction with those loops. -/
theorem advance_pushLoops (hr : PcRoom k t) (hn : (t.eng k).rpt = none) (ls : List Loop) :
    (advance k 1 (pushLoops k ls t)).pc k = t.pc k + 1 ∧ ((advance k 1 (pushLoops k ls t)).eng k).loops = ls := by
  have hr' : PcRoom k (pushLoops k ls t) := by rwa [PcRoom, pushLoops_pc]
  have hn' : ((pushLoops k ls t).eng k).rpt = none := by rwa [pushLoops_eng]
  obtain ⟨hpc, heng⟩ := advance_next hr' hn'
  exact ⟨hpc.trans (congrArg (· + 1) (pushLoops_pc ls t)), by rw [heng, pushLoops_eng]⟩

/-- The count of a LOOP (R162). -/
def loopCount (k : Nat) (o : TymOps) (s : State) : Nat :=
  if regForm o then (s.g k o.srca.toNat).toNat % 2 ^ 32 else immF o 39 24

/-- The count of an RPT (R163). -/
def rptCount (k : Nat) (o : TymOps) (s : State) : Nat :=
  if regForm o then (s.g k o.srca.toNat).toNat % 2 ^ 32 else immF o 31 0

/-- The immediate's upper 16 bits. -/
theorem immF_39_24 (o : TymOps) : immF o 39 24 = o.imm.toNat / 2 ^ 24 :=
  Nat.mod_eq_of_lt (Nat.div_lt_of_lt_mul (by have := o.imm.isLt; omega))

/-- The immediate's lower 32 bits. -/
theorem immF_31_0 (o : TymOps) : immF o 31 0 = o.imm.toNat % 2 ^ 32 := by
  rw [immF, Nat.pow_zero, Nat.div_one]

theorem fetchTouch_room (hr : PcRoom k s) : PcRoom k (fetchTouch k s) := by rwa [PcRoom, fetchTouch_pc]

/-- A LOOP with a count and room on the stack opens a loop and goes on. -/
theorem tymRuns_loop (hrpt : (s.eng k).rpt = none) (hcnt : 0 < loopCount k o s) (hlen : (s.eng k).loops.length < 8)
    (h : TymDue k o (ctlReads o) s) (hl : loopLegal o = true) (hg : s.condOk k o.cond = true) (hr : PcRoom k s) :
    TymRuns k (.tymLoop k o) s (fun t => t.pc k = s.pc k + 1 ∧ (t.eng k).loops.length = (s.eng k).loops.length + 1) := by
  refine tymRuns_of_step rfl rfl h hl hg rfl (.inr ⟨rfl, hrpt⟩) ?_
  dsimp only
  have hn : ¬ loopCount k o s = 0 := by omega
  rw [← loopCount, if_neg hn, fetchTouch_loops, if_neg (by omega), goesOn_room _ (fetchTouch_room hr), ← List.length_cons]
  obtain ⟨hpc, hloops⟩ := advance_pushLoops (fetchTouch_room hr) ((fetchTouch_rpt s).trans hrpt)
    ({ start := (fetchTouch k s).pc k + 1, stop := immF o 23 0, cnt := loopCount k o s } :: (s.eng k).loops)
  exact ⟨hpc.trans (by rw [fetchTouch_pc]), congrArg List.length hloops⟩

/-- An ENDL of the last pass closes the innermost loop and goes on. -/
theorem tymRuns_endl (hrpt : (s.eng k).rpt = none) {l : Loop} {ls : List Loop} (hls : (s.eng k).loops = l :: ls)
    (hstop : l.stop = s.pc k) (hcnt : l.cnt ≤ 1) (h : TymDue k o [] s) (hl : bareLegal o = true)
    (hg : s.condOk k o.cond = true) (hr : PcRoom k s) :
    TymRuns k (.tymEndl k o) s (fun t => t.pc k = s.pc k + 1 ∧ (t.eng k).loops = ls) := by
  have hls' : ((fetchTouch k s).eng k).loops = l :: ls := (fetchTouch_loops s).trans hls
  refine tymRuns_of_step rfl rfl h hl hg rfl (.inr ⟨rfl, hrpt⟩) ?_
  simp only [hls']
  rw [if_neg (by rw [fetchTouch_pc]; exact fun hne => hne hstop), if_neg (by omega), goesOn_room _ (fetchTouch_room hr),
    popLoop, hls']
  obtain ⟨hpc, hloops⟩ := advance_pushLoops (fetchTouch_room hr) ((fetchTouch_rpt s).trans hrpt) ls
  exact ⟨hpc.trans (by rw [fetchTouch_pc]), hloops⟩

/-- An RPT with a count begins its repetition and goes on. -/
theorem tymRuns_rpt (hrpt : (s.eng k).rpt = none) (hcnt : 0 < rptCount k o s) (h : TymDue k o (ctlReads o) s)
    (hl : rptLegal o = true) (hg : s.condOk k o.cond = true) (hr : PcRoom k s) :
    TymRuns k (.tymRpt k o) s (fun t => t.pc k = s.pc k + 1 ∧ (t.eng k).rpt = some (rptCount k o s)) := by
  refine tymRuns_of_step rfl rfl h hl hg rfl (.inr ⟨rfl, hrpt⟩) ?_
  dsimp only
  have hn : ¬ rptCount k o s = 0 := by omega
  rw [← rptCount, if_neg hn, goesOn_room _ (fetchTouch_room hr)]
  obtain ⟨hpc, -⟩ := advance_next (fetchTouch_room hr) ((fetchTouch_rpt s).trans hrpt)
  exact ⟨(updEng_pc ..).trans (hpc.trans (by rw [fetchTouch_pc])), by rw [eng_updEng_same]⟩

/-! ### Clears of slots (R98, R102) -/

theorem slot_setSlot_same (k j : Nat) (v : Slot) (s : State) : (s.setSlot k j v).slot k j = v := tget_tput_same _ _ _ _

theorem slot_setSlot_other {k j i : Nat} {v : Slot} (h : j ≠ i) (s : State) : (s.setSlot k i v).slot k j = s.slot k j :=
  tget_tput_other _ _ _ _ _ (by omega)

/-- The RDY bit and the finishing gates of a slot. -/
def State.pubs (s : State) (k j : Nat) : Bool × List Fin_ := ((s.slot k j).rdy, (s.slot k j).fins)

section Pubs

variable (i j : Nat)

theorem pubs_updSlot {f : Slot → Slot} (hf : ∀ x, (f x).rdy = x.rdy ∧ (f x).fins = x.fins) (s : State) :
    (s.updSlot k i f).pubs k j = s.pubs k j := by
  by_cases hj : 64 * (k : Nat) + j = 64 * k + i
  · obtain rfl : j = i := Nat.add_left_cancel hj
    rw [State.pubs, slot_updSlot_same, (hf _).1, (hf _).2, State.pubs]
  · rw [State.pubs, slot_updSlot_other _ _ _ _ _ _ hj, State.pubs]

theorem pubs_zeroHist (s : State) : (zeroHist k i s).pubs k j = s.pubs k j := by
  unfold zeroHist
  split
  · exact (pubs_updSlot i j (by exact fun _ => ⟨rfl, rfl⟩) _).trans
      (forN_same (fun t : State => t.pubs k j) 256 (fun n t => t.setTw (tHist + 0x2000 * k + 0x400 * i + 4 * n) 0#32)
        (fun n t => by rw [State.pubs, setTw_slot, State.pubs]) s)
  · rfl

theorem pubs_gstateUpd (s : State) : (gstateUpd k i s).pubs k j = s.pubs k j := by
  rw [State.pubs, gstateUpd, wr_slot, State.pubs]

theorem pubs_openGate (n : Nat) (s : State) : (openGate k i n s).pubs k j = s.pubs k j :=
  (pubs_gstateUpd i j _).trans (pubs_updSlot i j (by exact fun _ => ⟨rfl, rfl⟩) s)

theorem pubs_slotReady (n : Nat) (s : State) : (slotReady k i n s).pubs k j = s.pubs k j := by
  unfold slotReady
  extract_lets s1
  have h1 : s1.pubs k j = s.pubs k j := pubs_updSlot i j (by exact fun _ => ⟨rfl, rfl⟩) s
  split
  · exact (pubs_openGate i j n s1).trans h1
  · exact (pubs_gstateUpd i j s1).trans h1

/-- A cleared slot has published nothing and finishes nothing; the others stay. -/
theorem pubs_clearSlot (s : State) : (clearSlot k i s).pubs k j = if j = i then (false, []) else s.pubs k j := by
  unfold clearSlot
  extract_lets x n s1 s2 s3
  have h2 : s2.pubs k j = if j = i then (false, []) else s.pubs k j := by
    split
    · rename_i hj
      subst hj
      rw [State.pubs, updSkein_slot]
      rw [slot_setSlot_same]
    · rename_i hj
      rw [State.pubs, updSkein_slot]
      rw [slot_setSlot_other (by omega), inc_slot, State.pubs]
  have h3 : s3.pubs k j = s2.pubs k j := by
    dsimp only [s3]
    split
    · exact pubs_zeroHist i j s2
    · rfl
  exact (pubs_slotReady i j _ s3).trans (h3.trans h2)

end Pubs

theorem pubs_clearSlots {j mask : Nat} (hj : j < 64) (hm : mask.testBit j = true) (s : State) :
    (clearSlots k mask s).pubs k j = (false, []) := by
  unfold clearSlots
  refine forN_meets (P := fun _ => True) (Q := fun t => t.pubs k j = (false, []))
    (fun i t => if mask.testBit i then clearSlot k i t else t) hj (fun _ _ _ _ => trivial) (fun i hi t ht => ?_)
    (fun t _ => ?_) trivial
  · split
    · rw [pubs_clearSlot, if_neg hi.symm, ht]
    · exact ht
  · rw [if_pos hm, pubs_clearSlot, if_pos rfl]

theorem runs_mauclr (hr : s.phase = .running) {mask : Word} (hreach : s.reachable (bSk k + F.Sk.MAUCLR.off) = true) :
    Runs (.mauclr k mask) s (fun t => ∀ j, j < 64 → mask.getLsbD j = true → t.pubs k j = (false, [])) := by
  refine runs_of_act rfl hr ?_
  rw [cmdAccess_on _ _ _ _ hreach]
  exact fun j hj hm => pubs_clearSlots hj hm _

/-! ### The statement of O31 -/

theorem loopCount_eq : loopCount k o s =
    if o.srcb.getLsbD 3 then (s.g k o.srca.toNat).toNat % 2 ^ 32 else o.imm.toNat / 2 ^ 24 := by
  rw [loopCount, immF_39_24]; rfl

theorem rptCount_eq : rptCount k o s =
    if o.srcb.getLsbD 3 then (s.g k o.srca.toNat).toNat % 2 ^ 32 else o.imm.toNat % 2 ^ 32 := by
  rw [rptCount, immF_31_0]; rfl

/-- Settles O31: the instructions of one cycle move neither the engine nor the time before they advance, the loop instructions
change its stack or its repetition alone, and the counter commands and the lock are those of O30. -/
theorem countersLoopsAndStreamsComplete : Obligations.CountersLoopsAndStreamsComplete := by
  unfold Obligations.CountersLoopsAndStreamsComplete
  intro s k o hrun
  refine ⟨tymRuns_mset, tymRuns_mget, tymRuns_mclr, tymRuns_arm, tymRuns_signal,
    fun hv => ⟨tymRuns_mark hv, tymRuns_fire hv⟩, tymRuns_mgetLane, tymRuns_emit,
    fun hrpt => ⟨fun hcnt hlen => ?_, fun l ls hls hstop hcnt => tymRuns_endl hrpt hls hstop hcnt, fun hcnt => ?_⟩,
    fun hreach => ⟨fun both => ?_, (runs_cntClr hrun hreach).mono fun _ h => h.void⟩, fun mask hreach => ?_,
    fun err ctrl hd hn => (runs_dllUpdate hrun hd hn err ctrl).mono fun _ h => h.recorded.code⟩
  case refine_1 =>
    rw [← loopCount_eq] at hcnt
    exact tymRuns_loop hrpt hcnt hlen
  case refine_2 =>
    rw [← rptCount_eq] at hcnt ⊢
    exact tymRuns_rpt hrpt hcnt
  case refine_3 =>
    refine (runs_cntSnap hrun hreach both).mono fun t ⟨u, h, ht⟩ => ?_
    cases both with
    | false => exact (show t = u from ht) ▸ h.seq
    | true => exact (show Cleared k u t from ht).seq.trans h.seq
  case refine_4 => exact (runs_mauclr hrun hreach).mono fun _ h j hj hm => Prod.mk.inj (h j hj hm)

end Sys2Proof.Machine
end
